-- ==== Sys2Proof/Word.lean ====
section
/-! DEFINITION. The word types of the KX2: the 32-bit register, the byte, and the 128-bit memory word with its poison
bit (00, Terms; 04 R160). -/

namespace Sys2Proof

/-- A 32-bit register (00, Terms). -/
abbrev Word := BitVec 32

/-- A byte. -/
abbrev Byte := BitVec 8

/-- A 128-bit word as the protocol carries it: its bits and its POISON bit (04 R158, R160). -/
structure Quad where
  bits : BitVec 128
  poison : Bool
  deriving DecidableEq, Repr

/-- Four words, 64 B, in address order. -/
abbrev LineData := List Quad

def Quad.zero : Quad := ⟨0, false⟩

/-- What the hub delivers for a poisoned word: data 0xA5 in every byte and POISON=1 (09 R402). -/
def Quad.poisoned : Quad := ⟨0xA5A5A5A5A5A5A5A5A5A5A5A5A5A5A5A5, true⟩

/-- A reference to a line: HA[29:6]. -/
abbrev Line := Nat

end Sys2Proof
end

