-- ==== Sys2Proof/Syntax.lean ====
section
/-! DEFINITION. The commands of the KX2: one constructor of `Instr` per row of spec/opcode_table.json. A command is a
message or a flit that arrives, a management access, an event on a land, or an instant at which one of the hub's own
timed or arbitrated events may happen. -/

namespace Sys2Proof

/-- The access paths of R769. `partner k`: an access that arrives over the pair link, `k` 0 the partner's SPI, 1 its
I²C target, 2+p the MSG channel of its port p. -/
inductive Path where
  | spi | i2c | msg (p : Fin 16) | image | partner (k : Fin 18)
  deriving DecidableEq, Repr

/-- Where a message enters this hub: at an agent port, or over the pair link from the partner, on behalf of the agent
with that ID or of the partner's engine with that requester number (12 R540, R543). -/
inductive Src where
  | agent (p : Fin 16) | partner (a : Fin 32) | engine (q : Fin 22)
  deriving DecidableEq, Repr

/-- An agent link or the pair link. -/
inductive LinkSel where
  | aport (p : Fin 16) | pair
  deriving DecidableEq, Repr

/-- The header of an agent request: entry point, FT and VC of its flit (R158), and the common fields of R161. `addr`
is the agent address; from the partner it is the HA in bits 29:0 (R112), with bit 47 set when the partner says that its agent may be
made forwarder (05 R232, log 66), or for an MSG operation the epoch at admission (14 R631). -/
structure Hdr where
  src : Src
  ft : Fin 4
  vc : Fin 8
  tag : Fin 64
  tenant : Fin 32
  addr : BitVec 48
  deriving DecidableEq, Repr

/-- The header of a snoop response: the second layout of R161, or R211 on DAT. From the partner, `addr` is the HA. -/
structure RspHdr where
  src : Src
  ft : Fin 4
  vc : Fin 8
  sid : Fin 64
  addr : BitVec 48
  deriving DecidableEq, Repr

/-- A data flit: its 128 bits, POISON and LAST (R158). -/
structure DFlit where
  word : BitVec 128
  poison : Bool
  last : Bool
  deriving DecidableEq, Repr

/-- The phase registers of TICK (R42). -/
inductive PhaseReg where
  | precommit | commitBudget | release | hkStart | hkLen | inCutoff
  deriving DecidableEq, Repr

/-- The state stores of the last row of R711. -/
inductive ParityStore where
  | chain | tracker | lockRegistry | allocQueue | mantis
  deriving DecidableEq, Repr

/-- The capability fields of a TS2 flit (04, Capabilities) and of the pair's TS2 (12 R526): version, declarations, and
advertised credits REQ, SNP, RSP, DAT, CMP, MSG. -/
structure Ts2 where
  ver : Fin 4
  profE : Bool
  profF : Bool
  edataCap : Bool
  evClean : Bool
  fwd : Bool
  credits : List (BitVec 8)
  role : Bool
  en : Bool
  rev : BitVec 8
  uid : BitVec 64
  deriving DecidableEq, Repr

/-- A fabric frame: the header fields of 13 R561 and the payload bytes. -/
structure Frame where
  cls : Fin 8
  src : BitVec 6
  dst : BitVec 6
  hops : Fin 16
  vc : Fin 2
  seq : BitVec 16
  payload : List Byte
  deriving DecidableEq, Repr

/-- How a received frame fails the checks of 13 R563. -/
inductive FrameFault where
  | crc | reservedClass | length
  deriving DecidableEq, Repr

/-- An answer to a forwarded request (12 R540, R544): what the home hub sends back. `refused`: the
request is one that 05 R249 refuses in its state. -/
inductive FwdAns where
  | completion (opcode : BitVec 8) (spec : BitVec 40) (flits : List DFlit)
  | edata (flits : List DFlit)
  | verdict (confirm : Bool) (reason : Fin 8)
  | refused (opcode : BitVec 8)
  deriving DecidableEq, Repr

/-- A snoop kind (R209). -/
inductive SnpKind where
  | snpS | snpInv | snpFwdS | snpFwdU | snpFlushSet
  deriving DecidableEq, Repr

/-- A command of the block: one constructor per row of the table, in the table's order. -/
inductive Instr where
  -- registers (00, 17)
  | registerWrite (path : Path) (ca : BitVec 24) (v : Word)
  | multiWordLowRead (path : Path) (ca : BitVec 24)
  | multiWordHighWrite (path : Path) (ca : BitVec 24) (v : Word)
  -- tick (02)
  | tickEdge
  | tickRunSet (path : Path) (v : Word)
  | tickRunClear (path : Path) (v : Word)
  | tickPeriodWrite (path : Path) (v : Word)
  | phaseRegisterWrite (path : Path) (r : PhaseReg) (v : Word)
  | faultClr (path : Path) (v : Word)
  | commitBudgetCheck
  | stretchMaxExpiry
  | preCommitStart
  | preReleaseStart
  | preCarryCopy
  | commitReady
  | commitFlip
  | commitWindowClose
  | releasePoint
  | releaseBudgetCheck (remote : List (List DFlit))
  | releaseFlip (remote : List (List DFlit))
  | scheduleLoad (remote : List (List DFlit))
  | scheduleEntryApply (k : Fin 256)
  | pulseEnd (pin : Fin 16)
  | evtInputEdge (pin : Fin 16) (rising : Bool)
  | captureRecordWrite
  | housekeepingSliceStart
  | housekeepingSliceEnd
  | inCutoff
  | tickMark (num : Word)
  | tickMarkMissing
  | flipMark (release : Bool)
  -- addresses, regions, tenants (03)
  | winCtlWrite (path : Path) (p : Fin 16) (k : Fin 16) (v : Word)
  | descriptorWrite (path : Path) (r : Fin 64) (reg : Fin 5) (v : Word)
  | apply (path : Path) (v : Word)
  | revert (path : Path) (v : Word)
  | retireDone
  | tenantReset (path : Path) (t : Fin 32) (v : Word)
  | tenantResetComplete (t : Fin 32)
  -- agent requests (04, 05)
  | rdS (h : Hdr) (exclOk : Bool)
  | rdU (h : Hdr)
  | upg (h : Hdr) (fromF : Bool)
  | rdOnce (h : Hdr)
  | evClean (h : Hdr)
  | lkRd (h : Hdr) (needData : Bool)
  | ulWr (h : Hdr) (wr : Bool) (flits : List DFlit)
  | wrBack (h : Hdr) (flits : List DFlit)
  | wrFull (h : Hdr) (flits : List DFlit)
  | wrPartial (h : Hdr) (be : BitVec 16) (flits : List DFlit)
  | hAtom (h : Hdr) (op : Fin 4) (flits : List DFlit)
  -- serialisation and arbitration (07, 10)
  | arbiterGrant
  | chainHeadStart (line : BitVec 24)
  | allocQueueRetry (set : Fin 32768)
  | roundEnd
  | starveClear (path : Path) (v : Word)
  -- snoop responses (05)
  | rspI (r : RspHdr)
  | rspS (r : RspHdr)
  | rspIWb (r : RspHdr) (flits : List DFlit)
  | rspSWb (r : RspHdr) (flits : List DFlit)
  | rspFwd (r : RspHdr) (flits : List DFlit)
  | rspIWbp (r : RspHdr)
  | rspErr (r : RspHdr)
  -- timers of requests and snoops (04, 05, 07)
  | edataWaitTimeout (p : Fin 16) (tag : Fin 64)
  | holdDue (p : Fin 16) (tag : Fin 64)
  | resnoopTimeout (p : Fin 16) (sid : Fin 64)
  | snoopDeadTimeout (p : Fin 16) (sid : Fin 64)
  | wrBackMatchTimeout (p : Fin 16) (sid : Fin 64)
  -- failure containment (15)
  | reclaimSweepStep
  | reclaimSweepEnd
  | restart (path : Path) (v : Word)
  | autoRestartExpiry
  | failCtlHalt (path : Path) (v : Word)
  | internalParityError (store : ParityStore)
  -- link layer (04, 12)
  | status (lk : LinkSel) (ack : BitVec 8) (freed : List (BitVec 8))
  | nak (lk : LinkSel) (ack : BitVec 8) (freed : List (BitVec 8))
  | badFlit (lk : LinkSel) (rd : BitVec 4) (groups : List (BitVec 10))
  | statusSend (lk : LinkSel)
  | skipSend (lk : LinkSel)
  | signalDetect (lk : LinkSel)
  | ts1 (lk : LinkSel) (lanes : BitVec 20)
  | ts2 (lk : LinkSel) (caps : Ts2)
  | trainingTimeout (lk : LinkSel)
  | trainingRetry (lk : LinkSel)
  | retrain (lk : LinkSel)
  | ackStallTimeout (lk : LinkSel)
  | silenceTimeout (lk : LinkSel)
  | alignmentLoss (lk : LinkSel)
  | retrainTimeout (lk : LinkSel)
  | lreset (path : Path) (p : Fin 16) (v : Word)
  | aportDisable (path : Path) (p : Fin 16) (v : Word)
  | linkActive (lk : LinkSel)
  -- MSG channel (14, 17)
  | cfgRd (h : Hdr) (ca : BitVec 24) (nreg : Fin 4)
  | cfgWr (h : Hdr) (ca : BitVec 24) (nreg : Fin 4) (flits : List DFlit)
  | post (h : Hdr) (reserved : Option (Fin 5)) (mbx : Fin 256) (flits : List DFlit)
  | dbMask (h : Hdr) (flits : List DFlit)
  | cargoWrite (h : Hdr) (handle : BitVec 16) (hub : Bool) (word : Fin 16) (nw : Fin 4) (flits : List DFlit)
  | take (h : Hdr) (reserved : Option (Fin 4)) (mbx : Fin 256)
  | mbxStatus (h : Hdr) (mbx : Fin 256)
  | dbTake (h : Hdr)
  | cargoRead (h : Hdr) (handle : BitVec 16) (hub : Bool) (word : Fin 16) (nw : Fin 4)
  | cargoAlloc (h : Hdr) (hub : Bool)
  | cargoGive (h : Hdr) (handle : BitVec 16) (hub : Bool) (target : Fin 32)
  | cargoFree (h : Hdr) (handle : BitVec 16) (hub : Bool)
  | dbNotify (t : Fin 32)
  | svcPost (path : Path) (mbx : Fin 128) (v : Word)
  | svcTake (path : Path) (mbx : Fin 128) (v : Word)
  | mbxPostFrame (p : Fin 4) (f : Frame)
  | mbxAckFrame (p : Fin 4) (f : Frame)
  | mbxRetryTimeout (mbx : Fin 128)
  -- snoop filter (08)
  | snpFlushSetSend
  | setRecoveryEnd
  | repairFlow (line : BitVec 24)
  | dirInject (path : Path) (v : Word)
  -- home cache and memory (09)
  | flush (path : Path) (v : Word)
  | flushDone
  | syndromeSearch
  | ebufDrainStart
  | ebufWriteDone
  | hcacheInject (path : Path) (v : Word)
  | memInject (path : Path) (v : Word)
  -- locks and the Mantis (10)
  | lockForce (path : Path) (v : Word)
  | mantisEdgeEvent (add : Bool) (waiter : Fin 32) (holder : Fin 32) (tag : Fin 64) (lk : Bool) (tick : Word)
      (offset : BitVec 20) (line : BitVec 24)
  | mantisBreak (victim : Fin 32) (tag : Fin 64) (line : BitVec 24)
  -- pair (12)
  | pairTrainTimeout
  | pairTrainRetry
  | echo (n : Fin 16)
  | echoRsp (rtt : BitVec 16)
  | join
  | joined
  | joinTimeout
  | mirrorRecord (ca : BitVec 20) (v : Word)
  | mirrorAck
  | decision (release : Bool) (d : Fin 3)
  | boundReport (release : Bool) (bound : BitVec 20)
  | readyReport (release : Bool)
  | holdReasonReport (p : Fin 16) (tag : Fin 64) (reason : Fin 8)
  | abandon (agent : Fin 32) (tag : Fin 64)
  | removed (p : Fin 16) (tag : Fin 64)
  | ended (p : Fin 16) (tag : Fin 64)
  | deadAgentReport (agent : Fin 32)
  | deadClearReport (ids : Word)
  | haltOrder (cause : Fin 16)
  | pairLreset (path : Path) (v : Word)
  | doorbellSetRecord (t : Fin 32) (bit : Fin 32)
  -- fabric and stations (13)
  | anComplete (p : Fin 4) (matched : Bool)
  | syncAcquired (p : Fin 4)
  | fabricLinkDown (p : Fin 4)
  | frameForward (p : Fin 4) (f : Frame)
  | frameDiscard (p : Fin 4) (why : FrameFault)
  | credit (p : Fin 4) (f : Frame)
  | creditSend (p : Fin 4)
  | hello (p : Fin 4) (f : Frame)
  | helloSend (p : Fin 4)
  | electStable
  | links (p : Fin 4) (f : Frame)
  | reportTimeout
  | route (p : Fin 4) (f : Frame)
  | routeAck (p : Fin 4) (f : Frame)
  | routeTimeout
  | redisc (path : Path) (v : Word)
  | fabricEcho (p : Fin 4) (f : Frame) (turn : BitVec 32)
  | fabricEchoRsp (p : Fin 4) (f : Frame) (rtt : BitVec 32)
  | fabricEchoSend (p : Fin 4)
  | syncEdge (p : Fin 4) (f : Frame) (sub : Fin 10) (turn : BitVec 32)
  | syncStretch (p : Fin 4) (f : Frame)
  | fportLreset (path : Path) (p : Fin 4) (v : Word)
  | stnIn (p : Fin 4) (f : Frame)
  | bindSend (e : Fin 48)
  | bindAck (p : Fin 4) (f : Frame)
  | stationEntryEnable (path : Path) (e : Fin 48) (v : Word)
  | stationEnable (path : Path) (qual : Bool) (v : Word)
  -- page header (17, 15)
  | cfgErrClear (path : Path) (page : Fin 256) (v : Word)
  | irqStatClear (path : Path) (page : Fin 256) (v : Word)
  | irqForce (path : Path) (page : Fin 256) (v : Word)
  | irqEnWrite (path : Path) (page : Fin 256) (v : Word)
  | alertResponse
  | freeze (path : Path) (page : Fin 256) (v : Word)
  | lock (path : Path) (page : Fin 256) (v : Word)
  | pageCtlEn (path : Path) (page : Fin 256) (v : Word)
  -- SPI and I²C (17)
  | read (addr : BitVec 24) (count : BitVec 8) (remote : List Word)
  | write (addr : BitVec 24) (bytes : List Byte)
  | spiStatus
  | spiReservedCommand (cmd : Byte)
  | partnerWriteDone
  | i2cWriteTransfer (addr : BitVec 24) (bytes : List Byte)
  | i2cReadTransfer (addr : BitVec 24) (nbytes : BitVec 12) (remote : List Word)
  | i2cStop
  | sclTimeout
  | aliasAccess (path : Path) (ca : BitVec 24) (wr : Option Word)
  -- performance counters and debug (18)
  | perfSelWrite (path : Path) (k : Fin 8) (v : Word)
  | peek (path : Path) (v : Word)
  | peekDone
  | traceCtlWrite (path : Path) (v : Word)
  -- resets, power, boot (16, 19)
  | coldReset
  | vinLow
  | nReset
  | softReset (path : Path) (v : Word)
  | dReset (path : Path) (v : Word)
  | domainResetOrder
  | domainResetLinkPhase
  | powerStageReady
  | loadComplete
  | go (path : Path) (v : Word)
  | restoreDone
  | flashRead (path : Path) (v : Word)
  | flashProgram (path : Path) (v : Word)
  | flashErase (path : Path) (v : Word)
  | flashOpDone
  | load (path : Path) (v : Word)
  | loadStart (path : Path) (v : Word)
  | loadCheck (path : Path) (v : Word)
  | otpProgram (path : Path) (v : Word)
  | runRequest (path : Path) (v : Word)
  | idleRequest (path : Path) (v : Word)
  | standbyRequest (path : Path) (v : Word)
  | laneWake (p : Fin 16)
  | standbyExitDone
  | powerFailTrigger
  | shutdown (path : Path) (v : Word)
  | retainSaveDone
  | retainEraseDone
  | holdExit
  | referenceStop
  | overTemperature
  -- JTAG (19)
  | extest (cells : BitVec 71) (lands : BitVec 71)
  | samplePreload (cells : BitVec 71) (lands : BitVec 71)
  | highz
  | bypass (code : Fin 16) (tdi : Bool)
  -- rows of the reader's table (12, 17, 19)
  | remoteSnoop (p : Fin 16) (kind : SnpKind) (noData : Bool) (ha : BitVec 30) (set : Fin 32768)
  | forwardedAnswer (p : Fin 16) (tag : Fin 64) (a : FwdAns)
  | chipSelectRise
  | testHigh
  | overTemperatureRestart
  deriving DecidableEq, Repr

end Sys2Proof
end

