-- ==== Sys2Proof/Decode.lean ====
section
/-! DEFINITION. Decoding of the words of spec/opcode_table.json. No row of that table gives bits: the commands of the
block arrive as messages, flits, accesses and events, whose operands the constructors of `Instr` carry. -/

namespace Sys2Proof

/-- The command that a word spells by the table's bits: none, since no row has bits. -/
def decodeTableWord (_nbits _w : Nat) : Option Instr := none

end Sys2Proof
end

