-- ==== Sys2Proof/Machine/Maps.lean ====
section
/-! DEFINITION. Sparse stores: a list of (key, value) pairs in one canonical form, keys strictly rising and no value
equal to what an unlisted key reads as. Registers, memory, flash, the directory, the home cache and the other
arrays of the hub are held in it. -/

namespace Sys2Proof.Machine

/-- A sparse store from numbers to `α`. -/
abbrev KV (α : Type) := List (Nat × α)

/-- Read key `k`; `d` gives what an unlisted key reads as. -/
def kvGet {α : Type} (d : Nat → α) : KV α → Nat → α
  | [], k => d k
  | (a, v) :: t, k => if a = k then v else kvGet d t k

/-- Drop key `k`. -/
def kvDel {α : Type} : KV α → Nat → KV α
  | [], _ => []
  | (a, v) :: t, k => if a = k then kvDel t k else (a, v) :: kvDel t k

/-- Put a pair before the first greater key. -/
def kvIns {α : Type} : KV α → Nat → α → KV α
  | [], k, v => [(k, v)]
  | (a, w) :: t, k, v => if k < a then (k, v) :: (a, w) :: t else (a, w) :: kvIns t k v

/-- Write key `k`, keeping the canonical form. -/
def kvSet {α : Type} [DecidableEq α] (d : Nat → α) (m : KV α) (k : Nat) (v : α) : KV α :=
  if v = d k then kvDel m k else kvIns (kvDel m k) k v

/-- The canonical form: keys strictly rising, no value the unlisted one. -/
def kvWf {α : Type} [DecidableEq α] (d : Nat → α) : KV α → Bool
  | [] => true
  | (a, v) :: t => decide (v ≠ d a) && t.all (fun e => decide (a < e.1)) && kvWf d t

end Sys2Proof.Machine
end

