-- ==== Sys2Proof/Machine/Code.lean ====
section
/-! DEFINITION. Codes of the KX2: the address-folded per-byte code and its word classes (09 R395-R403), even parity,
the CRC-16 of a flit (04 R157), the CRC-32 of frames and images (13 R562, 16 R738) and the CRC-8 of SMBus (17 R783). -/

namespace Sys2Proof.Machine

/-- Even-parity bit of the low `n` bits of `x`: 1 when an odd number of them is set. -/
def parityN (x : Nat) : Nat → Bool
  | 0 => false
  | n + 1 => xor (x.testBit n) (parityN x n)

/-- The fold F[7:0] of a word address WA[25:0] (R395). -/
def foldWa (wa : Nat) : Nat :=
  Nat.xor (Nat.xor (wa % 256) (wa / 256 % 256)) (Nat.xor (wa / 65536 % 256) (wa / 16777216 % 4))

/-- The fold terms G4..G0 of lane class A (R396). -/
def foldA (f : Nat) : Nat :=
  let h := Nat.xor (f % 16) (f / 16 % 16)
  let b := fun i => h.testBit i
  (b 0).toNat + 2 * (xor (b 0) (b 1)).toNat + 4 * (xor (b 1) (b 2)).toNat + 8 * (xor (b 2) (b 3)).toNat +
    16 * (b 3).toNat

/-- The fold terms G4..G0 of lane class B (R396). -/
def foldB (f : Nat) : Nat :=
  let b := fun i => f.testBit i
  (xor (b 3) (b 4)).toNat + 2 * (xor (b 0) (xor (b 4) (b 5))).toNat +
    4 * (xor (b 0) (xor (b 1) (xor (b 3) (xor (b 5) (b 6))))).toNat +
    8 * (xor (b 1) (xor (b 2) (xor (b 6) (b 7)))).toNat + 16 * (xor (b 2) (b 7)).toNat

/-- Fold terms of byte lane `lane`: even lanes class A, odd lanes class B (R396). -/
def foldLane (lane f : Nat) : Nat := if lane % 2 = 0 then foldA f else foldB f

/-- The data part of the check bits c4..c0 (R397). -/
def checkData (d : Nat) : Nat :=
  let b := fun i => d.testBit i
  (xor (b 0) (xor (b 1) (xor (b 2) (xor (b 3) (b 4))))).toNat +
    2 * (xor (b 0) (xor (b 1) (xor (b 2) (xor (b 5) (xor (b 6) (b 7)))))).toNat +
    4 * (xor (b 0) (xor (b 3) (xor (b 4) (xor (b 5) (b 6))))).toNat +
    8 * (xor (b 1) (xor (b 3) (xor (b 5) (b 7)))).toNat +
    16 * (xor (b 2) (xor (b 4) (xor (b 6) (b 7)))).toNat

/-- The check bits of data byte `d` in lane `lane` of the word with fold `f` (R397). -/
def checkBits (d lane f : Nat) : Nat := Nat.xor (checkData d) (foldLane lane f)

/-- A stored byte of 13 bits: d in bits 7:0, c in bits 12:8 (R397). -/
def storeByte (d lane f : Nat) : BitVec 13 := BitVec.ofNat 13 (d % 256 + 256 * checkBits (d % 256) lane f)

/-- The stored poison byte: data 0xA5, check bits 0b11111 (R400). -/
def poisonByte : BitVec 13 := 0x1FA5#13

/-- The syndrome of a stored byte (R398). -/
def syndrome (sb : BitVec 13) (lane f : Nat) : Nat :=
  Nat.xor (sb.toNat / 256) (checkBits (sb.toNat % 256) lane f)

/-- What a syndrome says of a byte (R398). -/
inductive ByteErr where | none | check | data (bit : Nat) | uncorr | double
  deriving DecidableEq, Repr

def decodeSyndrome : Nat → ByteErr
  | 0 => .none
  | 1 | 2 | 4 | 8 | 16 => .check
  | 7 => .data 0 | 11 => .data 1 | 19 => .data 2 | 13 => .data 3
  | 21 => .data 4 | 14 => .data 5 | 22 => .data 6 | 26 => .data 7
  | 25 | 28 | 31 => .uncorr
  | _ => .double

/-- The byte value after correction of a single-bit error (R398). -/
def correctByte (sb : BitVec 13) (lane f : Nat) : Nat :=
  let d := sb.toNat % 256
  match decodeSyndrome (syndrome sb lane f) with
  | .data b => Nat.xor d (2 ^ b)
  | _ => d

def singleOrNone (s : Nat) : Bool :=
  match decodeSyndrome s with | .none | .check | .data _ => true | _ => false

/-- The classes of a word (R399). -/
inductive WClass where | poison | mixed | address | clean | corrected | uncorr
  deriving DecidableEq, Repr

def evenWeight (s : Nat) : Bool := !(parityN s 5)

/-- Every element equals the first. -/
def allEq : List Nat → Bool
  | [] => true
  | a :: t => t.all (· == a)

/-- Syndromes of the bytes of a word (or of an entry body) with fold `f`. -/
def syndromes (f : Nat) : Nat → List (BitVec 13) → List Nat
  | _, [] => []
  | i, b :: t => syndrome b i f :: syndromes f (i + 1) t

/-- Elements at even places. -/
def evens : List Nat → List Nat
  | [] => [] | [a] => [a] | a :: _ :: t => a :: evens t

def odds : List Nat → List Nat
  | [] => [] | [_] => [] | _ :: b :: t => b :: odds t

/-- The rows ADDRESS, CLEAN, CORRECTED and UNCORRECTABLE of R399 over a list of syndromes. -/
def classSyn (ss : List Nat) : WClass :=
  let x := (evens ss).headD 0
  let y := (odds ss).headD 0
  if allEq (evens ss) && allEq (odds ss) && evenWeight x && evenWeight y && (x != 0 || y != 0) then .address
  else if ss.all (· == 0) then .clean
  else if ss.all singleOrNone then .corrected
  else .uncorr

/-- The class of a stored word read with fold `f` (R399). -/
def classWord (f : Nat) (w : List (BitVec 13)) : WClass :=
  let p := w.countP (· == poisonByte)
  if p ≥ 14 then .poison else if p ≥ 1 then .mixed else classSyn (syndromes f 0 w)

/-- The bytes of a stored word after correction. -/
def correctBytes (f : Nat) : Nat → List (BitVec 13) → List Nat
  | _, [] => []
  | i, b :: t => correctByte b i f :: correctBytes f (i + 1) t

/-- Little-endian value of a list of bytes. -/
def bytesToNat : List Nat → Nat
  | [] => 0
  | b :: t => b % 256 + 256 * bytesToNat t

/-- The low `n` bytes of a value, lowest first. -/
def natToBytes : Nat → Nat → List Nat
  | 0, _ => []
  | n + 1, x => x % 256 :: natToBytes n (x / 256)

/-- A list of bytes stored with fold `f` from lane `i`. -/
def encodeBytes (f : Nat) : Nat → List Nat → List (BitVec 13)
  | _, [] => []
  | i, b :: t => storeByte b i f :: encodeBytes f (i + 1) t

/-- The stored form of a word: poison bytes for POISON=1 (R400, R401), else data with check bits (R397). -/
def encodeQuad (f : Nat) (q : Quad) : List (BitVec 13) :=
  if q.poison then List.replicate 16 poisonByte else encodeBytes f 0 (natToBytes 16 q.bits.toNat)

/-- The value of a word of class CLEAN or CORRECTED. -/
def decodeQuad (f : Nat) (w : List (BitVec 13)) : Quad :=
  ⟨BitVec.ofNat 128 (bytesToNat (correctBytes f 0 w)), false⟩

/-! CRCs. -/

/-- One bit of a most-significant-first CRC of width `w`. -/
def crcStep (w poly : Nat) (crc : Nat) (bit : Bool) : Nat :=
  let top := crc.testBit (w - 1)
  let sh := crc * 2 % 2 ^ w
  if xor top bit then Nat.xor sh poly else sh

/-- One byte, most significant bit first. -/
def crcByte (w poly crc b : Nat) : Nat :=
  [7, 6, 5, 4, 3, 2, 1, 0].foldl (fun c i => crcStep w poly c (b.testBit i)) crc

/-- The bytes of a list after a register value; the value is taken apart at each byte, so that it is a number by then. -/
def crcBytes (w poly : Nat) : Nat → List Nat → Nat
  | c, [] => c
  | 0, b :: t => crcBytes w poly (crcByte w poly 0 b) t
  | c + 1, b :: t => crcBytes w poly (crcByte w poly (c + 1) b) t

/-- The CRC-16 of a flit: polynomial 0x1021, seed 0xFFFF, no reflection, no final XOR (04 R157). -/
def crc16 (bs : List Nat) : Nat := crcBytes 16 0x1021 0xFFFF bs

/-- The CRC-8 of SMBus: polynomial 0x07 (17 R783). -/
def crc8 (bs : List Nat) : Nat := crcBytes 8 0x07 0 bs

/-- The low `n` bits of `x` in reverse order. -/
def reverseBits : Nat → Nat → Nat
  | 0, _ => 0
  | n + 1, x => (x % 2) * 2 ^ n + reverseBits n (x / 2)

/-- The reflected CRC-32 of IEEE 802.3 (13 R562): seed and final XOR 0xFFFF_FFFF, bytes least significant bit first. -/
def crc32 (bs : List Nat) : Nat :=
  Nat.xor (reverseBits 32 (crcBytes 32 0x04C11DB7 0xFFFFFFFF (bs.map (reverseBits 8)))) 0xFFFFFFFF

end Sys2Proof.Machine
end

