-- ==== Sys2Proof/Config.lean ====
section
/-! DEFINITION. What an implementation fixes and the free values: values the spec leaves open, which nothing in Lean
can evaluate. A drawn value is applied to `State.free`, a counter that the step advances when it draws one (log 3). -/

namespace Sys2Proof

/-- A choice the spec leaves open, as a Bool (log 3). -/
opaque Config.freeBool : Nat → Bool

/-- A 32-bit value the spec leaves open (log 3). -/
opaque Config.freeWord : Nat → BitVec 32

/-- The 128 payload bits of a record of the pair link whose layout the spec does not give (12 R521, R529, R536, log 126): a value for
each record. -/
opaque Config.recordBits {α : Type} : α → BitVec 128

end Sys2Proof
end

