-- ==== Sys2Proof/Machine/RegTable.lean ====
section
/-! DEFINITION. The register fields of the KX2, generated from the register tables of spec/ (each table's rule is
named above its fields): one `Fld` constant per field, named PAGE_REGISTER_FIELD as the manual writes it, and the
table `fieldTable` of access code, reset value, reset classes, range and mirroring that a configuration write, a
read and a reset follow. -/

namespace Sys2Proof.Machine

/-- The access codes of R7. -/
inductive Acc where | rw | ro | w1c | w1s | wo | rwl | rws
  deriving DecidableEq, Repr

/-- What R16 and R17 refuse in a field: nothing, values outside a range, listed reserved encodings. -/
inductive Chk where | any | range (a b : Nat) | notIn (l : List Nat)
  deriving DecidableEq, Repr

/-- A register field: page, offset in the page, lowest bit, width. -/
structure Fld where
  page : Nat
  off : Nat
  lo : Nat
  w : Nat
  deriving DecidableEq, Repr

/-- One row of a register table: the field (with the number of pages and the array strides), access code, reset
value (for an image field its image default, R737), reset classes (1 C, 2 W, 4 D, 8 T, 16 L), whether the reset
value is the image's (R10), its range, whether it is mirrored (R532), whether it is a statistics field (R789). -/
structure FieldRow where
  page : Nat
  npage : Nat
  off : Nat
  dims : List (Nat × Nat)
  lo : Nat
  w : Nat
  acc : Acc
  dflt : Nat
  cls : Nat
  img : Bool
  chk : Chk
  mir : Bool
  stat : Bool
  deriving DecidableEq, Repr

/-- The place of the word at an offset of a page in `State.regs`. -/
def regKey (page off : Nat) : Nat := page * 4096 + off

def Fld.key (f : Fld) : Nat := regKey f.page f.off

namespace R


/-! TICK page: R59 (chapter 02). -/

def TICK_CTL_RUN : Fld := ⟨0x1, 0x40, 0, 1⟩
def TICK_CTL_FOLLOW : Fld := ⟨0x1, 0x40, 1, 1⟩
def TICK_CTL_OVR_POL : Fld := ⟨0x1, 0x40, 2, 2⟩
def TICK_CTL_FAULT_CLR : Fld := ⟨0x1, 0x40, 8, 1⟩
def TICK_PERIOD_NS10 : Fld := ⟨0x1, 0x44, 0, 20⟩
def TICK_NUM_NUM : Fld := ⟨0x1, 0x48, 0, 32⟩
def TICK_OFFSET_NS10 : Fld := ⟨0x1, 0x4C, 0, 20⟩
def TICK_PRECOMMIT_NS10 : Fld := ⟨0x1, 0x50, 0, 20⟩
def TICK_COMMIT_BUDGET_NS10 : Fld := ⟨0x1, 0x54, 0, 20⟩
def TICK_RELEASE_NS10 : Fld := ⟨0x1, 0x58, 0, 20⟩
def TICK_HK_START_NS10 : Fld := ⟨0x1, 0x5C, 0, 20⟩
def TICK_HK_LEN_NS10 : Fld := ⟨0x1, 0x60, 0, 20⟩
def TICK_IN_CUTOFF_NS10 : Fld := ⟨0x1, 0x64, 0, 20⟩
def TICK_STRETCH_MAX_NS10 : Fld := ⟨0x1, 0x68, 0, 14⟩
def TICK_STAT_SKIPPED : Fld := ⟨0x1, 0x6C, 0, 1⟩
def TICK_STAT_PRED_OVER : Fld := ⟨0x1, 0x6C, 1, 1⟩
def TICK_STAT_FAULTED : Fld := ⟨0x1, 0x6C, 2, 1⟩
def TICK_STAT_LAYOUT_ERR : Fld := ⟨0x1, 0x6C, 3, 1⟩
def TICK_STAT_PAIR_SYNC_LOST : Fld := ⟨0x1, 0x6C, 4, 1⟩
def TICK_SKIP_CNT_CNT : Fld := ⟨0x1, 0x70, 0, 32⟩
def TICK_STRETCH_CNT_CNT : Fld := ⟨0x1, 0x74, 0, 32⟩
def TICK_FAULT_CNT_CNT : Fld := ⟨0x1, 0x78, 0, 32⟩
def TICK_LAST_STRETCH_NS10 : Fld := ⟨0x1, 0x7C, 0, 14⟩
def TICK_HK_SHORT_CNT_CNT : Fld := ⟨0x1, 0x80, 0, 32⟩
def TICK_CARRY_LATE_CNT_CNT : Fld := ⟨0x1, 0x84, 0, 32⟩
def TICK_PAIR_DLY_NS : Fld := ⟨0x1, 0x88, 0, 16⟩
def TICK_PAIR_ERR_NS : Fld := ⟨0x1, 0x8C, 0, 16⟩
def TICK_PAIR_MISS_CNT : Fld := ⟨0x1, 0x8C, 16, 16⟩

/-! REGION page: R116 (chapter 03). -/

def REGION_DESC_BASE_HA4K (k : Nat) : Fld := ⟨0x38, 0x400 + 32 * k, 12, 18⟩
def REGION_DESC_CTL_VALID (k : Nat) : Fld := ⟨0x38, 0x404 + 32 * k, 0, 1⟩
def REGION_DESC_CTL_POLICY (k : Nat) : Fld := ⟨0x38, 0x404 + 32 * k, 1, 3⟩
def REGION_DESC_CTL_SIZE_LOG2 (k : Nat) : Fld := ⟨0x38, 0x404 + 32 * k, 4, 5⟩
def REGION_DESC_CTL_OWNER (k : Nat) : Fld := ⟨0x38, 0x404 + 32 * k, 9, 5⟩
def REGION_DESC_CTL_SCRUB_PRI (k : Nat) : Fld := ⟨0x38, 0x404 + 32 * k, 14, 2⟩
def REGION_DESC_CTL_FV_DIR (k : Nat) : Fld := ⟨0x38, 0x404 + 32 * k, 16, 1⟩
def REGION_DESC_CTL_FV_CARRY (k : Nat) : Fld := ⟨0x38, 0x404 + 32 * k, 17, 1⟩
def REGION_DESC_CTL_DROPOUT (k : Nat) : Fld := ⟨0x38, 0x404 + 32 * k, 18, 2⟩
def REGION_DESC_RD_MASK_T (k : Nat) : Fld := ⟨0x38, 0x408 + 32 * k, 0, 32⟩
def REGION_DESC_WR_MASK_T (k : Nat) : Fld := ⟨0x38, 0x40C + 32 * k, 0, 32⟩
def REGION_DESC_CACHE_MASK_T (k : Nat) : Fld := ⟨0x38, 0x410 + 32 * k, 0, 32⟩

/-! TENANT page: R135 (chapter 03). -/

def TENANT_CTL_EN (g : Nat) : Fld := ⟨0x40 + g, 0x40, 0, 1⟩
def TENANT_CTL_CFG_PRIV (g : Nat) : Fld := ⟨0x40 + g, 0x40, 1, 1⟩
def TENANT_CTL_RESET (g : Nat) : Fld := ⟨0x40 + g, 0x40, 8, 1⟩
def TENANT_STAT_RESETTING (g : Nat) : Fld := ⟨0x40 + g, 0x44, 0, 1⟩
def TENANT_STAT_EPOCH (g : Nat) : Fld := ⟨0x40 + g, 0x44, 8, 8⟩
def TENANT_ACC_ERR_CNT_CNT (g : Nat) : Fld := ⟨0x40 + g, 0x48, 0, 32⟩
def TENANT_LAST_ERR_CODE (g : Nat) : Fld := ⟨0x40 + g, 0x4C, 0, 8⟩
def TENANT_LAST_ERR_PORT (g : Nat) : Fld := ⟨0x40 + g, 0x4C, 8, 5⟩

/-! APORT page: R144 (chapter 03). -/

def APORT_TEN_MASK_T (g : Nat) : Fld := ⟨0x8 + g, 0x100, 0, 32⟩
def APORT_WIN_AA_BASE_LO_A31_12 (g k : Nat) : Fld := ⟨0x8 + g, 0x200 + 16 * k, 12, 20⟩
def APORT_WIN_AA_BASE_HI_A47_32 (g k : Nat) : Fld := ⟨0x8 + g, 0x204 + 16 * k, 0, 16⟩
def APORT_WIN_HA_BASE_HA4K (g k : Nat) : Fld := ⟨0x8 + g, 0x208 + 16 * k, 12, 18⟩
def APORT_WIN_CTL_EN (g k : Nat) : Fld := ⟨0x8 + g, 0x20C + 16 * k, 0, 1⟩
def APORT_WIN_CTL_SIZE_LOG2 (g k : Nat) : Fld := ⟨0x8 + g, 0x20C + 16 * k, 4, 5⟩

/-! REGION page: R145 (chapter 03). -/

def REGION_CTL_APPLY : Fld := ⟨0x38, 0x40, 0, 1⟩
def REGION_CTL_REVERT : Fld := ⟨0x38, 0x40, 1, 1⟩
def REGION_HA_MAP_ILV : Fld := ⟨0x38, 0x44, 0, 1⟩
def REGION_HA_MAP_PAIRED : Fld := ⟨0x38, 0x44, 1, 1⟩
def REGION_STAT_APPLY_PEND : Fld := ⟨0x38, 0x48, 0, 1⟩
def REGION_STAT_RETIRE_BUSY : Fld := ⟨0x38, 0x48, 1, 1⟩
def REGION_STAT_APPLY_ERR : Fld := ⟨0x38, 0x48, 8, 4⟩
def REGION_STAT_ERR_REGION : Fld := ⟨0x38, 0x48, 16, 6⟩
def REGION_FV_TOTAL_KIB4 : Fld := ⟨0x38, 0x4C, 0, 12⟩

/-! APORT page: R203 (chapter 04). -/

def APORT_CTL_EN (g : Nat) : Fld := ⟨0x8 + g, 0x40, 0, 1⟩
def APORT_CTL_LRESET (g : Nat) : Fld := ⟨0x8 + g, 0x40, 1, 1⟩
def APORT_CTL_EDATA_EN (g : Nat) : Fld := ⟨0x8 + g, 0x40, 2, 1⟩
def APORT_STAT_LSTATE (g : Nat) : Fld := ⟨0x8 + g, 0x44, 0, 3⟩
def APORT_STAT_TRAIN_ERR (g : Nat) : Fld := ⟨0x8 + g, 0x44, 8, 4⟩
def APORT_CAP_VER (g : Nat) : Fld := ⟨0x8 + g, 0x48, 0, 2⟩
def APORT_CAP_PROF_E (g : Nat) : Fld := ⟨0x8 + g, 0x48, 2, 1⟩
def APORT_CAP_PROF_F (g : Nat) : Fld := ⟨0x8 + g, 0x48, 3, 1⟩
def APORT_CAP_EDATA (g : Nat) : Fld := ⟨0x8 + g, 0x48, 4, 1⟩
def APORT_CAP_EVCLEAN (g : Nat) : Fld := ⟨0x8 + g, 0x48, 5, 1⟩
def APORT_CAP_FWD (g : Nat) : Fld := ⟨0x8 + g, 0x48, 6, 1⟩
def APORT_CAP_AGENT_ID (g : Nat) : Fld := ⟨0x8 + g, 0x48, 8, 5⟩
def APORT_RSP_DL_NS10 (g : Nat) : Fld := ⟨0x8 + g, 0x4C, 0, 10⟩
def APORT_SNP_DL_NS10 (g : Nat) : Fld := ⟨0x8 + g, 0x50, 0, 10⟩
def APORT_CRC_ERR_CNT_CNT (g : Nat) : Fld := ⟨0x8 + g, 0x54, 0, 32⟩
def APORT_REPLAY_CNT_CNT (g : Nat) : Fld := ⟨0x8 + g, 0x58, 0, 32⟩
def APORT_RETRAIN_CNT_CNT (g : Nat) : Fld := ⟨0x8 + g, 0x5C, 0, 32⟩
def APORT_RESNOOP_CNT_CNT (g : Nat) : Fld := ⟨0x8 + g, 0x60, 0, 32⟩
def APORT_HOLD_LIMIT_CNT_CNT (g : Nat) : Fld := ⟨0x8 + g, 0x64, 0, 32⟩
def APORT_HOLD_LATE_CNT_CNT (g : Nat) : Fld := ⟨0x8 + g, 0x68, 0, 32⟩
def APORT_PROTO_CODE (g : Nat) : Fld := ⟨0x8 + g, 0x6C, 0, 4⟩
def APORT_PROTO_OPCODE (g : Nat) : Fld := ⟨0x8 + g, 0x6C, 8, 8⟩
def APORT_AGENT_CRED_SNP (g : Nat) : Fld := ⟨0x8 + g, 0x70, 0, 8⟩
def APORT_AGENT_CRED_CMP (g : Nat) : Fld := ⟨0x8 + g, 0x70, 8, 8⟩
def APORT_AGENT_CRED_DAT (g : Nat) : Fld := ⟨0x8 + g, 0x70, 16, 8⟩
def APORT_AGENT_CRED_MSG (g : Nat) : Fld := ⟨0x8 + g, 0x70, 24, 8⟩
def APORT_LRESET_CNT_CNT (g : Nat) : Fld := ⟨0x8 + g, 0x74, 0, 32⟩

/-! GLOBAL page: R250 (chapter 05). -/

def GLOBAL_COH_PROFILE : Fld := ⟨0x0, 0x80, 0, 1⟩
def GLOBAL_COH_UPG_CONV_CNT : Fld := ⟨0x0, 0x84, 0, 32⟩
def GLOBAL_COH_WB_CROSS_CNT : Fld := ⟨0x0, 0x88, 0, 32⟩

/-! GLOBAL page: R336 (chapter 07). -/

def GLOBAL_EDATA_CTL_WAIT : Fld := ⟨0x0, 0x90, 0, 6⟩
def GLOBAL_EDATA_SENT_CNT_CNT : Fld := ⟨0x0, 0x94, 0, 32⟩
def GLOBAL_ECONF_CNT_CNT : Fld := ⟨0x0, 0x98, 0, 32⟩
def GLOBAL_ECANX_DATA_CNT_CNT : Fld := ⟨0x0, 0x9C, 0, 32⟩
def GLOBAL_ECANX_TMO_CNT_CNT : Fld := ⟨0x0, 0xA0, 0, 32⟩
def GLOBAL_ECANX_OTHER_CNT_CNT : Fld := ⟨0x0, 0xA4, 0, 32⟩
def GLOBAL_EDATA_WITHHELD_CNT_CNT : Fld := ⟨0x0, 0xA8, 0, 32⟩
def GLOBAL_CHAIN_USED : Fld := ⟨0x0, 0xAC, 0, 11⟩
def GLOBAL_CHAIN_MAX : Fld := ⟨0x0, 0xAC, 16, 11⟩
def GLOBAL_CHAIN_FULL_CNT_CNT : Fld := ⟨0x0, 0xB0, 0, 32⟩

/-! DIR page: R376 (chapter 08). -/

def DIR_CTL_AUDIT_EN : Fld := ⟨0x30, 0x40, 0, 1⟩
def DIR_CTL_LOCK_WAYS : Fld := ⟨0x30, 0x40, 8, 4⟩
def DIR_LFSR_SEED_SEED : Fld := ⟨0x30, 0x44, 0, 16⟩
def DIR_LFSR_STATE_S : Fld := ⟨0x30, 0x48, 0, 16⟩
def DIR_AUDIT_SETS : Fld := ⟨0x30, 0x4C, 0, 12⟩
def DIR_AUDIT_POS_SET : Fld := ⟨0x30, 0x50, 0, 15⟩
def DIR_AUDIT_PASS_CNT_CNT : Fld := ⟨0x30, 0x54, 0, 32⟩
def DIR_USED_ENTRIES : Fld := ⟨0x30, 0x58, 0, 20⟩
def DIR_ALLOC_CNT_CNT : Fld := ⟨0x30, 0x5C, 0, 32⟩
def DIR_VICTIM_CNT_CNT : Fld := ⟨0x30, 0x60, 0, 32⟩
def DIR_BACKINV_CNT_CNT : Fld := ⟨0x30, 0x64, 0, 32⟩
def DIR_STALE_RSPI_CNT_CNT : Fld := ⟨0x30, 0x68, 0, 32⟩
def DIR_ALLOC_WAIT_CNT_CNT : Fld := ⟨0x30, 0x6C, 0, 32⟩
def DIR_TAG_PAR_CNT_CNT : Fld := ⟨0x30, 0x70, 0, 32⟩
def DIR_CODE_CORR_CNT_CNT : Fld := ⟨0x30, 0x74, 0, 32⟩
def DIR_CODE_UNCORR_CNT_CNT : Fld := ⟨0x30, 0x78, 0, 32⟩
def DIR_TAG_REPAIR_CNT_CNT : Fld := ⟨0x30, 0x7C, 0, 32⟩
def DIR_FLUSH_CNT_CNT : Fld := ⟨0x30, 0x80, 0, 32⟩
def DIR_FLUSH_LOSS_CNT_CNT : Fld := ⟨0x30, 0x84, 0, 32⟩
def DIR_RECOVERY_BUSY : Fld := ⟨0x30, 0x88, 0, 1⟩
def DIR_RECOVERY_SET : Fld := ⟨0x30, 0x88, 16, 15⟩
def DIR_INJECT_SET : Fld := ⟨0x30, 0x8C, 0, 15⟩
def DIR_INJECT_WAY : Fld := ⟨0x30, 0x8C, 16, 4⟩
def DIR_INJECT_KIND : Fld := ⟨0x30, 0x8C, 24, 2⟩
def DIR_INJECT_GO : Fld := ⟨0x30, 0x8C, 31, 1⟩

/-! HCACHE page: R422 (chapter 09). -/

def HCACHE_CTL_FLUSH : Fld := ⟨0x31, 0x40, 0, 1⟩
def HCACHE_STAT_FLUSH_BUSY : Fld := ⟨0x31, 0x44, 0, 1⟩
def HCACHE_STAT_SEARCH_BUSY : Fld := ⟨0x31, 0x44, 1, 1⟩
def HCACHE_HIT_CNT_CNT : Fld := ⟨0x31, 0x48, 0, 32⟩
def HCACHE_MISS_CNT_CNT : Fld := ⟨0x31, 0x4C, 0, 32⟩
def HCACHE_DIRTY_EVICT_CNT_CNT : Fld := ⟨0x31, 0x50, 0, 32⟩
def HCACHE_NOFILL_CNT_CNT : Fld := ⟨0x31, 0x54, 0, 32⟩
def HCACHE_EBUF_USED : Fld := ⟨0x31, 0x58, 0, 6⟩
def HCACHE_EBUF_MAX : Fld := ⟨0x31, 0x58, 8, 6⟩
def HCACHE_EBUF_FULL_CNT_CNT : Fld := ⟨0x31, 0x5C, 0, 32⟩
def HCACHE_EBUF_HIT_CNT_CNT : Fld := ⟨0x31, 0x60, 0, 32⟩
def HCACHE_TAG_PAR_CNT_CNT : Fld := ⟨0x31, 0x64, 0, 32⟩
def HCACHE_DATA_CORR_CNT_CNT : Fld := ⟨0x31, 0x68, 0, 32⟩
def HCACHE_DATA_UNCORR_CNT_CNT : Fld := ⟨0x31, 0x6C, 0, 32⟩
def HCACHE_RECOVER_CNT_CNT : Fld := ⟨0x31, 0x70, 0, 32⟩
def HCACHE_ORPHAN_CNT_CNT : Fld := ⟨0x31, 0x74, 0, 32⟩
def HCACHE_LAST_ORPHAN_INDEX : Fld := ⟨0x31, 0x78, 0, 16⟩
def HCACHE_LAST_ORPHAN_MATCHES : Fld := ⟨0x31, 0x78, 16, 7⟩
def HCACHE_TAG_REPAIR_CNT_CNT : Fld := ⟨0x31, 0x7C, 0, 32⟩
def HCACHE_INJECT_INDEX : Fld := ⟨0x31, 0x80, 0, 16⟩
def HCACHE_INJECT_KIND : Fld := ⟨0x31, 0x80, 16, 3⟩
def HCACHE_INJECT_GO : Fld := ⟨0x31, 0x80, 31, 1⟩

/-! MEM page: R424 (chapter 09). -/

def MEM_CORR_CNT_CNT : Fld := ⟨0x32, 0x40, 0, 32⟩
def MEM_UNCORR_CNT_CNT : Fld := ⟨0x32, 0x44, 0, 32⟩
def MEM_MIXED_CNT_CNT : Fld := ⟨0x32, 0x48, 0, 32⟩
def MEM_ADDR_CNT_CNT : Fld := ⟨0x32, 0x4C, 0, 32⟩
def MEM_ADDR_TRANS_CNT_CNT : Fld := ⟨0x32, 0x50, 0, 32⟩
def MEM_POISON_RD_CNT_CNT : Fld := ⟨0x32, 0x54, 0, 32⟩
def MEM_POISON_WR_CNT_CNT : Fld := ⟨0x32, 0x58, 0, 32⟩
def MEM_LAST_WA_WA : Fld := ⟨0x32, 0x5C, 0, 26⟩
def MEM_INJECT_WA_WA : Fld := ⟨0x32, 0x60, 0, 26⟩
def MEM_INJECT_LANE : Fld := ⟨0x32, 0x64, 0, 4⟩
def MEM_INJECT_BIT : Fld := ⟨0x32, 0x64, 4, 4⟩
def MEM_INJECT_KIND : Fld := ⟨0x32, 0x64, 8, 2⟩
def MEM_INJECT_GO : Fld := ⟨0x32, 0x64, 31, 1⟩

/-! SCRUB page: R426 (chapter 09). -/

def SCRUB_CTL_EN : Fld := ⟨0x33, 0x40, 0, 1⟩
def SCRUB_LINES_N : Fld := ⟨0x33, 0x44, 0, 14⟩
def SCRUB_HC_LINES_N : Fld := ⟨0x33, 0x48, 0, 13⟩
def SCRUB_POS_LINE : Fld := ⟨0x33, 0x4C, 0, 24⟩
def SCRUB_POS_GROUP : Fld := ⟨0x33, 0x4C, 24, 2⟩
def SCRUB_HC_POS_INDEX : Fld := ⟨0x33, 0x50, 0, 16⟩
def SCRUB_PASS_CNT_CNT : Fld := ⟨0x33, 0x54, 0, 32⟩
def SCRUB_LAST_PASS_TICKS : Fld := ⟨0x33, 0x58, 0, 32⟩
def SCRUB_DONE_LAST_N : Fld := ⟨0x33, 0x5C, 0, 14⟩
def SCRUB_CORR_CNT_CNT : Fld := ⟨0x33, 0x60, 0, 32⟩
def SCRUB_POISONED_CNT_CNT : Fld := ⟨0x33, 0x64, 0, 32⟩
def SCRUB_ADDR_CNT_CNT : Fld := ⟨0x33, 0x68, 0, 32⟩
def SCRUB_STALE_ERR_CNT_CNT : Fld := ⟨0x33, 0x6C, 0, 32⟩
def SCRUB_SKIP_CNT_CNT : Fld := ⟨0x33, 0x70, 0, 32⟩
def SCRUB_SHORT_CNT_CNT : Fld := ⟨0x33, 0x74, 0, 32⟩

/-! ARB page: R464 (chapter 10). -/

def ARB_STARVE_THR_THR : Fld := ⟨0x28, 0x40, 0, 16⟩
def ARB_STARVE_FLAG : Fld := ⟨0x28, 0x44, 0, 22⟩
def ARB_HOLD_OWNER : Fld := ⟨0x28, 0x48, 0, 5⟩
def ARB_HOLD_ACTIVE : Fld := ⟨0x28, 0x48, 8, 1⟩
def ARB_HOLD_MAX_ROUNDS : Fld := ⟨0x28, 0x4C, 0, 16⟩
def ARB_REQ_WEIGHT (k : Nat) : Fld := ⟨0x28, 0x80 + 4 * k, 0, 4⟩
def ARB_REQ_MODE (k : Nat) : Fld := ⟨0x28, 0x80 + 4 * k, 4, 2⟩
def ARB_WAIT_CUR (k : Nat) : Fld := ⟨0x28, 0x100 + 4 * k, 0, 16⟩
def ARB_WAIT_MAX (k : Nat) : Fld := ⟨0x28, 0x100 + 4 * k, 16, 16⟩
def ARB_GRANT_CNT_CNT (k : Nat) : Fld := ⟨0x28, 0x180 + 4 * k, 0, 32⟩

/-! LOCK page: R466 (chapter 10). -/

def LOCK_CTL_MANTIS_EN : Fld := ⟨0x29, 0x40, 0, 1⟩
def LOCK_LONG_TICKS_N : Fld := ⟨0x29, 0x44, 0, 16⟩
def LOCK_HELD_N : Fld := ⟨0x29, 0x48, 0, 9⟩
def LOCK_HELD_MAX_N : Fld := ⟨0x29, 0x4C, 0, 9⟩
def LOCK_GRANT_CNT_CNT : Fld := ⟨0x29, 0x50, 0, 32⟩
def LOCK_BREAK_CNT_CNT : Fld := ⟨0x29, 0x54, 0, 32⟩
def LOCK_LOCKBROKEN_CNT_CNT : Fld := ⟨0x29, 0x58, 0, 32⟩
def LOCK_CYCLE_ERR_CNT_CNT : Fld := ⟨0x29, 0x5C, 0, 32⟩
def LOCK_FULL_CNT_CNT : Fld := ⟨0x29, 0x60, 0, 32⟩
def LOCK_NOLOCK_CNT_CNT : Fld := ⟨0x29, 0x64, 0, 32⟩
def LOCK_FORCED_CNT_CNT : Fld := ⟨0x29, 0x68, 0, 32⟩
def LOCK_DEFER_CNT_CNT : Fld := ⟨0x29, 0x6C, 0, 32⟩
def LOCK_LAST_BREAK_VICTIM : Fld := ⟨0x29, 0x70, 0, 5⟩
def LOCK_LAST_BREAK_CYCLE_LEN : Fld := ⟨0x29, 0x70, 8, 6⟩
def LOCK_LAST_BREAK_KIND : Fld := ⟨0x29, 0x70, 16, 1⟩
def LOCK_LAST_BREAK_SRC : Fld := ⟨0x29, 0x70, 17, 1⟩
def LOCK_LAST_BREAK_TICK_NUM : Fld := ⟨0x29, 0x74, 0, 32⟩
def LOCK_FORCE_INDEX : Fld := ⟨0x29, 0x78, 0, 8⟩
def LOCK_FORCE_GO : Fld := ⟨0x29, 0x78, 31, 1⟩
def LOCK_EVQ_USED : Fld := ⟨0x29, 0x7C, 0, 5⟩
def LOCK_WF_ROW_B (k : Nat) : Fld := ⟨0x29, 0x100 + 4 * k, 0, 32⟩
def LOCK_GRANT_TICK_NUM (k : Nat) : Fld := ⟨0x29, 0x400 + 4 * k, 0, 32⟩
def LOCK_ENTRY_LO_LINE (k : Nat) : Fld := ⟨0x29, 0x800 + 8 * k, 0, 24⟩
def LOCK_ENTRY_LO_VALID (k : Nat) : Fld := ⟨0x29, 0x800 + 8 * k, 31, 1⟩
def LOCK_ENTRY_HI_HOLDER (k : Nat) : Fld := ⟨0x29, 0x804 + 8 * k, 0, 5⟩
def LOCK_ENTRY_HI_TENANT (k : Nat) : Fld := ⟨0x29, 0x804 + 8 * k, 8, 5⟩
def LOCK_ENTRY_HI_WAITERS (k : Nat) : Fld := ⟨0x29, 0x804 + 8 * k, 16, 10⟩

/-! TENANT page: R468 (chapter 10). -/

def TENANT_QOS_WEIGHT (g : Nat) : Fld := ⟨0x40 + g, 0x60, 0, 4⟩
def TENANT_LOCK_LIM_MAX (g : Nat) : Fld := ⟨0x40 + g, 0x64, 0, 9⟩
def TENANT_LOCK_HELD_N (g : Nat) : Fld := ⟨0x40 + g, 0x68, 0, 9⟩
def TENANT_STARVE_CNT_CNT (g : Nat) : Fld := ⟨0x40 + g, 0x6C, 0, 32⟩
def TENANT_LOCKBRK_CNT_CNT (g : Nat) : Fld := ⟨0x40 + g, 0x70, 0, 32⟩
def TENANT_LOCK_REJ_CNT_CNT (g : Nat) : Fld := ⟨0x40 + g, 0x74, 0, 32⟩

/-! COMMIT page: R507 (chapter 11). -/

def COMMIT_CTL_PRECARRY : Fld := ⟨0x70, 0x40, 0, 6⟩
def COMMIT_REL_BUDGET_NS10 : Fld := ⟨0x70, 0x44, 0, 9⟩
def COMMIT_STAT_WINDOW : Fld := ⟨0x70, 0x48, 0, 1⟩
def COMMIT_STAT_RELEASE : Fld := ⟨0x70, 0x48, 1, 1⟩
def COMMIT_STAT_COPY_ERR : Fld := ⟨0x70, 0x48, 2, 1⟩
def COMMIT_STAT_ERR_REGION : Fld := ⟨0x70, 0x48, 8, 6⟩
def COMMIT_IN_STAMP_NUM : Fld := ⟨0x70, 0x4C, 0, 32⟩
def COMMIT_OUT_STAMP_NUM : Fld := ⟨0x70, 0x50, 0, 32⟩
def COMMIT_INV_LINES_N : Fld := ⟨0x70, 0x54, 0, 18⟩
def COMMIT_CARRY_LINES_N : Fld := ⟨0x70, 0x58, 0, 18⟩
def COMMIT_REL_INV_LINES_N : Fld := ⟨0x70, 0x5C, 0, 18⟩
def COMMIT_REL_CARRY_LINES_N : Fld := ⟨0x70, 0x60, 0, 18⟩
def COMMIT_LAST_BOUND_NS10 : Fld := ⟨0x70, 0x64, 0, 20⟩
def COMMIT_MAX_BOUND_NS10 : Fld := ⟨0x70, 0x68, 0, 20⟩
def COMMIT_REL_BOUND_NS10 : Fld := ⟨0x70, 0x6C, 0, 20⟩
def COMMIT_LAST_CLOSE_NS10 : Fld := ⟨0x70, 0x70, 0, 20⟩
def COMMIT_NV_LINES_N : Fld := ⟨0x70, 0x74, 0, 18⟩
def COMMIT_DUE_LINES_N : Fld := ⟨0x70, 0x78, 0, 18⟩
def COMMIT_AGAIN_CNT_CNT : Fld := ⟨0x70, 0x7C, 0, 32⟩
def COMMIT_PRECARRY_CNT_CNT : Fld := ⟨0x70, 0x80, 0, 32⟩
def COMMIT_LATE_IN_CNT_CNT : Fld := ⟨0x70, 0x84, 0, 32⟩
def COMMIT_EDGE_CAPT_CNT_CNT : Fld := ⟨0x70, 0x88, 0, 32⟩
def COMMIT_REL_SKIP_CNT_CNT : Fld := ⟨0x70, 0x8C, 0, 32⟩
def COMMIT_FLIP_CNT_CNT : Fld := ⟨0x70, 0x90, 0, 32⟩
def COMMIT_COPY_OFS (k : Nat) : Fld := ⟨0x70, 0x100 + 4 * k, 0, 11⟩
def COMMIT_COPY_VER (k : Nat) : Fld := ⟨0x70, 0x100 + 4 * k, 16, 1⟩
def COMMIT_COPY_PLACED (k : Nat) : Fld := ⟨0x70, 0x100 + 4 * k, 31, 1⟩

/-! PAIR page: R552 (chapter 12). -/

def PAIR_CTL_EN : Fld := ⟨0x18, 0x40, 0, 1⟩
def PAIR_CTL_LRESET : Fld := ⟨0x18, 0x40, 1, 1⟩
def PAIR_STAT_LSTATE : Fld := ⟨0x18, 0x44, 0, 4⟩
def PAIR_STAT_ROLE : Fld := ⟨0x18, 0x44, 4, 1⟩
def PAIR_STAT_JOINED : Fld := ⟨0x18, 0x44, 8, 1⟩
def PAIR_STAT_LOST : Fld := ⟨0x18, 0x44, 9, 1⟩
def PAIR_STAT_TRAIN_ERR : Fld := ⟨0x18, 0x44, 12, 4⟩
def PAIR_PARTNER_UID_LO_UID : Fld := ⟨0x18, 0x48, 0, 32⟩
def PAIR_PARTNER_UID_HI_UID : Fld := ⟨0x18, 0x4C, 0, 32⟩
def PAIR_LANE_SKEW0 : Fld := ⟨0x18, 0x50, 0, 4⟩
def PAIR_LANE_SKEW1 : Fld := ⟨0x18, 0x50, 4, 4⟩
def PAIR_LANE_SKEW2 : Fld := ⟨0x18, 0x50, 8, 4⟩
def PAIR_LANE_SKEW3 : Fld := ⟨0x18, 0x50, 12, 4⟩
def PAIR_LANE_POL : Fld := ⟨0x18, 0x50, 16, 4⟩
def PAIR_JOIN_TMO_MS : Fld := ⟨0x18, 0x54, 0, 16⟩
def PAIR_MIRROR_PEND_N : Fld := ⟨0x18, 0x58, 0, 8⟩
def PAIR_CRC_ERR_CNT_CNT : Fld := ⟨0x18, 0x5C, 0, 32⟩
def PAIR_REPLAY_CNT_CNT : Fld := ⟨0x18, 0x60, 0, 32⟩
def PAIR_RETRAIN_CNT_CNT : Fld := ⟨0x18, 0x64, 0, 32⟩
def PAIR_LOSS_CNT_CNT : Fld := ⟨0x18, 0x68, 0, 32⟩
def PAIR_MARKER_MISS_CNT_CNT : Fld := ⟨0x18, 0x6C, 0, 32⟩
def PAIR_FLIP_LATE_CNT_CNT : Fld := ⟨0x18, 0x70, 0, 32⟩
def PAIR_ABANDON_CNT_CNT : Fld := ⟨0x18, 0x74, 0, 32⟩
def PAIR_HOME_LOST_CNT_CNT : Fld := ⟨0x18, 0x78, 0, 32⟩
def PAIR_LINK_SKIP_CNT_CNT : Fld := ⟨0x18, 0x7C, 0, 32⟩

/-! FPORT page: R614 (chapter 13). -/

def FPORT_CTL_EN (g : Nat) : Fld := ⟨0x1C + g, 0x40, 0, 1⟩
def FPORT_CTL_AN_EN (g : Nat) : Fld := ⟨0x1C + g, 0x40, 1, 1⟩
def FPORT_CTL_LRESET (g : Nat) : Fld := ⟨0x1C + g, 0x40, 2, 1⟩
def FPORT_STAT_LINK (g : Nat) : Fld := ⟨0x1C + g, 0x44, 0, 1⟩
def FPORT_STAT_AN_MISMATCH (g : Nat) : Fld := ⟨0x1C + g, 0x44, 1, 1⟩
def FPORT_STAT_USE (g : Nat) : Fld := ⟨0x1C + g, 0x44, 4, 2⟩
def FPORT_STAT_DATELINE (g : Nat) : Fld := ⟨0x1C + g, 0x44, 6, 1⟩
def FPORT_STAT_SYNC_DIR (g : Nat) : Fld := ⟨0x1C + g, 0x44, 8, 2⟩
def FPORT_STAT_BUF_ERR (g : Nat) : Fld := ⟨0x1C + g, 0x44, 10, 1⟩
def FPORT_PARTNER_UID_LO_UID (g : Nat) : Fld := ⟨0x1C + g, 0x48, 0, 32⟩
def FPORT_PARTNER_UID_HI_UID (g : Nat) : Fld := ⟨0x1C + g, 0x4C, 0, 32⟩
def FPORT_PARTNER_PORT_PORT (g : Nat) : Fld := ⟨0x1C + g, 0x50, 0, 2⟩
def FPORT_DELAY_NS (g : Nat) : Fld := ⟨0x1C + g, 0x54, 0, 16⟩
def FPORT_RX_FRAMES_CNT (g : Nat) : Fld := ⟨0x1C + g, 0x58, 0, 32⟩
def FPORT_TX_FRAMES_CNT (g : Nat) : Fld := ⟨0x1C + g, 0x5C, 0, 32⟩
def FPORT_CRC_ERR_CNT_CNT (g : Nat) : Fld := ⟨0x1C + g, 0x60, 0, 32⟩
def FPORT_DROP_HOPS_CNT_CNT (g : Nat) : Fld := ⟨0x1C + g, 0x64, 0, 32⟩
def FPORT_DROP_NOROUTE_CNT_CNT (g : Nat) : Fld := ⟨0x1C + g, 0x68, 0, 32⟩
def FPORT_DROP_FMT_CNT_CNT (g : Nat) : Fld := ⟨0x1C + g, 0x6C, 0, 32⟩
def FPORT_LINK_CHG_CNT_CNT (g : Nat) : Fld := ⟨0x1C + g, 0x70, 0, 32⟩
def FPORT_CREDIT_VC0 (g : Nat) : Fld := ⟨0x1C + g, 0x74, 0, 8⟩
def FPORT_CREDIT_VC1 (g : Nat) : Fld := ⟨0x1C + g, 0x74, 8, 8⟩

/-! FABRIC page: R616 (chapter 13). -/

def FABRIC_CTL_EN : Fld := ⟨0x20, 0x40, 0, 1⟩
def FABRIC_CTL_COORD_EN : Fld := ⟨0x20, 0x40, 1, 1⟩
def FABRIC_CTL_REDISC : Fld := ⟨0x20, 0x40, 2, 1⟩
def FABRIC_STAT_DSTATE : Fld := ⟨0x20, 0x44, 0, 3⟩
def FABRIC_STAT_COORD : Fld := ⟨0x20, 0x44, 4, 1⟩
def FABRIC_STAT_NODE_ID : Fld := ⟨0x20, 0x44, 8, 6⟩
def FABRIC_STAT_ID_VALID : Fld := ⟨0x20, 0x44, 15, 1⟩
def FABRIC_STAT_GEN : Fld := ⟨0x20, 0x44, 16, 8⟩
def FABRIC_UID_LO_UID : Fld := ⟨0x20, 0x48, 0, 32⟩
def FABRIC_UID_HI_UID : Fld := ⟨0x20, 0x4C, 0, 32⟩
def FABRIC_COORD_UID_LO_UID : Fld := ⟨0x20, 0x50, 0, 32⟩
def FABRIC_COORD_UID_HI_UID : Fld := ⟨0x20, 0x54, 0, 32⟩
def FABRIC_TOPO_NODES : Fld := ⟨0x20, 0x58, 0, 7⟩
def FABRIC_TOPO_MAX_HOPS : Fld := ⟨0x20, 0x58, 8, 4⟩
def FABRIC_TOPO_UNREACH : Fld := ⟨0x20, 0x58, 16, 1⟩
def FABRIC_TOPO_OVERFLOW : Fld := ⟨0x20, 0x58, 17, 1⟩
def FABRIC_TOPO_ASSIGN_CONFLICT : Fld := ⟨0x20, 0x58, 18, 1⟩
def FABRIC_TOPO_STANDBY : Fld := ⟨0x20, 0x58, 20, 4⟩
def FABRIC_REDISC_CNT_CNT : Fld := ⟨0x20, 0x5C, 0, 32⟩
def FABRIC_LAST_REDISC_TICK_NUM : Fld := ⟨0x20, 0x60, 0, 32⟩
def FABRIC_FF_CTL_STEP_MAX : Fld := ⟨0x20, 0x64, 0, 10⟩
def FABRIC_FF_CTL_LOCK_UNITS : Fld := ⟨0x20, 0x64, 12, 8⟩
def FABRIC_FF_STAT_LOCK : Fld := ⟨0x20, 0x68, 0, 1⟩
def FABRIC_FF_STAT_HOLDOVER : Fld := ⟨0x20, 0x68, 1, 1⟩
def FABRIC_FF_STAT_NUM_MISMATCH : Fld := ⟨0x20, 0x68, 2, 1⟩
def FABRIC_FF_STAT_PERIOD_MISMATCH : Fld := ⟨0x20, 0x68, 3, 1⟩
def FABRIC_FF_STAT_HOPS : Fld := ⟨0x20, 0x68, 8, 4⟩
def FABRIC_FF_ERR_NS : Fld := ⟨0x20, 0x6C, 0, 32⟩
def FABRIC_FF_TRIM_TRIM : Fld := ⟨0x20, 0x70, 0, 16⟩
def FABRIC_FF_STRETCH_LATE_CNT_CNT : Fld := ⟨0x20, 0x74, 0, 32⟩
def FABRIC_FF_LOSS_CNT_CNT : Fld := ⟨0x20, 0x78, 0, 32⟩
def FABRIC_ASSIGN_UID_LO_UID (k : Nat) : Fld := ⟨0x20, 0x100 + 16 * k, 0, 32⟩
def FABRIC_ASSIGN_UID_HI_UID (k : Nat) : Fld := ⟨0x20, 0x104 + 16 * k, 0, 32⟩
def FABRIC_ASSIGN_CTL_ID (k : Nat) : Fld := ⟨0x20, 0x108 + 16 * k, 0, 6⟩
def FABRIC_ASSIGN_CTL_EN (k : Nat) : Fld := ⟨0x20, 0x108 + 16 * k, 31, 1⟩
def FABRIC_ROUTE_PORT (k : Nat) : Fld := ⟨0x20, 0x200 + 4 * k, 0, 4⟩

/-! STATION page: R618 (chapter 13). -/

def STATION_CTL_EN : Fld := ⟨0x21, 0x40, 0, 1⟩
def STATION_QUAL_HA_LINE : Fld := ⟨0x21, 0x44, 0, 24⟩
def STATION_STAT_CFG_ERR : Fld := ⟨0x21, 0x48, 0, 1⟩
def STATION_ENTRY_UID_LO_UID (k : Nat) : Fld := ⟨0x21, 0x100 + 64 * k, 0, 32⟩
def STATION_ENTRY_UID_HI_UID (k : Nat) : Fld := ⟨0x21, 0x104 + 64 * k, 0, 32⟩
def STATION_ENTRY_CTL_EN (k : Nat) : Fld := ⟨0x21, 0x108 + 64 * k, 0, 1⟩
def STATION_ENTRY_CTL_IN_LEN (k : Nat) : Fld := ⟨0x21, 0x108 + 64 * k, 8, 8⟩
def STATION_ENTRY_CTL_OUT_LEN (k : Nat) : Fld := ⟨0x21, 0x108 + 64 * k, 16, 8⟩
def STATION_ENTRY_CTL_MISS_LIM (k : Nat) : Fld := ⟨0x21, 0x108 + 64 * k, 24, 8⟩
def STATION_ENTRY_IN_HA_LINE (k : Nat) : Fld := ⟨0x21, 0x10C + 64 * k, 0, 24⟩
def STATION_ENTRY_OUT_HA_LINE (k : Nat) : Fld := ⟨0x21, 0x110 + 64 * k, 0, 24⟩
def STATION_ENTRY_OUT_TMO_N (k : Nat) : Fld := ⟨0x21, 0x114 + 64 * k, 0, 8⟩
def STATION_STATUS_STATE (k : Nat) : Fld := ⟨0x25, 0x100 + 32 * k, 0, 3⟩
def STATION_STATUS_NODE (k : Nat) : Fld := ⟨0x25, 0x100 + 32 * k, 8, 6⟩
def STATION_STATUS_Q (k : Nat) : Fld := ⟨0x25, 0x100 + 32 * k, 16, 1⟩
def STATION_STATUS_BOUND (k : Nat) : Fld := ⟨0x25, 0x100 + 32 * k, 17, 1⟩
def STATION_RECONNECT_TICK_NUM (k : Nat) : Fld := ⟨0x25, 0x104 + 32 * k, 0, 32⟩
def STATION_LAST_SAMPLE_NUM (k : Nat) : Fld := ⟨0x25, 0x108 + 32 * k, 0, 32⟩
def STATION_MISS_CUR (k : Nat) : Fld := ⟨0x25, 0x10C + 32 * k, 0, 8⟩
def STATION_MISS_DROP_CNT (k : Nat) : Fld := ⟨0x25, 0x10C + 32 * k, 16, 16⟩
def STATION_LATE_CNT_CNT (k : Nat) : Fld := ⟨0x25, 0x110 + 32 * k, 0, 32⟩
def STATION_STEP_ERR_CNT_CNT (k : Nat) : Fld := ⟨0x25, 0x114 + 32 * k, 0, 32⟩
def STATION_MISS_CNT_CNT (k : Nat) : Fld := ⟨0x25, 0x118 + 32 * k, 0, 32⟩

/-! MBOX page: R662 (chapter 14). -/

def MBOX_CTL_EN (g k : Nat) : Fld := ⟨0x60 + g, 0x100 + 64 * k, 0, 1⟩
def MBOX_CTL_DIR (g k : Nat) : Fld := ⟨0x60 + g, 0x100 + 64 * k, 1, 1⟩
def MBOX_CTL_FULL_POL (g k : Nat) : Fld := ⟨0x60 + g, 0x100 + 64 * k, 2, 1⟩
def MBOX_CTL_RX_RESET (g k : Nat) : Fld := ⟨0x60 + g, 0x100 + 64 * k, 3, 1⟩
def MBOX_CTL_EPOCH_FILTER (g k : Nat) : Fld := ⟨0x60 + g, 0x100 + 64 * k, 4, 1⟩
def MBOX_CTL_SVC_OK (g k : Nat) : Fld := ⟨0x60 + g, 0x100 + 64 * k, 5, 1⟩
def MBOX_CTL_REMOTE_OK (g k : Nat) : Fld := ⟨0x60 + g, 0x100 + 64 * k, 6, 1⟩
def MBOX_CTL_SRC_NODE_EN (g k : Nat) : Fld := ⟨0x60 + g, 0x100 + 64 * k, 7, 1⟩
def MBOX_CTL_RX_TENANT (g k : Nat) : Fld := ⟨0x60 + g, 0x100 + 64 * k, 8, 5⟩
def MBOX_CTL_DB_BIT (g k : Nat) : Fld := ⟨0x60 + g, 0x100 + 64 * k, 16, 5⟩
def MBOX_CTL_SRC_NODE (g k : Nat) : Fld := ⟨0x60 + g, 0x100 + 64 * k, 24, 6⟩
def MBOX_SEND_MASK_T (g k : Nat) : Fld := ⟨0x60 + g, 0x104 + 64 * k, 0, 32⟩
def MBOX_REMOTE_NODE (g k : Nat) : Fld := ⟨0x60 + g, 0x108 + 64 * k, 0, 6⟩
def MBOX_REMOTE_MBX (g k : Nat) : Fld := ⟨0x60 + g, 0x108 + 64 * k, 8, 8⟩
def MBOX_STAT_COUNT (g k : Nat) : Fld := ⟨0x60 + g, 0x10C + 64 * k, 0, 5⟩
def MBOX_STAT_COLLISION (g k : Nat) : Fld := ⟨0x60 + g, 0x10C + 64 * k, 8, 1⟩
def MBOX_STAT_FULL (g k : Nat) : Fld := ⟨0x60 + g, 0x10C + 64 * k, 9, 1⟩
def MBOX_STAT_PEND_ACK (g k : Nat) : Fld := ⟨0x60 + g, 0x10C + 64 * k, 10, 1⟩
def MBOX_LOST_CNT_CNT (g k : Nat) : Fld := ⟨0x60 + g, 0x110 + 64 * k, 0, 32⟩
def MBOX_DRAINED_CNT_CNT (g k : Nat) : Fld := ⟨0x60 + g, 0x114 + 64 * k, 0, 32⟩
def MBOX_REJECT_CNT_CNT (g k : Nat) : Fld := ⟨0x60 + g, 0x118 + 64 * k, 0, 32⟩
def MBOX_STALE_CNT_CNT (g k : Nat) : Fld := ⟨0x60 + g, 0x11C + 64 * k, 0, 32⟩
def MBOX_SVC_MSG0_MSG (g k : Nat) : Fld := ⟨0x60 + g, 0x120 + 64 * k, 0, 32⟩
def MBOX_SVC_MSG1_MSG (g k : Nat) : Fld := ⟨0x60 + g, 0x124 + 64 * k, 0, 32⟩
def MBOX_SVC_MSG2_MSG (g k : Nat) : Fld := ⟨0x60 + g, 0x128 + 64 * k, 0, 32⟩
def MBOX_SVC_MSG3_MSG (g k : Nat) : Fld := ⟨0x60 + g, 0x12C + 64 * k, 0, 32⟩
def MBOX_SVC_STAMP_LO_STAMP (g k : Nat) : Fld := ⟨0x60 + g, 0x130 + 64 * k, 0, 32⟩
def MBOX_SVC_STAMP_HI_STAMP (g k : Nat) : Fld := ⟨0x60 + g, 0x134 + 64 * k, 0, 32⟩
def MBOX_SVC_CMD_POST (g k : Nat) : Fld := ⟨0x60 + g, 0x138 + 64 * k, 0, 1⟩
def MBOX_SVC_CMD_TAKE (g k : Nat) : Fld := ⟨0x60 + g, 0x138 + 64 * k, 1, 1⟩
def MBOX_SVC_CMD_RESULT (g k : Nat) : Fld := ⟨0x60 + g, 0x138 + 64 * k, 8, 4⟩
def MBOX_SVC_CMD_POISON (g k : Nat) : Fld := ⟨0x60 + g, 0x138 + 64 * k, 12, 1⟩
def MBOX_RETRY_CNT_CNT (g k : Nat) : Fld := ⟨0x60 + g, 0x13C + 64 * k, 0, 32⟩

/-! TENANT page: R664 (chapter 14). -/

def TENANT_DB_WORD_BITS (g : Nat) : Fld := ⟨0x40 + g, 0x80, 0, 32⟩
def TENANT_DB_MASK_BITS (g : Nat) : Fld := ⟨0x40 + g, 0x84, 0, 32⟩
def TENANT_DB_CTL_AGENT (g : Nat) : Fld := ⟨0x40 + g, 0x88, 0, 5⟩
def TENANT_DB_CTL_NOTIFIED (g : Nat) : Fld := ⟨0x40 + g, 0x88, 7, 1⟩
def TENANT_DB_CTL_SEC_BIT (g : Nat) : Fld := ⟨0x40 + g, 0x88, 8, 5⟩
def TENANT_DB_CTL_SEC_EN (g : Nat) : Fld := ⟨0x40 + g, 0x88, 15, 1⟩
def TENANT_CARGO_LIM_MAX (g : Nat) : Fld := ⟨0x40 + g, 0x8C, 0, 13⟩
def TENANT_CARGO_HELD_N (g : Nat) : Fld := ⟨0x40 + g, 0x90, 0, 13⟩
def TENANT_CARGO_ERR_CNT_CNT (g : Nat) : Fld := ⟨0x40 + g, 0x94, 0, 32⟩
def TENANT_SEC_CNT_CNT (g : Nat) : Fld := ⟨0x40 + g, 0x98, 0, 32⟩

/-! CARGO page: R665 (chapter 14). -/

def CARGO_CTL_EN : Fld := ⟨0x68, 0x40, 0, 1⟩
def CARGO_FREE_N : Fld := ⟨0x68, 0x44, 0, 13⟩
def CARGO_FREE_MIN_N : Fld := ⟨0x68, 0x48, 0, 13⟩
def CARGO_ALLOC_CNT_CNT : Fld := ⟨0x68, 0x4C, 0, 32⟩
def CARGO_FREE_CNT_CNT : Fld := ⟨0x68, 0x50, 0, 32⟩
def CARGO_GIVE_CNT_CNT : Fld := ⟨0x68, 0x54, 0, 32⟩
def CARGO_STALE_CNT_CNT : Fld := ⟨0x68, 0x58, 0, 32⟩
def CARGO_NOT_OWNER_CNT_CNT : Fld := ⟨0x68, 0x5C, 0, 32⟩
def CARGO_EMPTY_CNT_CNT : Fld := ⟨0x68, 0x60, 0, 32⟩
def CARGO_RECLAIM_CNT_CNT : Fld := ⟨0x68, 0x64, 0, 32⟩
def CARGO_LAST_SEC_OFFENDER : Fld := ⟨0x68, 0x68, 0, 5⟩
def CARGO_LAST_SEC_OWNER : Fld := ⟨0x68, 0x68, 8, 5⟩
def CARGO_LAST_SEC_INDEX : Fld := ⟨0x68, 0x68, 16, 12⟩
def CARGO_LOW_THR_N : Fld := ⟨0x68, 0x6C, 0, 13⟩
def CARGO_PROBE_IDX_INDEX : Fld := ⟨0x68, 0x70, 0, 12⟩
def CARGO_PROBE_GEN : Fld := ⟨0x68, 0x74, 0, 4⟩
def CARGO_PROBE_ALLOC : Fld := ⟨0x68, 0x74, 4, 1⟩
def CARGO_PROBE_OWNER : Fld := ⟨0x68, 0x74, 8, 5⟩

/-! GLOBAL page: R707 (chapter 15). -/

def GLOBAL_FAIL_CTL_DEAD_POL : Fld := ⟨0x0, 0xC0, 0, 1⟩
def GLOBAL_FAIL_CTL_AUTO_RESTART : Fld := ⟨0x0, 0xC0, 8, 8⟩
def GLOBAL_FAIL_CTL_HALT : Fld := ⟨0x0, 0xC0, 30, 1⟩
def GLOBAL_FAIL_CTL_RESTART : Fld := ⟨0x0, 0xC0, 31, 1⟩
def GLOBAL_FAIL_STAT_HALTED : Fld := ⟨0x0, 0xC4, 0, 1⟩
def GLOBAL_FAIL_STAT_SWEEP : Fld := ⟨0x0, 0xC4, 1, 1⟩
def GLOBAL_FAIL_STAT_CAUSE : Fld := ⟨0x0, 0xC4, 4, 4⟩
def GLOBAL_DEAD_IDS : Fld := ⟨0x0, 0xC8, 0, 32⟩
def GLOBAL_DEAD_CNT_CNT : Fld := ⟨0x0, 0xCC, 0, 32⟩
def GLOBAL_HALT_CNT_CNT : Fld := ⟨0x0, 0xD0, 0, 32⟩
def GLOBAL_LOST_LINE_CNT_CNT : Fld := ⟨0x0, 0xD4, 0, 32⟩
def GLOBAL_LOCK_LOST_CNT_CNT : Fld := ⟨0x0, 0xD8, 0, 32⟩
def GLOBAL_POISON_LINE_CNT_CNT : Fld := ⟨0x0, 0xDC, 0, 32⟩
def GLOBAL_SEC_CNT_CNT : Fld := ⟨0x0, 0xE0, 0, 32⟩
def GLOBAL_SEC_LAST_KIND : Fld := ⟨0x0, 0xE4, 0, 4⟩
def GLOBAL_SEC_LAST_TENANT : Fld := ⟨0x0, 0xE4, 8, 5⟩
def GLOBAL_SEC_LAST_AGENT : Fld := ⟨0x0, 0xE4, 16, 6⟩
def GLOBAL_LOSS_WP_WP : Fld := ⟨0x0, 0xE8, 0, 4⟩
def GLOBAL_LOSS_LO_LINE (k : Nat) : Fld := ⟨0x0, 0x100 + 8 * k, 0, 24⟩
def GLOBAL_LOSS_LO_KIND (k : Nat) : Fld := ⟨0x0, 0x100 + 8 * k, 24, 4⟩
def GLOBAL_LOSS_LO_VALID (k : Nat) : Fld := ⟨0x0, 0x100 + 8 * k, 31, 1⟩
def GLOBAL_LOSS_HI_TICK (k : Nat) : Fld := ⟨0x0, 0x104 + 8 * k, 0, 32⟩

/-! TENANT page: R709 (chapter 15). -/

def TENANT_FAIL_CTL_LOSS_BIT (g : Nat) : Fld := ⟨0x40 + g, 0xC0, 0, 5⟩
def TENANT_FAIL_CTL_LOSS_EN (g : Nat) : Fld := ⟨0x40 + g, 0xC0, 7, 1⟩
def TENANT_LOST_CNT_CNT (g : Nat) : Fld := ⟨0x40 + g, 0xC4, 0, 32⟩
def TENANT_POISON_CNT_CNT (g : Nat) : Fld := ⟨0x40 + g, 0xC8, 0, 32⟩
def TENANT_LAST_LOSS_LINE (g : Nat) : Fld := ⟨0x40 + g, 0xCC, 0, 24⟩
def TENANT_LAST_LOSS_KIND (g : Nat) : Fld := ⟨0x40 + g, 0xCC, 24, 4⟩

/-! INTAGG page: R710 (chapter 15). -/

def INTAGG_CTL_MGMT_TEN : Fld := ⟨0x4, 0x40, 0, 5⟩
def INTAGG_CTL_DB_BIT : Fld := ⟨0x4, 0x40, 8, 5⟩
def INTAGG_CTL_MBX : Fld := ⟨0x4, 0x40, 16, 8⟩
def INTAGG_LEVEL_NIRQ : Fld := ⟨0x4, 0x44, 0, 1⟩
def INTAGG_LEVEL_ALERT : Fld := ⟨0x4, 0x44, 1, 1⟩
def INTAGG_POST_FAIL_CNT_CNT : Fld := ⟨0x4, 0x48, 0, 32⟩
def INTAGG_PEND_PAGES (k : Nat) : Fld := ⟨0x4, 0x60 + 4 * k, 0, 32⟩

/-! GLOBAL page: R759 (chapter 16). -/

def GLOBAL_CTL_SOFT_RESET : Fld := ⟨0x0, 0x40, 0, 1⟩
def GLOBAL_CTL_DRESET : Fld := ⟨0x0, 0x40, 1, 1⟩
def GLOBAL_STAT_D_BUSY : Fld := ⟨0x0, 0x44, 0, 1⟩
def GLOBAL_STAT_CAUSE : Fld := ⟨0x0, 0x44, 8, 4⟩
def GLOBAL_SCRATCH_DATA : Fld := ⟨0x0, 0x48, 0, 32⟩

/-! POWER page: R760 (chapter 16). -/

def POWER_CTL_REQ : Fld := ⟨0x2, 0x40, 0, 2⟩
def POWER_CTL_LANE_WAKE : Fld := ⟨0x2, 0x40, 4, 1⟩
def POWER_CTL_SHUTDOWN : Fld := ⟨0x2, 0x40, 8, 1⟩
def POWER_STAT_STATE : Fld := ⟨0x2, 0x44, 0, 2⟩
def POWER_PF_CTL_THR : Fld := ⟨0x2, 0x48, 0, 9⟩
def POWER_PF_CTL_CMP_EN : Fld := ⟨0x2, 0x48, 12, 1⟩
def POWER_PF_CTL_PFI_EN : Fld := ⟨0x2, 0x48, 13, 1⟩
def POWER_VIN_DV : Fld := ⟨0x2, 0x4C, 0, 10⟩
def POWER_RET_BASE_HA4K : Fld := ⟨0x2, 0x50, 12, 18⟩
def POWER_RET_CTL_LOG2 : Fld := ⟨0x2, 0x54, 0, 5⟩
def POWER_RET_CTL_EN : Fld := ⟨0x2, 0x54, 8, 1⟩
def POWER_RET_CTL_RESTORE : Fld := ⟨0x2, 0x54, 9, 1⟩
def POWER_RET_STAT_ARMED : Fld := ⟨0x2, 0x58, 0, 1⟩
def POWER_RET_STAT_VALID : Fld := ⟨0x2, 0x58, 1, 1⟩
def POWER_RET_STAT_NONE : Fld := ⟨0x2, 0x58, 2, 1⟩
def POWER_RET_STAT_BUF : Fld := ⟨0x2, 0x58, 3, 1⟩
def POWER_RET_SEQ_SEQ : Fld := ⟨0x2, 0x5C, 0, 32⟩
def POWER_RET_TICK_NUM : Fld := ⟨0x2, 0x60, 0, 32⟩

/-! BOOT page: R761 (chapter 16). -/

def BOOT_CTL_GO : Fld := ⟨0x3, 0x40, 0, 1⟩
def BOOT_STAT_STAGE : Fld := ⟨0x3, 0x44, 0, 3⟩
def BOOT_STAT_BOOTSEL : Fld := ⟨0x3, 0x44, 4, 2⟩
def BOOT_STAT_SLOT : Fld := ⟨0x3, 0x44, 8, 1⟩
def BOOT_STAT_LOADED : Fld := ⟨0x3, 0x44, 9, 1⟩
def BOOT_STAT_ERR : Fld := ⟨0x3, 0x44, 12, 4⟩
def BOOT_IMG_SEQ_SEQ : Fld := ⟨0x3, 0x48, 0, 32⟩
def BOOT_FLASH_ADDR_ADDR : Fld := ⟨0x3, 0x4C, 0, 24⟩
def BOOT_FLASH_DATA_DATA : Fld := ⟨0x3, 0x50, 0, 32⟩
def BOOT_FLASH_CMD_OP : Fld := ⟨0x3, 0x54, 0, 2⟩
def BOOT_FLASH_CMD_GO : Fld := ⟨0x3, 0x54, 31, 1⟩
def BOOT_FLASH_STAT_BUSY : Fld := ⟨0x3, 0x58, 0, 1⟩
def BOOT_FLASH_STAT_ERR : Fld := ⟨0x3, 0x58, 1, 1⟩
def BOOT_LOAD_DATA : Fld := ⟨0x3, 0x5C, 0, 32⟩
def BOOT_LOAD_CTL_START : Fld := ⟨0x3, 0x60, 0, 1⟩
def BOOT_LOAD_CTL_CHECK : Fld := ⟨0x3, 0x60, 1, 1⟩

/-! SECURE page: R762 (chapter 16). -/

def SECURE_STAT_KEY_VALID : Fld := ⟨0x7C, 0x40, 0, 1⟩
def SECURE_STAT_AUTH_REQ : Fld := ⟨0x7C, 0x40, 1, 1⟩
def SECURE_STAT_LOCK : Fld := ⟨0x7C, 0x40, 2, 1⟩
def SECURE_KCV_KCV : Fld := ⟨0x7C, 0x44, 0, 32⟩
def SECURE_AUTH_FAIL_CNT_CNT : Fld := ⟨0x7C, 0x48, 0, 32⟩
def SECURE_KEY_PROG_KEY (k : Nat) : Fld := ⟨0x7C, 0x80 + 4 * k, 0, 32⟩
def SECURE_PROG_CTL_KEY : Fld := ⟨0x7C, 0xA0, 0, 1⟩
def SECURE_PROG_CTL_AUTH_SET : Fld := ⟨0x7C, 0xA0, 1, 1⟩
def SECURE_PROG_CTL_LOCK_SET : Fld := ⟨0x7C, 0xA0, 2, 1⟩
def SECURE_PROG_CTL_ERR : Fld := ⟨0x7C, 0xA0, 8, 1⟩
def SECURE_PROG_CTL_GO : Fld := ⟨0x7C, 0xA0, 31, 1⟩

/-! GLOBAL page: R785 (chapter 17). -/

def GLOBAL_SVC_CTL_PEC_EN : Fld := ⟨0x0, 0x60, 0, 1⟩
def GLOBAL_SVC_CTL_ALIAS_EN : Fld := ⟨0x0, 0x60, 1, 1⟩
def GLOBAL_SVC_CTL_DBG_EN : Fld := ⟨0x0, 0x60, 2, 1⟩
def GLOBAL_SVC_STAT_SPI_OVR : Fld := ⟨0x0, 0x64, 0, 1⟩
def GLOBAL_SVC_STAT_PEC_ERR : Fld := ⟨0x0, 0x64, 1, 1⟩
def GLOBAL_SVC_STAT_PARTNER_ERR : Fld := ⟨0x0, 0x64, 2, 1⟩
def GLOBAL_SVC_STAT_REFUSED : Fld := ⟨0x0, 0x64, 3, 1⟩
def GLOBAL_SVC_STAT_ALIGN_ERR : Fld := ⟨0x0, 0x64, 4, 1⟩

/-! INTAGG page: R710 (chapter 15). -/

def INTAGG_ROUTE_NIRQ (k : Nat) : Fld := ⟨0x4, 0x100 + 4 * k, 0, 1⟩
def INTAGG_ROUTE_ALERT (k : Nat) : Fld := ⟨0x4, 0x100 + 4 * k, 1, 1⟩
def INTAGG_ROUTE_DB (k : Nat) : Fld := ⟨0x4, 0x100 + 4 * k, 2, 1⟩
def INTAGG_ROUTE_MBX (k : Nat) : Fld := ⟨0x4, 0x100 + 4 * k, 3, 1⟩

/-! LEDGER page: R73 (chapter 02). -/

def LEDGER_CTL_EN : Fld := ⟨0x78, 0x40, 0, 1⟩
def LEDGER_PUB_TICK_NUM : Fld := ⟨0x78, 0x44, 0, 32⟩
def LEDGER_OVER_PORT_PORTS : Fld := ⟨0x78, 0x48, 0, 16⟩
def LEDGER_OVER_TEN_TENANTS : Fld := ⟨0x78, 0x4C, 0, 32⟩
def LEDGER_HUB_CELL_WORST (k : Nat) : Fld := ⟨0x78, 0x80 + 4 * k, 0, 24⟩
def LEDGER_HUB_CELL_VALID (k : Nat) : Fld := ⟨0x78, 0x80 + 4 * k, 30, 1⟩
def LEDGER_HUB_CELL_OVER (k : Nat) : Fld := ⟨0x78, 0x80 + 4 * k, 31, 1⟩
def LEDGER_PORT_CELL_WORST (k j : Nat) : Fld := ⟨0x78, 0x100 + 64 * k + 4 * j, 0, 24⟩
def LEDGER_PORT_CELL_VALID (k j : Nat) : Fld := ⟨0x78, 0x100 + 64 * k + 4 * j, 30, 1⟩
def LEDGER_PORT_CELL_OVER (k j : Nat) : Fld := ⟨0x78, 0x100 + 64 * k + 4 * j, 31, 1⟩
def LEDGER_TEN_CELL_WORST (k j : Nat) : Fld := ⟨0x78, 0x500 + 64 * k + 4 * j, 0, 24⟩
def LEDGER_TEN_CELL_VALID (k j : Nat) : Fld := ⟨0x78, 0x500 + 64 * k + 4 * j, 30, 1⟩
def LEDGER_TEN_CELL_OVER (k j : Nat) : Fld := ⟨0x78, 0x500 + 64 * k + 4 * j, 31, 1⟩
def LEDGER_CLASS_BOUND_NS (k : Nat) : Fld := ⟨0x78, 0xC0 + 4 * k, 0, 24⟩

/-! TENANT page: R73 (chapter 02). -/

def TENANT_LAT_BOUND_NS (g k : Nat) : Fld := ⟨0x40 + g, 0x100 + 4 * k, 0, 24⟩

/-! LEDGER page: R807 (chapter 18). -/

def LEDGER_PERF_SEL_EVENT (k : Nat) : Fld := ⟨0x78, 0xD00 + 8 * k, 0, 8⟩
def LEDGER_PERF_SEL_SRC (k : Nat) : Fld := ⟨0x78, 0xD00 + 8 * k, 8, 5⟩
def LEDGER_PERF_SEL_TEN (k : Nat) : Fld := ⟨0x78, 0xD00 + 8 * k, 16, 5⟩
def LEDGER_PERF_SEL_TEN_EN (k : Nat) : Fld := ⟨0x78, 0xD00 + 8 * k, 21, 1⟩
def LEDGER_PERF_CNT_CNT (k : Nat) : Fld := ⟨0x78, 0xD04 + 8 * k, 0, 32⟩

/-! EVT page: R74 (chapter 02). -/

def EVT_PIN_MODE (k : Nat) : Fld := ⟨0x6C, 0x80 + 4 * k, 0, 2⟩
def EVT_PIN_EDGE (k : Nat) : Fld := ⟨0x6C, 0x80 + 4 * k, 2, 2⟩
def EVT_PIN_FAULT_ST (k : Nat) : Fld := ⟨0x6C, 0x80 + 4 * k, 4, 2⟩
def EVT_PIN_INIT (k : Nat) : Fld := ⟨0x6C, 0x80 + 4 * k, 6, 1⟩
def EVT_PIN_PULSE_W (k : Nat) : Fld := ⟨0x6C, 0x80 + 4 * k, 16, 16⟩

/-! EVT page: R92 (chapter 02). -/

def EVT_CTL_EN : Fld := ⟨0x6C, 0x40, 0, 1⟩
def EVT_RING_BASE_LINE : Fld := ⟨0x6C, 0x44, 0, 24⟩
def EVT_RING_LEN_LOG2 : Fld := ⟨0x6C, 0x48, 0, 4⟩
def EVT_RING_WP_WP : Fld := ⟨0x6C, 0x4C, 0, 12⟩
def EVT_SEQ_NUM : Fld := ⟨0x6C, 0x50, 0, 32⟩
def EVT_SCHED_BASE_LINE : Fld := ⟨0x6C, 0x54, 0, 24⟩
def EVT_STAT_SCHED_ERR : Fld := ⟨0x6C, 0x58, 0, 1⟩
def EVT_LOST_CNT_CNT : Fld := ⟨0x6C, 0x5C, 0, 32⟩
def EVT_SCHED_IGN_CNT_CNT : Fld := ⟨0x6C, 0x60, 0, 32⟩
def EVT_LEVEL_PINS : Fld := ⟨0x6C, 0x64, 0, 16⟩

/-! MBOX page: R663 (chapter 14). -/

def MBOX_FAB_RETRY_US : Fld := ⟨0x60, 0x40, 0, 10⟩
def MBOX_FAB_RETRY_LIM : Fld := ⟨0x60, 0x40, 16, 4⟩

/-! STATION page: R618 (chapter 13). -/

def STATION_SAFE_BYTES (g k : Nat) : Fld := ⟨0x22 + g, 0x100 + 4 * k, 0, 32⟩

/-! DEBUG page: R814 (chapter 18). -/

def DEBUG_PEEK_ADDR_ADDR : Fld := ⟨0xF0, 0x40, 0, 26⟩
def DEBUG_PEEK_CTL_KIND : Fld := ⟨0xF0, 0x44, 0, 2⟩
def DEBUG_PEEK_CTL_WORD : Fld := ⟨0xF0, 0x44, 4, 2⟩
def DEBUG_PEEK_CTL_GO : Fld := ⟨0xF0, 0x44, 31, 1⟩
def DEBUG_PEEK_STAT_BUSY : Fld := ⟨0xF0, 0x48, 0, 1⟩
def DEBUG_PEEK_STAT_DONE : Fld := ⟨0xF0, 0x48, 1, 1⟩
def DEBUG_PEEK_STAT_ERR : Fld := ⟨0xF0, 0x48, 2, 1⟩
def DEBUG_PEEK_TAG_TAG : Fld := ⟨0xF0, 0x6C, 0, 12⟩
def DEBUG_TRACE_CTL_EN : Fld := ⟨0xF0, 0x80, 0, 1⟩
def DEBUG_TRACE_CTL_PORT : Fld := ⟨0xF0, 0x80, 8, 4⟩
def DEBUG_TRACE_WP_WP : Fld := ⟨0xF0, 0x84, 0, 6⟩
def DEBUG_PEEK_DATA_DATA (k : Nat) : Fld := ⟨0xF0, 0x50 + 4 * k, 0, 32⟩
def DEBUG_PEEK_CHK_CHK (k : Nat) : Fld := ⟨0xF0, 0x60 + 4 * k, 0, 32⟩
def DEBUG_TRACE_HDR (k : Nat) : Fld := ⟨0xF0, 0x100 + 4 * k, 0, 16⟩
def DEBUG_TRACE_OPCODE (k : Nat) : Fld := ⟨0xF0, 0x100 + 4 * k, 16, 8⟩
def DEBUG_TRACE_TAG (k : Nat) : Fld := ⟨0xF0, 0x100 + 4 * k, 24, 6⟩
def DEBUG_TRACE_DIR (k : Nat) : Fld := ⟨0xF0, 0x100 + 4 * k, 30, 1⟩
def DEBUG_TRACE_VALID (k : Nat) : Fld := ⟨0xF0, 0x100 + 4 * k, 31, 1⟩

end R

def rowsTick : List FieldRow := [
  ⟨0x1, 1, 0x40, [], 0, 1, .rw, 0, 3, true, .any, false, false⟩,
  ⟨0x1, 1, 0x40, [], 1, 1, .rwl, 0, 3, true, .any, false, false⟩,
  ⟨0x1, 1, 0x40, [], 2, 2, .rwl, 0, 3, true, (.notIn [3]), true, false⟩,
  ⟨0x1, 1, 0x40, [], 8, 1, .wo, 0, 1, false, .any, false, false⟩,
  ⟨0x1, 1, 0x44, [], 0, 20, .rw, 2000, 3, true, (.range 2000 1000000), true, false⟩,
  ⟨0x1, 1, 0x48, [], 0, 32, .ro, 0, 3, false, .any, false, false⟩,
  ⟨0x1, 1, 0x4C, [], 0, 20, .ro, 0, 3, false, .any, false, false⟩,
  ⟨0x1, 1, 0x50, [], 0, 20, .rw, 0, 3, true, (.range 0 100000), true, false⟩,
  ⟨0x1, 1, 0x54, [], 0, 20, .rw, 120, 3, true, (.range 120 100000), true, false⟩,
  ⟨0x1, 1, 0x58, [], 0, 20, .rw, 0, 3, true, .any, true, false⟩,
  ⟨0x1, 1, 0x5C, [], 0, 20, .rw, 0, 3, true, .any, true, false⟩,
  ⟨0x1, 1, 0x60, [], 0, 20, .rw, 100, 3, true, (.range 100 100000), true, false⟩,
  ⟨0x1, 1, 0x64, [], 0, 20, .rw, 0, 3, true, .any, true, false⟩,
  ⟨0x1, 1, 0x68, [], 0, 14, .rw, 0, 3, true, (.range 0 10000), true, false⟩,
  ⟨0x1, 1, 0x6C, [], 0, 1, .ro, 0, 7, false, .any, false, false⟩,
  ⟨0x1, 1, 0x6C, [], 1, 1, .ro, 0, 7, false, .any, false, false⟩,
  ⟨0x1, 1, 0x6C, [], 2, 1, .ro, 0, 7, false, .any, false, false⟩,
  ⟨0x1, 1, 0x6C, [], 3, 1, .w1c, 0, 3, false, .any, false, false⟩,
  ⟨0x1, 1, 0x6C, [], 4, 1, .w1c, 0, 3, false, .any, false, false⟩,
  ⟨0x1, 1, 0x70, [], 0, 32, .ro, 0, 3, false, .any, false, true⟩,
  ⟨0x1, 1, 0x74, [], 0, 32, .ro, 0, 3, false, .any, false, true⟩,
  ⟨0x1, 1, 0x78, [], 0, 32, .ro, 0, 3, false, .any, false, true⟩,
  ⟨0x1, 1, 0x7C, [], 0, 14, .ro, 0, 3, false, .any, false, false⟩,
  ⟨0x1, 1, 0x80, [], 0, 32, .ro, 0, 3, false, .any, false, true⟩,
  ⟨0x1, 1, 0x84, [], 0, 32, .ro, 0, 3, false, .any, false, true⟩,
  ⟨0x1, 1, 0x88, [], 0, 16, .ro, 0, 3, false, .any, false, false⟩,
  ⟨0x1, 1, 0x8C, [], 0, 16, .ro, 0, 3, false, .any, false, false⟩,
  ⟨0x1, 1, 0x8C, [], 16, 16, .ro, 0, 3, false, .any, false, true⟩]

def rowsRegion : List FieldRow := [
  ⟨0x38, 1, 0x400, [(32, 64)], 12, 18, .rw, 0, 3, true, .any, true, false⟩,
  ⟨0x38, 1, 0x404, [(32, 64)], 0, 1, .rw, 0, 3, true, .any, true, false⟩,
  ⟨0x38, 1, 0x404, [(32, 64)], 1, 3, .rw, 0, 3, true, .any, true, false⟩,
  ⟨0x38, 1, 0x404, [(32, 64)], 4, 5, .rw, 0, 3, true, .any, true, false⟩,
  ⟨0x38, 1, 0x404, [(32, 64)], 9, 5, .rw, 0, 3, true, .any, true, false⟩,
  ⟨0x38, 1, 0x404, [(32, 64)], 14, 2, .rw, 0, 3, true, .any, true, false⟩,
  ⟨0x38, 1, 0x404, [(32, 64)], 16, 1, .rw, 0, 3, true, .any, true, false⟩,
  ⟨0x38, 1, 0x404, [(32, 64)], 17, 1, .rw, 0, 3, true, .any, true, false⟩,
  ⟨0x38, 1, 0x404, [(32, 64)], 18, 2, .rw, 0, 3, true, .any, true, false⟩,
  ⟨0x38, 1, 0x408, [(32, 64)], 0, 32, .rw, 0, 3, true, .any, true, false⟩,
  ⟨0x38, 1, 0x40C, [(32, 64)], 0, 32, .rw, 0, 3, true, .any, true, false⟩,
  ⟨0x38, 1, 0x410, [(32, 64)], 0, 32, .rw, 0, 3, true, .any, true, false⟩,
  ⟨0x38, 1, 0x40, [], 0, 1, .wo, 0, 1, false, .any, true, false⟩,
  ⟨0x38, 1, 0x40, [], 1, 1, .wo, 0, 1, false, .any, true, false⟩,
  ⟨0x38, 1, 0x44, [], 0, 1, .rwl, 0, 3, true, .any, true, false⟩,
  ⟨0x38, 1, 0x44, [], 1, 1, .ro, 0, 3, false, .any, false, false⟩,
  ⟨0x38, 1, 0x48, [], 0, 1, .ro, 0, 3, false, .any, false, false⟩,
  ⟨0x38, 1, 0x48, [], 1, 1, .ro, 0, 3, false, .any, false, false⟩,
  ⟨0x38, 1, 0x48, [], 8, 4, .ro, 0, 3, false, .any, false, false⟩,
  ⟨0x38, 1, 0x48, [], 16, 6, .ro, 0, 3, false, .any, false, false⟩,
  ⟨0x38, 1, 0x4C, [], 0, 12, .ro, 0, 3, false, .any, false, false⟩]

def rowsTenant : List FieldRow := [
  ⟨0x40, 32, 0x40, [], 0, 1, .rw, 0, 3, true, .any, true, false⟩,
  ⟨0x40, 1, 0x40, [], 1, 1, .rwl, 1, 3, false, .any, true, false⟩,
  ⟨0x41, 31, 0x40, [], 1, 1, .rwl, 0, 3, false, .any, true, false⟩,
  ⟨0x40, 32, 0x40, [], 8, 1, .wo, 0, 1, false, .any, true, false⟩,
  ⟨0x40, 32, 0x44, [], 0, 1, .ro, 0, 3, false, .any, false, false⟩,
  ⟨0x40, 32, 0x44, [], 8, 8, .ro, 0, 3, false, .any, false, false⟩,
  ⟨0x40, 32, 0x48, [], 0, 32, .ro, 0, 11, false, .any, false, true⟩,
  ⟨0x40, 32, 0x4C, [], 0, 8, .ro, 0, 11, false, .any, false, false⟩,
  ⟨0x40, 32, 0x4C, [], 8, 5, .ro, 0, 11, false, .any, false, false⟩,
  ⟨0x40, 32, 0x60, [], 0, 4, .rw, 4, 3, true, (.range 1 15), false, false⟩,
  ⟨0x40, 32, 0x64, [], 0, 9, .rw, 256, 3, true, (.range 0 256), false, false⟩,
  ⟨0x40, 32, 0x68, [], 0, 9, .ro, 0, 15, false, .any, false, false⟩,
  ⟨0x40, 32, 0x6C, [], 0, 32, .ro, 0, 11, false, .any, false, true⟩,
  ⟨0x40, 32, 0x70, [], 0, 32, .ro, 0, 11, false, .any, false, true⟩,
  ⟨0x40, 32, 0x74, [], 0, 32, .ro, 0, 11, false, .any, false, true⟩,
  ⟨0x40, 32, 0x80, [], 0, 32, .w1c, 0, 15, false, .any, false, false⟩,
  ⟨0x40, 32, 0x84, [], 0, 32, .rw, 0, 11, true, .any, false, false⟩,
  ⟨0x40, 32, 0x88, [], 0, 5, .rw, 0, 3, true, .any, false, false⟩,
  ⟨0x40, 32, 0x88, [], 7, 1, .ro, 0, 15, false, .any, false, false⟩,
  ⟨0x40, 32, 0x88, [], 8, 5, .rw, 0, 3, true, .any, false, false⟩,
  ⟨0x40, 32, 0x88, [], 15, 1, .rw, 0, 3, true, .any, false, false⟩,
  ⟨0x40, 32, 0x8C, [], 0, 13, .rw, 4096, 3, true, (.range 0 4096), false, false⟩,
  ⟨0x40, 32, 0x90, [], 0, 13, .ro, 0, 11, false, .any, false, false⟩,
  ⟨0x40, 32, 0x94, [], 0, 32, .ro, 0, 11, false, .any, false, true⟩,
  ⟨0x40, 32, 0x98, [], 0, 32, .ro, 0, 3, false, .any, false, true⟩,
  ⟨0x40, 32, 0xC0, [], 0, 5, .rw, 0, 3, true, .any, false, false⟩,
  ⟨0x40, 32, 0xC0, [], 7, 1, .rw, 0, 3, true, .any, false, false⟩,
  ⟨0x40, 32, 0xC4, [], 0, 32, .ro, 0, 11, false, .any, false, true⟩,
  ⟨0x40, 32, 0xC8, [], 0, 32, .ro, 0, 11, false, .any, false, true⟩,
  ⟨0x40, 32, 0xCC, [], 0, 24, .ro, 0, 11, false, .any, false, false⟩,
  ⟨0x40, 32, 0xCC, [], 24, 4, .ro, 0, 11, false, .any, false, false⟩,
  ⟨0x40, 32, 0x100, [(4, 16)], 0, 24, .rw, 0, 3, true, .any, false, false⟩]

def rowsAport : List FieldRow := [
  ⟨0x8, 16, 0x100, [], 0, 32, .rw, 0, 3, true, .any, false, false⟩,
  ⟨0x8, 16, 0x200, [(16, 16)], 12, 20, .rw, 0, 3, true, .any, false, false⟩,
  ⟨0x8, 16, 0x204, [(16, 16)], 0, 16, .rw, 0, 3, true, .any, false, false⟩,
  ⟨0x8, 16, 0x208, [(16, 16)], 12, 18, .rw, 0, 3, true, .any, false, false⟩,
  ⟨0x8, 16, 0x20C, [(16, 16)], 0, 1, .rw, 0, 3, true, .any, false, false⟩,
  ⟨0x8, 16, 0x20C, [(16, 16)], 4, 5, .rw, 12, 3, true, .any, false, false⟩,
  ⟨0x8, 16, 0x40, [], 0, 1, .rw, 0, 3, true, .any, false, false⟩,
  ⟨0x8, 16, 0x40, [], 1, 1, .wo, 0, 1, false, .any, false, false⟩,
  ⟨0x8, 16, 0x40, [], 2, 1, .rw, 0, 3, true, .any, false, false⟩,
  ⟨0x8, 16, 0x44, [], 0, 3, .ro, 0, 19, false, .any, false, false⟩,
  ⟨0x8, 16, 0x44, [], 8, 4, .ro, 0, 3, false, .any, false, false⟩,
  ⟨0x8, 16, 0x48, [], 0, 2, .ro, 0, 19, false, .any, false, false⟩,
  ⟨0x8, 16, 0x48, [], 2, 1, .ro, 0, 19, false, .any, false, false⟩,
  ⟨0x8, 16, 0x48, [], 3, 1, .ro, 0, 19, false, .any, false, false⟩,
  ⟨0x8, 16, 0x48, [], 4, 1, .ro, 0, 19, false, .any, false, false⟩,
  ⟨0x8, 16, 0x48, [], 5, 1, .ro, 0, 19, false, .any, false, false⟩,
  ⟨0x8, 16, 0x48, [], 6, 1, .ro, 0, 19, false, .any, false, false⟩,
  ⟨0x8, 16, 0x48, [], 8, 5, .ro, 0, 3, false, .any, false, false⟩,
  ⟨0x8, 16, 0x4C, [], 0, 10, .rw, 200, 3, true, (.range 50 800), false, false⟩,
  ⟨0x8, 16, 0x50, [], 0, 10, .rw, 150, 3, true, (.range 25 800), false, false⟩,
  ⟨0x8, 16, 0x54, [], 0, 32, .ro, 0, 3, false, .any, false, true⟩,
  ⟨0x8, 16, 0x58, [], 0, 32, .ro, 0, 3, false, .any, false, true⟩,
  ⟨0x8, 16, 0x5C, [], 0, 32, .ro, 0, 3, false, .any, false, true⟩,
  ⟨0x8, 16, 0x60, [], 0, 32, .ro, 0, 3, false, .any, false, true⟩,
  ⟨0x8, 16, 0x64, [], 0, 32, .ro, 0, 3, false, .any, false, true⟩,
  ⟨0x8, 16, 0x68, [], 0, 32, .ro, 0, 3, false, .any, false, true⟩,
  ⟨0x8, 16, 0x6C, [], 0, 4, .ro, 0, 19, false, .any, false, false⟩,
  ⟨0x8, 16, 0x6C, [], 8, 8, .ro, 0, 19, false, .any, false, false⟩,
  ⟨0x8, 16, 0x70, [], 0, 8, .ro, 0, 19, false, .any, false, false⟩,
  ⟨0x8, 16, 0x70, [], 8, 8, .ro, 0, 19, false, .any, false, false⟩,
  ⟨0x8, 16, 0x70, [], 16, 8, .ro, 0, 19, false, .any, false, false⟩,
  ⟨0x8, 16, 0x70, [], 24, 8, .ro, 0, 19, false, .any, false, false⟩,
  ⟨0x8, 16, 0x74, [], 0, 32, .ro, 0, 3, false, .any, false, true⟩]

def rowsGlobal1 : List FieldRow := [
  ⟨0x0, 1, 0x80, [], 0, 1, .rwl, 0, 3, true, .any, true, false⟩,
  ⟨0x0, 1, 0x84, [], 0, 32, .ro, 0, 7, false, .any, false, true⟩,
  ⟨0x0, 1, 0x88, [], 0, 32, .ro, 0, 7, false, .any, false, true⟩,
  ⟨0x0, 1, 0x90, [], 0, 6, .rw, 50, 3, true, (.range 10 50), false, false⟩,
  ⟨0x0, 1, 0x94, [], 0, 32, .ro, 0, 7, false, .any, false, true⟩,
  ⟨0x0, 1, 0x98, [], 0, 32, .ro, 0, 7, false, .any, false, true⟩,
  ⟨0x0, 1, 0x9C, [], 0, 32, .ro, 0, 7, false, .any, false, true⟩,
  ⟨0x0, 1, 0xA0, [], 0, 32, .ro, 0, 7, false, .any, false, true⟩,
  ⟨0x0, 1, 0xA4, [], 0, 32, .ro, 0, 7, false, .any, false, true⟩,
  ⟨0x0, 1, 0xA8, [], 0, 32, .ro, 0, 7, false, .any, false, true⟩,
  ⟨0x0, 1, 0xAC, [], 0, 11, .ro, 0, 7, false, .any, false, false⟩,
  ⟨0x0, 1, 0xAC, [], 16, 11, .ro, 0, 7, false, .any, false, true⟩,
  ⟨0x0, 1, 0xB0, [], 0, 32, .ro, 0, 7, false, .any, false, true⟩,
  ⟨0x0, 1, 0xC0, [], 0, 1, .rwl, 0, 3, true, .any, true, false⟩,
  ⟨0x0, 1, 0xC0, [], 8, 8, .rw, 0, 3, true, .any, true, false⟩,
  ⟨0x0, 1, 0xC0, [], 30, 1, .wo, 0, 1, false, .any, false, false⟩,
  ⟨0x0, 1, 0xC0, [], 31, 1, .wo, 0, 1, false, .any, false, false⟩,
  ⟨0x0, 1, 0xC4, [], 0, 1, .ro, 0, 7, false, .any, false, false⟩,
  ⟨0x0, 1, 0xC4, [], 1, 1, .ro, 0, 7, false, .any, false, false⟩,
  ⟨0x0, 1, 0xC4, [], 4, 4, .ro, 0, 3, false, .any, false, false⟩,
  ⟨0x0, 1, 0xC8, [], 0, 32, .ro, 0, 7, false, .any, false, false⟩,
  ⟨0x0, 1, 0xCC, [], 0, 32, .ro, 0, 3, false, .any, false, true⟩,
  ⟨0x0, 1, 0xD0, [], 0, 32, .ro, 0, 3, false, .any, false, true⟩,
  ⟨0x0, 1, 0xD4, [], 0, 32, .ro, 0, 3, false, .any, false, true⟩,
  ⟨0x0, 1, 0xD8, [], 0, 32, .ro, 0, 3, false, .any, false, true⟩,
  ⟨0x0, 1, 0xDC, [], 0, 32, .ro, 0, 3, false, .any, false, true⟩,
  ⟨0x0, 1, 0xE0, [], 0, 32, .ro, 0, 3, false, .any, false, true⟩,
  ⟨0x0, 1, 0xE4, [], 0, 4, .ro, 0, 3, false, .any, false, false⟩,
  ⟨0x0, 1, 0xE4, [], 8, 5, .ro, 0, 3, false, .any, false, false⟩,
  ⟨0x0, 1, 0xE4, [], 16, 6, .ro, 0, 3, false, .any, false, false⟩,
  ⟨0x0, 1, 0xE8, [], 0, 4, .ro, 0, 3, false, .any, false, false⟩,
  ⟨0x0, 1, 0x100, [(8, 16)], 0, 24, .ro, 0, 3, false, .any, false, false⟩,
  ⟨0x0, 1, 0x100, [(8, 16)], 24, 4, .ro, 0, 3, false, .any, false, false⟩,
  ⟨0x0, 1, 0x100, [(8, 16)], 31, 1, .ro, 0, 3, false, .any, false, false⟩,
  ⟨0x0, 1, 0x104, [(8, 16)], 0, 32, .ro, 0, 3, false, .any, false, false⟩,
  ⟨0x0, 1, 0x40, [], 0, 1, .wo, 0, 1, false, .any, false, false⟩,
  ⟨0x0, 1, 0x40, [], 1, 1, .wo, 0, 1, false, .any, false, false⟩,
  ⟨0x0, 1, 0x44, [], 0, 1, .ro, 0, 3, false, .any, false, false⟩,
  ⟨0x0, 1, 0x44, [], 8, 4, .ro, 0, 3, false, .any, false, false⟩,
  ⟨0x0, 1, 0x48, [], 0, 32, .rws, 0, 1, false, .any, false, false⟩]

def rowsGlobal2 : List FieldRow := [
  ⟨0x0, 1, 0x60, [], 0, 1, .rw, 0, 3, true, .any, false, false⟩,
  ⟨0x0, 1, 0x60, [], 1, 1, .rwl, 0, 3, true, .any, false, false⟩,
  ⟨0x0, 1, 0x60, [], 2, 1, .rwl, 0, 3, false, .any, false, false⟩,
  ⟨0x0, 1, 0x64, [], 0, 1, .w1c, 0, 3, false, .any, false, false⟩,
  ⟨0x0, 1, 0x64, [], 1, 1, .w1c, 0, 3, false, .any, false, false⟩,
  ⟨0x0, 1, 0x64, [], 2, 1, .w1c, 0, 3, false, .any, false, false⟩,
  ⟨0x0, 1, 0x64, [], 3, 1, .ro, 0, 3, false, .any, false, false⟩,
  ⟨0x0, 1, 0x64, [], 4, 1, .w1c, 0, 3, false, .any, false, false⟩]

def rowsDir : List FieldRow := [
  ⟨0x30, 1, 0x40, [], 0, 1, .rw, 0, 3, true, .any, false, false⟩,
  ⟨0x30, 1, 0x40, [], 8, 4, .rwl, 12, 3, true, (.range 1 15), true, false⟩,
  ⟨0x30, 1, 0x44, [], 0, 16, .rwl, 0xACE1, 3, true, (.notIn [0]), false, false⟩,
  ⟨0x30, 1, 0x48, [], 0, 16, .ro, 0xACE1, 7, false, .any, false, false⟩,
  ⟨0x30, 1, 0x4C, [], 0, 12, .rw, 0, 3, true, (.range 0 2048), false, false⟩,
  ⟨0x30, 1, 0x50, [], 0, 15, .ro, 0, 7, false, .any, false, false⟩,
  ⟨0x30, 1, 0x54, [], 0, 32, .ro, 0, 3, false, .any, false, true⟩,
  ⟨0x30, 1, 0x58, [], 0, 20, .ro, 0, 7, false, .any, false, false⟩,
  ⟨0x30, 1, 0x5C, [], 0, 32, .ro, 0, 7, false, .any, false, true⟩,
  ⟨0x30, 1, 0x60, [], 0, 32, .ro, 0, 7, false, .any, false, true⟩,
  ⟨0x30, 1, 0x64, [], 0, 32, .ro, 0, 7, false, .any, false, true⟩,
  ⟨0x30, 1, 0x68, [], 0, 32, .ro, 0, 7, false, .any, false, true⟩,
  ⟨0x30, 1, 0x6C, [], 0, 32, .ro, 0, 7, false, .any, false, true⟩,
  ⟨0x30, 1, 0x70, [], 0, 32, .ro, 0, 3, false, .any, false, true⟩,
  ⟨0x30, 1, 0x74, [], 0, 32, .ro, 0, 3, false, .any, false, true⟩,
  ⟨0x30, 1, 0x78, [], 0, 32, .ro, 0, 3, false, .any, false, true⟩,
  ⟨0x30, 1, 0x7C, [], 0, 32, .ro, 0, 3, false, .any, false, true⟩,
  ⟨0x30, 1, 0x80, [], 0, 32, .ro, 0, 3, false, .any, false, true⟩,
  ⟨0x30, 1, 0x84, [], 0, 32, .ro, 0, 3, false, .any, false, true⟩,
  ⟨0x30, 1, 0x88, [], 0, 1, .ro, 0, 7, false, .any, false, false⟩,
  ⟨0x30, 1, 0x88, [], 16, 15, .ro, 0, 7, false, .any, false, false⟩,
  ⟨0x30, 1, 0x8C, [], 0, 15, .wo, 0, 1, false, .any, false, false⟩,
  ⟨0x30, 1, 0x8C, [], 16, 4, .wo, 0, 1, false, .any, false, false⟩,
  ⟨0x30, 1, 0x8C, [], 24, 2, .wo, 0, 1, false, .any, false, false⟩,
  ⟨0x30, 1, 0x8C, [], 31, 1, .wo, 0, 1, false, .any, false, false⟩]

def rowsHcache : List FieldRow := [
  ⟨0x31, 1, 0x40, [], 0, 1, .wo, 0, 1, false, .any, false, false⟩,
  ⟨0x31, 1, 0x44, [], 0, 1, .ro, 0, 7, false, .any, false, false⟩,
  ⟨0x31, 1, 0x44, [], 1, 1, .ro, 0, 7, false, .any, false, false⟩,
  ⟨0x31, 1, 0x48, [], 0, 32, .ro, 0, 7, false, .any, false, true⟩,
  ⟨0x31, 1, 0x4C, [], 0, 32, .ro, 0, 7, false, .any, false, true⟩,
  ⟨0x31, 1, 0x50, [], 0, 32, .ro, 0, 7, false, .any, false, true⟩,
  ⟨0x31, 1, 0x54, [], 0, 32, .ro, 0, 7, false, .any, false, true⟩,
  ⟨0x31, 1, 0x58, [], 0, 6, .ro, 0, 7, false, .any, false, false⟩,
  ⟨0x31, 1, 0x58, [], 8, 6, .ro, 0, 7, false, .any, false, true⟩,
  ⟨0x31, 1, 0x5C, [], 0, 32, .ro, 0, 7, false, .any, false, true⟩,
  ⟨0x31, 1, 0x60, [], 0, 32, .ro, 0, 7, false, .any, false, true⟩,
  ⟨0x31, 1, 0x64, [], 0, 32, .ro, 0, 3, false, .any, false, true⟩,
  ⟨0x31, 1, 0x68, [], 0, 32, .ro, 0, 3, false, .any, false, true⟩,
  ⟨0x31, 1, 0x6C, [], 0, 32, .ro, 0, 3, false, .any, false, true⟩,
  ⟨0x31, 1, 0x70, [], 0, 32, .ro, 0, 3, false, .any, false, true⟩,
  ⟨0x31, 1, 0x74, [], 0, 32, .ro, 0, 3, false, .any, false, true⟩,
  ⟨0x31, 1, 0x78, [], 0, 16, .ro, 0, 3, false, .any, false, false⟩,
  ⟨0x31, 1, 0x78, [], 16, 7, .ro, 0, 3, false, .any, false, false⟩,
  ⟨0x31, 1, 0x7C, [], 0, 32, .ro, 0, 3, false, .any, false, true⟩,
  ⟨0x31, 1, 0x80, [], 0, 16, .wo, 0, 1, false, .any, false, false⟩,
  ⟨0x31, 1, 0x80, [], 16, 3, .wo, 0, 1, false, .any, false, false⟩,
  ⟨0x31, 1, 0x80, [], 31, 1, .wo, 0, 1, false, .any, false, false⟩]

def rowsMem : List FieldRow := [
  ⟨0x32, 1, 0x40, [], 0, 32, .ro, 0, 3, false, .any, false, true⟩,
  ⟨0x32, 1, 0x44, [], 0, 32, .ro, 0, 3, false, .any, false, true⟩,
  ⟨0x32, 1, 0x48, [], 0, 32, .ro, 0, 3, false, .any, false, true⟩,
  ⟨0x32, 1, 0x4C, [], 0, 32, .ro, 0, 3, false, .any, false, true⟩,
  ⟨0x32, 1, 0x50, [], 0, 32, .ro, 0, 3, false, .any, false, true⟩,
  ⟨0x32, 1, 0x54, [], 0, 32, .ro, 0, 3, false, .any, false, true⟩,
  ⟨0x32, 1, 0x58, [], 0, 32, .ro, 0, 3, false, .any, false, true⟩,
  ⟨0x32, 1, 0x5C, [], 0, 26, .ro, 0, 3, false, .any, false, false⟩,
  ⟨0x32, 1, 0x60, [], 0, 26, .rw, 0, 3, false, .any, false, false⟩,
  ⟨0x32, 1, 0x64, [], 0, 4, .wo, 0, 1, false, .any, false, false⟩,
  ⟨0x32, 1, 0x64, [], 4, 4, .wo, 0, 1, false, .any, false, false⟩,
  ⟨0x32, 1, 0x64, [], 8, 2, .wo, 0, 1, false, .any, false, false⟩,
  ⟨0x32, 1, 0x64, [], 31, 1, .wo, 0, 1, false, .any, false, false⟩]

def rowsScrub : List FieldRow := [
  ⟨0x33, 1, 0x40, [], 0, 1, .rw, 0, 3, true, .any, false, false⟩,
  ⟨0x33, 1, 0x44, [], 0, 14, .rw, 0, 3, true, (.range 0 8192), false, false⟩,
  ⟨0x33, 1, 0x48, [], 0, 13, .rw, 0, 3, true, (.range 0 4096), false, false⟩,
  ⟨0x33, 1, 0x4C, [], 0, 24, .ro, 0, 3, false, .any, false, false⟩,
  ⟨0x33, 1, 0x4C, [], 24, 2, .ro, 0, 3, false, .any, false, false⟩,
  ⟨0x33, 1, 0x50, [], 0, 16, .ro, 0, 3, false, .any, false, false⟩,
  ⟨0x33, 1, 0x54, [], 0, 32, .ro, 0, 3, false, .any, false, true⟩,
  ⟨0x33, 1, 0x58, [], 0, 32, .ro, 0, 3, false, .any, false, false⟩,
  ⟨0x33, 1, 0x5C, [], 0, 14, .ro, 0, 3, false, .any, false, false⟩,
  ⟨0x33, 1, 0x60, [], 0, 32, .ro, 0, 3, false, .any, false, true⟩,
  ⟨0x33, 1, 0x64, [], 0, 32, .ro, 0, 3, false, .any, false, true⟩,
  ⟨0x33, 1, 0x68, [], 0, 32, .ro, 0, 3, false, .any, false, true⟩,
  ⟨0x33, 1, 0x6C, [], 0, 32, .ro, 0, 3, false, .any, false, true⟩,
  ⟨0x33, 1, 0x70, [], 0, 32, .ro, 0, 3, false, .any, false, true⟩,
  ⟨0x33, 1, 0x74, [], 0, 32, .ro, 0, 3, false, .any, false, true⟩]

def rowsArb : List FieldRow := [
  ⟨0x28, 1, 0x40, [], 0, 16, .rw, 512, 3, true, .any, false, false⟩,
  ⟨0x28, 1, 0x44, [], 0, 22, .w1c, 0, 7, false, .any, false, false⟩,
  ⟨0x28, 1, 0x48, [], 0, 5, .ro, 0, 7, false, .any, false, false⟩,
  ⟨0x28, 1, 0x48, [], 8, 1, .ro, 0, 7, false, .any, false, false⟩,
  ⟨0x28, 1, 0x4C, [], 0, 16, .ro, 0, 7, false, .any, false, true⟩,
  ⟨0x28, 1, 0x80, [(4, 16)], 0, 4, .rw, 4, 3, true, (.range 1 15), false, false⟩,
  ⟨0x28, 1, 0xC0, [], 0, 4, .rw, 8, 3, true, (.range 1 15), false, false⟩,
  ⟨0x28, 1, 0xC4, [], 0, 4, .rw, 8, 3, true, (.range 1 15), false, false⟩,
  ⟨0x28, 1, 0xC8, [], 0, 4, .rw, 15, 3, true, (.range 1 15), false, false⟩,
  ⟨0x28, 1, 0xCC, [], 0, 4, .rw, 2, 3, true, (.range 1 15), false, false⟩,
  ⟨0x28, 1, 0xD0, [], 0, 4, .rw, 8, 3, true, (.range 1 15), false, false⟩,
  ⟨0x28, 1, 0xD4, [], 0, 4, .rw, 1, 3, true, (.range 1 15), false, false⟩,
  ⟨0x28, 1, 0x80, [(4, 16)], 4, 2, .rw, 2, 3, true, (.notIn [3]), false, false⟩,
  ⟨0x28, 1, 0xC0, [], 4, 2, .rw, 2, 3, true, (.notIn [3]), false, false⟩,
  ⟨0x28, 1, 0xC4, [], 4, 2, .rw, 0, 3, true, (.notIn [3]), false, false⟩,
  ⟨0x28, 1, 0xC8, [], 4, 2, .rw, 1, 3, true, (.notIn [3]), false, false⟩,
  ⟨0x28, 1, 0xCC, [], 4, 2, .rw, 0, 3, true, (.notIn [3]), false, false⟩,
  ⟨0x28, 1, 0xD0, [], 4, 2, .rw, 0, 3, true, (.notIn [3]), false, false⟩,
  ⟨0x28, 1, 0xD4, [], 4, 2, .rw, 0, 3, true, (.notIn [3]), false, false⟩,
  ⟨0x28, 1, 0x100, [(4, 22)], 0, 16, .ro, 0, 7, false, .any, false, false⟩,
  ⟨0x28, 1, 0x100, [(4, 22)], 16, 16, .ro, 0, 7, false, .any, false, true⟩,
  ⟨0x28, 1, 0x180, [(4, 22)], 0, 32, .ro, 0, 7, false, .any, false, true⟩]

def rowsLock : List FieldRow := [
  ⟨0x29, 1, 0x40, [], 0, 1, .rwl, 1, 3, true, .any, false, false⟩,
  ⟨0x29, 1, 0x44, [], 0, 16, .rw, 0, 3, true, .any, false, false⟩,
  ⟨0x29, 1, 0x48, [], 0, 9, .ro, 0, 7, false, .any, false, false⟩,
  ⟨0x29, 1, 0x4C, [], 0, 9, .ro, 0, 7, false, .any, false, true⟩,
  ⟨0x29, 1, 0x50, [], 0, 32, .ro, 0, 7, false, .any, false, true⟩,
  ⟨0x29, 1, 0x54, [], 0, 32, .ro, 0, 7, false, .any, false, true⟩,
  ⟨0x29, 1, 0x58, [], 0, 32, .ro, 0, 7, false, .any, false, true⟩,
  ⟨0x29, 1, 0x5C, [], 0, 32, .ro, 0, 7, false, .any, false, true⟩,
  ⟨0x29, 1, 0x60, [], 0, 32, .ro, 0, 7, false, .any, false, true⟩,
  ⟨0x29, 1, 0x64, [], 0, 32, .ro, 0, 7, false, .any, false, true⟩,
  ⟨0x29, 1, 0x68, [], 0, 32, .ro, 0, 3, false, .any, false, true⟩,
  ⟨0x29, 1, 0x6C, [], 0, 32, .ro, 0, 7, false, .any, false, true⟩,
  ⟨0x29, 1, 0x70, [], 0, 5, .ro, 0, 7, false, .any, false, false⟩,
  ⟨0x29, 1, 0x70, [], 8, 6, .ro, 0, 7, false, .any, false, false⟩,
  ⟨0x29, 1, 0x70, [], 16, 1, .ro, 0, 7, false, .any, false, false⟩,
  ⟨0x29, 1, 0x70, [], 17, 1, .ro, 0, 7, false, .any, false, false⟩,
  ⟨0x29, 1, 0x74, [], 0, 32, .ro, 0, 7, false, .any, false, false⟩,
  ⟨0x29, 1, 0x78, [], 0, 8, .wo, 0, 1, false, .any, false, false⟩,
  ⟨0x29, 1, 0x78, [], 31, 1, .wo, 0, 1, false, .any, false, false⟩,
  ⟨0x29, 1, 0x7C, [], 0, 5, .ro, 0, 7, false, .any, false, false⟩,
  ⟨0x29, 1, 0x100, [(4, 32)], 0, 32, .ro, 0, 7, false, .any, false, false⟩,
  ⟨0x29, 1, 0x400, [(4, 256)], 0, 32, .ro, 0, 7, false, .any, false, false⟩,
  ⟨0x29, 1, 0x800, [(8, 256)], 0, 24, .ro, 0, 7, false, .any, false, false⟩,
  ⟨0x29, 1, 0x800, [(8, 256)], 31, 1, .ro, 0, 7, false, .any, false, false⟩,
  ⟨0x29, 1, 0x804, [(8, 256)], 0, 5, .ro, 0, 7, false, .any, false, false⟩,
  ⟨0x29, 1, 0x804, [(8, 256)], 8, 5, .ro, 0, 7, false, .any, false, false⟩,
  ⟨0x29, 1, 0x804, [(8, 256)], 16, 10, .ro, 0, 7, false, .any, false, false⟩]

def rowsCommit : List FieldRow := [
  ⟨0x70, 1, 0x40, [], 0, 6, .rw, 8, 3, true, (.range 0 32), false, false⟩,
  ⟨0x70, 1, 0x44, [], 0, 9, .rw, 120, 3, true, (.range 120 350), true, false⟩,
  ⟨0x70, 1, 0x48, [], 0, 1, .ro, 0, 7, false, .any, false, false⟩,
  ⟨0x70, 1, 0x48, [], 1, 1, .ro, 0, 7, false, .any, false, false⟩,
  ⟨0x70, 1, 0x48, [], 2, 1, .w1c, 0, 3, false, .any, false, false⟩,
  ⟨0x70, 1, 0x48, [], 8, 6, .ro, 0, 3, false, .any, false, false⟩,
  ⟨0x70, 1, 0x4C, [], 0, 32, .ro, 0, 3, false, .any, false, false⟩,
  ⟨0x70, 1, 0x50, [], 0, 32, .ro, 0, 3, false, .any, false, false⟩,
  ⟨0x70, 1, 0x54, [], 0, 18, .ro, 0, 7, false, .any, false, false⟩,
  ⟨0x70, 1, 0x58, [], 0, 18, .ro, 0, 7, false, .any, false, false⟩,
  ⟨0x70, 1, 0x5C, [], 0, 18, .ro, 0, 7, false, .any, false, false⟩,
  ⟨0x70, 1, 0x60, [], 0, 18, .ro, 0, 7, false, .any, false, false⟩,
  ⟨0x70, 1, 0x64, [], 0, 20, .ro, 0, 7, false, .any, false, false⟩,
  ⟨0x70, 1, 0x68, [], 0, 20, .ro, 0, 7, false, .any, false, false⟩,
  ⟨0x70, 1, 0x6C, [], 0, 20, .ro, 0, 7, false, .any, false, false⟩,
  ⟨0x70, 1, 0x70, [], 0, 20, .ro, 0, 7, false, .any, false, false⟩,
  ⟨0x70, 1, 0x74, [], 0, 18, .ro, 0, 3, false, .any, false, false⟩,
  ⟨0x70, 1, 0x78, [], 0, 18, .ro, 0, 3, false, .any, false, false⟩,
  ⟨0x70, 1, 0x7C, [], 0, 32, .ro, 0, 7, false, .any, false, true⟩,
  ⟨0x70, 1, 0x80, [], 0, 32, .ro, 0, 7, false, .any, false, true⟩,
  ⟨0x70, 1, 0x84, [], 0, 32, .ro, 0, 3, false, .any, false, true⟩,
  ⟨0x70, 1, 0x88, [], 0, 32, .ro, 0, 7, false, .any, false, true⟩,
  ⟨0x70, 1, 0x8C, [], 0, 32, .ro, 0, 3, false, .any, false, true⟩,
  ⟨0x70, 1, 0x90, [], 0, 32, .ro, 0, 3, false, .any, false, true⟩,
  ⟨0x70, 1, 0x100, [(4, 64)], 0, 11, .ro, 0, 3, false, .any, false, false⟩,
  ⟨0x70, 1, 0x100, [(4, 64)], 16, 1, .ro, 0, 3, false, .any, false, false⟩,
  ⟨0x70, 1, 0x100, [(4, 64)], 31, 1, .ro, 0, 3, false, .any, false, false⟩]

def rowsPair : List FieldRow := [
  ⟨0x18, 1, 0x40, [], 0, 1, .rwl, 0, 3, true, .any, false, false⟩,
  ⟨0x18, 1, 0x40, [], 1, 1, .wo, 0, 1, false, .any, false, false⟩,
  ⟨0x18, 1, 0x44, [], 0, 4, .ro, 0, 3, false, .any, false, false⟩,
  ⟨0x18, 1, 0x44, [], 4, 1, .ro, 0, 3, false, .any, false, false⟩,
  ⟨0x18, 1, 0x44, [], 8, 1, .ro, 0, 3, false, .any, false, false⟩,
  ⟨0x18, 1, 0x44, [], 9, 1, .ro, 0, 3, false, .any, false, false⟩,
  ⟨0x18, 1, 0x44, [], 12, 4, .ro, 0, 3, false, .any, false, false⟩,
  ⟨0x18, 1, 0x48, [], 0, 32, .ro, 0, 3, false, .any, false, false⟩,
  ⟨0x18, 1, 0x4C, [], 0, 32, .ro, 0, 3, false, .any, false, false⟩,
  ⟨0x18, 1, 0x50, [], 0, 4, .ro, 0, 3, false, .any, false, false⟩,
  ⟨0x18, 1, 0x50, [], 4, 4, .ro, 0, 3, false, .any, false, false⟩,
  ⟨0x18, 1, 0x50, [], 8, 4, .ro, 0, 3, false, .any, false, false⟩,
  ⟨0x18, 1, 0x50, [], 12, 4, .ro, 0, 3, false, .any, false, false⟩,
  ⟨0x18, 1, 0x50, [], 16, 4, .ro, 0, 3, false, .any, false, false⟩,
  ⟨0x18, 1, 0x54, [], 0, 16, .rw, 500, 3, true, (.range 1 65535), false, false⟩,
  ⟨0x18, 1, 0x58, [], 0, 8, .ro, 0, 3, false, .any, false, false⟩,
  ⟨0x18, 1, 0x5C, [], 0, 32, .ro, 0, 3, false, .any, false, true⟩,
  ⟨0x18, 1, 0x60, [], 0, 32, .ro, 0, 3, false, .any, false, true⟩,
  ⟨0x18, 1, 0x64, [], 0, 32, .ro, 0, 3, false, .any, false, true⟩,
  ⟨0x18, 1, 0x68, [], 0, 32, .ro, 0, 3, false, .any, false, true⟩,
  ⟨0x18, 1, 0x6C, [], 0, 32, .ro, 0, 3, false, .any, false, true⟩,
  ⟨0x18, 1, 0x70, [], 0, 32, .ro, 0, 3, false, .any, false, true⟩,
  ⟨0x18, 1, 0x74, [], 0, 32, .ro, 0, 3, false, .any, false, true⟩,
  ⟨0x18, 1, 0x78, [], 0, 32, .ro, 0, 3, false, .any, false, true⟩,
  ⟨0x18, 1, 0x7C, [], 0, 32, .ro, 0, 3, false, .any, false, true⟩]

def rowsFport : List FieldRow := [
  ⟨0x1C, 4, 0x40, [], 0, 1, .rw, 0, 3, true, .any, false, false⟩,
  ⟨0x1C, 4, 0x40, [], 1, 1, .rw, 0, 3, true, .any, false, false⟩,
  ⟨0x1C, 4, 0x40, [], 2, 1, .wo, 0, 1, false, .any, false, false⟩,
  ⟨0x1C, 4, 0x44, [], 0, 1, .ro, 0, 19, false, .any, false, false⟩,
  ⟨0x1C, 4, 0x44, [], 1, 1, .ro, 0, 19, false, .any, false, false⟩,
  ⟨0x1C, 4, 0x44, [], 4, 2, .ro, 0, 19, false, .any, false, false⟩,
  ⟨0x1C, 4, 0x44, [], 6, 1, .ro, 0, 19, false, .any, false, false⟩,
  ⟨0x1C, 4, 0x44, [], 8, 2, .ro, 0, 19, false, .any, false, false⟩,
  ⟨0x1C, 4, 0x44, [], 10, 1, .ro, 0, 19, false, .any, false, false⟩,
  ⟨0x1C, 4, 0x48, [], 0, 32, .ro, 0, 19, false, .any, false, false⟩,
  ⟨0x1C, 4, 0x4C, [], 0, 32, .ro, 0, 19, false, .any, false, false⟩,
  ⟨0x1C, 4, 0x50, [], 0, 2, .ro, 0, 19, false, .any, false, false⟩,
  ⟨0x1C, 4, 0x54, [], 0, 16, .ro, 0, 19, false, .any, false, false⟩,
  ⟨0x1C, 4, 0x58, [], 0, 32, .ro, 0, 3, false, .any, false, true⟩,
  ⟨0x1C, 4, 0x5C, [], 0, 32, .ro, 0, 3, false, .any, false, true⟩,
  ⟨0x1C, 4, 0x60, [], 0, 32, .ro, 0, 3, false, .any, false, true⟩,
  ⟨0x1C, 4, 0x64, [], 0, 32, .ro, 0, 3, false, .any, false, true⟩,
  ⟨0x1C, 4, 0x68, [], 0, 32, .ro, 0, 3, false, .any, false, true⟩,
  ⟨0x1C, 4, 0x6C, [], 0, 32, .ro, 0, 3, false, .any, false, true⟩,
  ⟨0x1C, 4, 0x70, [], 0, 32, .ro, 0, 3, false, .any, false, true⟩,
  ⟨0x1C, 4, 0x74, [], 0, 8, .ro, 0, 19, false, .any, false, false⟩,
  ⟨0x1C, 4, 0x74, [], 8, 8, .ro, 0, 19, false, .any, false, false⟩]

def rowsFabric : List FieldRow := [
  ⟨0x20, 1, 0x40, [], 0, 1, .rw, 0, 3, true, .any, false, false⟩,
  ⟨0x20, 1, 0x40, [], 1, 1, .rwl, 0, 3, true, .any, false, false⟩,
  ⟨0x20, 1, 0x40, [], 2, 1, .wo, 0, 1, false, .any, false, false⟩,
  ⟨0x20, 1, 0x44, [], 0, 3, .ro, 0, 3, false, .any, false, false⟩,
  ⟨0x20, 1, 0x44, [], 4, 1, .ro, 0, 3, false, .any, false, false⟩,
  ⟨0x20, 1, 0x44, [], 8, 6, .ro, 0, 3, false, .any, false, false⟩,
  ⟨0x20, 1, 0x44, [], 15, 1, .ro, 0, 3, false, .any, false, false⟩,
  ⟨0x20, 1, 0x44, [], 16, 8, .ro, 0, 3, false, .any, false, false⟩,
  ⟨0x20, 1, 0x48, [], 0, 32, .ro, 0, 3, false, .any, false, false⟩,
  ⟨0x20, 1, 0x4C, [], 0, 32, .ro, 0, 3, false, .any, false, false⟩,
  ⟨0x20, 1, 0x50, [], 0, 32, .ro, 0, 3, false, .any, false, false⟩,
  ⟨0x20, 1, 0x54, [], 0, 32, .ro, 0, 3, false, .any, false, false⟩,
  ⟨0x20, 1, 0x58, [], 0, 7, .ro, 0, 3, false, .any, false, false⟩,
  ⟨0x20, 1, 0x58, [], 8, 4, .ro, 0, 3, false, .any, false, false⟩,
  ⟨0x20, 1, 0x58, [], 16, 1, .ro, 0, 3, false, .any, false, false⟩,
  ⟨0x20, 1, 0x58, [], 17, 1, .ro, 0, 3, false, .any, false, false⟩,
  ⟨0x20, 1, 0x58, [], 18, 1, .ro, 0, 3, false, .any, false, false⟩,
  ⟨0x20, 1, 0x58, [], 20, 4, .ro, 0, 3, false, .any, false, false⟩,
  ⟨0x20, 1, 0x5C, [], 0, 32, .ro, 0, 3, false, .any, false, true⟩,
  ⟨0x20, 1, 0x60, [], 0, 32, .ro, 0, 3, false, .any, false, false⟩,
  ⟨0x20, 1, 0x64, [], 0, 10, .rw, 100, 3, true, (.range 1 1000), false, false⟩,
  ⟨0x20, 1, 0x64, [], 12, 8, .rw, 10, 3, true, (.range 1 255), false, false⟩,
  ⟨0x20, 1, 0x68, [], 0, 1, .ro, 0, 3, false, .any, false, false⟩,
  ⟨0x20, 1, 0x68, [], 1, 1, .ro, 0, 3, false, .any, false, false⟩,
  ⟨0x20, 1, 0x68, [], 2, 1, .ro, 0, 3, false, .any, false, false⟩,
  ⟨0x20, 1, 0x68, [], 3, 1, .ro, 0, 3, false, .any, false, false⟩,
  ⟨0x20, 1, 0x68, [], 8, 4, .ro, 0, 3, false, .any, false, false⟩,
  ⟨0x20, 1, 0x6C, [], 0, 32, .ro, 0, 3, false, .any, false, false⟩,
  ⟨0x20, 1, 0x70, [], 0, 16, .ro, 0, 3, false, .any, false, false⟩,
  ⟨0x20, 1, 0x74, [], 0, 32, .ro, 0, 3, false, .any, false, true⟩,
  ⟨0x20, 1, 0x78, [], 0, 32, .ro, 0, 3, false, .any, false, true⟩,
  ⟨0x20, 1, 0x100, [(16, 16)], 0, 32, .rw, 0, 3, true, .any, false, false⟩,
  ⟨0x20, 1, 0x104, [(16, 16)], 0, 32, .rw, 0, 3, true, .any, false, false⟩,
  ⟨0x20, 1, 0x108, [(16, 16)], 0, 6, .rw, 1, 3, true, (.range 1 63), false, false⟩,
  ⟨0x20, 1, 0x108, [(16, 16)], 31, 1, .rw, 0, 3, true, .any, false, false⟩,
  ⟨0x20, 1, 0x200, [(4, 64)], 0, 4, .ro, 15, 3, false, .any, false, false⟩]

def rowsStation : List FieldRow := [
  ⟨0x21, 1, 0x40, [], 0, 1, .rw, 0, 3, true, .any, false, false⟩,
  ⟨0x21, 1, 0x44, [], 0, 24, .rw, 0, 3, true, .any, false, false⟩,
  ⟨0x21, 1, 0x48, [], 0, 1, .w1c, 0, 3, false, .any, false, false⟩,
  ⟨0x21, 1, 0x100, [(64, 48)], 0, 32, .rw, 0, 3, true, .any, false, false⟩,
  ⟨0x21, 1, 0x104, [(64, 48)], 0, 32, .rw, 0, 3, true, .any, false, false⟩,
  ⟨0x21, 1, 0x108, [(64, 48)], 0, 1, .rw, 0, 3, true, .any, false, false⟩,
  ⟨0x21, 1, 0x108, [(64, 48)], 8, 8, .rw, 0, 3, true, (.range 0 240), false, false⟩,
  ⟨0x21, 1, 0x108, [(64, 48)], 16, 8, .rw, 0, 3, true, (.range 0 240), false, false⟩,
  ⟨0x21, 1, 0x108, [(64, 48)], 24, 8, .rw, 1, 3, true, (.range 1 255), false, false⟩,
  ⟨0x21, 1, 0x10C, [(64, 48)], 0, 24, .rw, 0, 3, true, .any, false, false⟩,
  ⟨0x21, 1, 0x110, [(64, 48)], 0, 24, .rw, 0, 3, true, .any, false, false⟩,
  ⟨0x21, 1, 0x114, [(64, 48)], 0, 8, .rw, 0, 3, true, .any, false, false⟩,
  ⟨0x25, 1, 0x100, [(32, 48)], 0, 3, .ro, 0, 3, false, .any, false, false⟩,
  ⟨0x25, 1, 0x100, [(32, 48)], 8, 6, .ro, 0, 3, false, .any, false, false⟩,
  ⟨0x25, 1, 0x100, [(32, 48)], 16, 1, .ro, 0, 3, false, .any, false, false⟩,
  ⟨0x25, 1, 0x100, [(32, 48)], 17, 1, .ro, 0, 3, false, .any, false, false⟩,
  ⟨0x25, 1, 0x104, [(32, 48)], 0, 32, .ro, 0, 3, false, .any, false, false⟩,
  ⟨0x25, 1, 0x108, [(32, 48)], 0, 32, .ro, 0, 3, false, .any, false, false⟩,
  ⟨0x25, 1, 0x10C, [(32, 48)], 0, 8, .ro, 0, 3, false, .any, false, false⟩,
  ⟨0x25, 1, 0x10C, [(32, 48)], 16, 16, .ro, 0, 3, false, .any, false, false⟩,
  ⟨0x25, 1, 0x110, [(32, 48)], 0, 32, .ro, 0, 3, false, .any, false, true⟩,
  ⟨0x25, 1, 0x114, [(32, 48)], 0, 32, .ro, 0, 3, false, .any, false, true⟩,
  ⟨0x25, 1, 0x118, [(32, 48)], 0, 32, .ro, 0, 3, false, .any, false, true⟩,
  ⟨0x22, 3, 0x100, [(4, 960)], 0, 32, .rw, 0, 3, true, .any, false, false⟩]

def rowsMbox : List FieldRow := [
  ⟨0x60, 8, 0x100, [(64, 16)], 0, 1, .rw, 0, 3, true, .any, false, false⟩,
  ⟨0x60, 8, 0x100, [(64, 16)], 1, 1, .rw, 0, 3, true, .any, false, false⟩,
  ⟨0x60, 8, 0x100, [(64, 16)], 2, 1, .rw, 0, 3, true, .any, false, false⟩,
  ⟨0x60, 8, 0x100, [(64, 16)], 3, 1, .rw, 0, 3, true, .any, false, false⟩,
  ⟨0x60, 8, 0x100, [(64, 16)], 4, 1, .rw, 0, 3, true, .any, false, false⟩,
  ⟨0x60, 8, 0x100, [(64, 16)], 5, 1, .rw, 0, 3, true, .any, false, false⟩,
  ⟨0x60, 8, 0x100, [(64, 16)], 6, 1, .rw, 0, 3, true, .any, false, false⟩,
  ⟨0x60, 8, 0x100, [(64, 16)], 7, 1, .rw, 0, 3, true, .any, false, false⟩,
  ⟨0x60, 8, 0x100, [(64, 16)], 8, 5, .rw, 0, 3, true, .any, false, false⟩,
  ⟨0x60, 8, 0x100, [(64, 16)], 16, 5, .rw, 0, 3, true, .any, false, false⟩,
  ⟨0x60, 8, 0x100, [(64, 16)], 24, 6, .rw, 0, 3, true, .any, false, false⟩,
  ⟨0x60, 8, 0x104, [(64, 16)], 0, 32, .rw, 0, 3, true, .any, false, false⟩,
  ⟨0x60, 8, 0x108, [(64, 16)], 0, 6, .rw, 0, 3, true, .any, false, false⟩,
  ⟨0x60, 8, 0x108, [(64, 16)], 8, 8, .rw, 0, 3, true, .any, false, false⟩,
  ⟨0x60, 8, 0x10C, [(64, 16)], 0, 5, .ro, 0, 7, false, .any, false, false⟩,
  ⟨0x60, 8, 0x10C, [(64, 16)], 8, 1, .w1c, 0, 7, false, .any, false, false⟩,
  ⟨0x60, 8, 0x10C, [(64, 16)], 9, 1, .ro, 0, 7, false, .any, false, false⟩,
  ⟨0x60, 8, 0x10C, [(64, 16)], 10, 1, .ro, 0, 7, false, .any, false, false⟩,
  ⟨0x60, 8, 0x110, [(64, 16)], 0, 32, .ro, 0, 3, false, .any, false, true⟩,
  ⟨0x60, 8, 0x114, [(64, 16)], 0, 32, .ro, 0, 3, false, .any, false, true⟩,
  ⟨0x60, 8, 0x118, [(64, 16)], 0, 32, .ro, 0, 3, false, .any, false, true⟩,
  ⟨0x60, 8, 0x11C, [(64, 16)], 0, 32, .ro, 0, 3, false, .any, false, true⟩,
  ⟨0x60, 8, 0x120, [(64, 16)], 0, 32, .rw, 0, 3, false, .any, false, false⟩,
  ⟨0x60, 8, 0x124, [(64, 16)], 0, 32, .rw, 0, 3, false, .any, false, false⟩,
  ⟨0x60, 8, 0x128, [(64, 16)], 0, 32, .rw, 0, 3, false, .any, false, false⟩,
  ⟨0x60, 8, 0x12C, [(64, 16)], 0, 32, .rw, 0, 3, false, .any, false, false⟩,
  ⟨0x60, 8, 0x130, [(64, 16)], 0, 32, .ro, 0, 3, false, .any, false, false⟩,
  ⟨0x60, 8, 0x134, [(64, 16)], 0, 32, .ro, 0, 3, false, .any, false, false⟩,
  ⟨0x60, 8, 0x138, [(64, 16)], 0, 1, .wo, 0, 1, false, .any, false, false⟩,
  ⟨0x60, 8, 0x138, [(64, 16)], 1, 1, .wo, 0, 1, false, .any, false, false⟩,
  ⟨0x60, 8, 0x138, [(64, 16)], 8, 4, .ro, 0, 3, false, .any, false, false⟩,
  ⟨0x60, 8, 0x138, [(64, 16)], 12, 1, .ro, 0, 3, false, .any, false, false⟩,
  ⟨0x60, 8, 0x13C, [(64, 16)], 0, 32, .ro, 0, 3, false, .any, false, true⟩,
  ⟨0x60, 1, 0x40, [], 0, 10, .rw, 100, 3, true, (.range 10 1000), false, false⟩,
  ⟨0x60, 1, 0x40, [], 16, 4, .rw, 8, 3, true, (.range 1 15), false, false⟩]

def rowsCargo : List FieldRow := [
  ⟨0x68, 1, 0x40, [], 0, 1, .rw, 0, 3, true, .any, false, false⟩,
  ⟨0x68, 1, 0x44, [], 0, 13, .ro, 4096, 3, false, .any, false, false⟩,
  ⟨0x68, 1, 0x48, [], 0, 13, .ro, 4096, 3, false, .any, false, true⟩,
  ⟨0x68, 1, 0x4C, [], 0, 32, .ro, 0, 3, false, .any, false, true⟩,
  ⟨0x68, 1, 0x50, [], 0, 32, .ro, 0, 3, false, .any, false, true⟩,
  ⟨0x68, 1, 0x54, [], 0, 32, .ro, 0, 3, false, .any, false, true⟩,
  ⟨0x68, 1, 0x58, [], 0, 32, .ro, 0, 3, false, .any, false, true⟩,
  ⟨0x68, 1, 0x5C, [], 0, 32, .ro, 0, 3, false, .any, false, true⟩,
  ⟨0x68, 1, 0x60, [], 0, 32, .ro, 0, 3, false, .any, false, true⟩,
  ⟨0x68, 1, 0x64, [], 0, 32, .ro, 0, 3, false, .any, false, true⟩,
  ⟨0x68, 1, 0x68, [], 0, 5, .ro, 0, 3, false, .any, false, false⟩,
  ⟨0x68, 1, 0x68, [], 8, 5, .ro, 0, 3, false, .any, false, false⟩,
  ⟨0x68, 1, 0x68, [], 16, 12, .ro, 0, 3, false, .any, false, false⟩,
  ⟨0x68, 1, 0x6C, [], 0, 13, .rw, 0, 3, true, .any, false, false⟩,
  ⟨0x68, 1, 0x70, [], 0, 12, .rw, 0, 3, false, .any, false, false⟩,
  ⟨0x68, 1, 0x74, [], 0, 4, .ro, 0, 3, false, .any, false, false⟩,
  ⟨0x68, 1, 0x74, [], 4, 1, .ro, 0, 3, false, .any, false, false⟩,
  ⟨0x68, 1, 0x74, [], 8, 5, .ro, 0, 3, false, .any, false, false⟩]

def rowsIntagg : List FieldRow := [
  ⟨0x4, 1, 0x40, [], 0, 5, .rw, 0, 3, true, .any, false, false⟩,
  ⟨0x4, 1, 0x40, [], 8, 5, .rw, 0, 3, true, .any, false, false⟩,
  ⟨0x4, 1, 0x40, [], 16, 8, .rw, 0, 3, true, .any, false, false⟩,
  ⟨0x4, 1, 0x44, [], 0, 1, .ro, 0, 3, false, .any, false, false⟩,
  ⟨0x4, 1, 0x44, [], 1, 1, .ro, 0, 3, false, .any, false, false⟩,
  ⟨0x4, 1, 0x48, [], 0, 32, .ro, 0, 3, false, .any, false, true⟩,
  ⟨0x4, 1, 0x60, [(4, 8)], 0, 32, .ro, 0, 3, false, .any, false, false⟩,
  ⟨0x4, 1, 0x100, [(4, 256)], 0, 1, .rw, 0, 3, true, .any, false, false⟩,
  ⟨0x4, 1, 0x100, [(4, 256)], 1, 1, .rw, 0, 3, true, .any, false, false⟩,
  ⟨0x4, 1, 0x100, [(4, 256)], 2, 1, .rw, 0, 3, true, .any, false, false⟩,
  ⟨0x4, 1, 0x100, [(4, 256)], 3, 1, .rw, 0, 3, true, .any, false, false⟩]

def rowsPower : List FieldRow := [
  ⟨0x2, 1, 0x40, [], 0, 2, .rw, 0, 3, false, (.notIn [3]), false, false⟩,
  ⟨0x2, 1, 0x40, [], 4, 1, .rw, 0, 3, true, .any, false, false⟩,
  ⟨0x2, 1, 0x40, [], 8, 1, .wo, 0, 1, false, .any, false, false⟩,
  ⟨0x2, 1, 0x44, [], 0, 2, .ro, 0, 3, false, .any, false, false⟩,
  ⟨0x2, 1, 0x48, [], 0, 9, .rw, 55, 3, true, (.range 55 300), false, false⟩,
  ⟨0x2, 1, 0x48, [], 12, 1, .rw, 0, 3, true, .any, false, false⟩,
  ⟨0x2, 1, 0x48, [], 13, 1, .rw, 0, 3, true, .any, false, false⟩,
  ⟨0x2, 1, 0x4C, [], 0, 10, .ro, 0, 3, false, .any, false, false⟩,
  ⟨0x2, 1, 0x50, [], 12, 18, .rw, 0, 3, true, .any, false, false⟩,
  ⟨0x2, 1, 0x54, [], 0, 5, .rw, 12, 3, true, (.range 12 19), false, false⟩,
  ⟨0x2, 1, 0x54, [], 8, 1, .rw, 0, 3, true, .any, false, false⟩,
  ⟨0x2, 1, 0x54, [], 9, 1, .rw, 0, 3, true, .any, false, false⟩,
  ⟨0x2, 1, 0x58, [], 0, 1, .ro, 0, 3, false, .any, false, false⟩,
  ⟨0x2, 1, 0x58, [], 1, 1, .ro, 0, 3, false, .any, false, false⟩,
  ⟨0x2, 1, 0x58, [], 2, 1, .ro, 0, 3, false, .any, false, false⟩,
  ⟨0x2, 1, 0x58, [], 3, 1, .ro, 0, 3, false, .any, false, false⟩,
  ⟨0x2, 1, 0x5C, [], 0, 32, .ro, 0, 3, false, .any, false, false⟩,
  ⟨0x2, 1, 0x60, [], 0, 32, .ro, 0, 3, false, .any, false, false⟩]

def rowsBoot : List FieldRow := [
  ⟨0x3, 1, 0x40, [], 0, 1, .wo, 0, 1, false, .any, false, false⟩,
  ⟨0x3, 1, 0x44, [], 0, 3, .ro, 0, 3, false, .any, false, false⟩,
  ⟨0x3, 1, 0x44, [], 4, 2, .ro, 0, 3, false, .any, false, false⟩,
  ⟨0x3, 1, 0x44, [], 8, 1, .ro, 0, 3, false, .any, false, false⟩,
  ⟨0x3, 1, 0x44, [], 9, 1, .ro, 0, 3, false, .any, false, false⟩,
  ⟨0x3, 1, 0x44, [], 12, 4, .ro, 0, 3, false, .any, false, false⟩,
  ⟨0x3, 1, 0x48, [], 0, 32, .ro, 0, 3, false, .any, false, false⟩,
  ⟨0x3, 1, 0x4C, [], 0, 24, .rw, 0, 3, false, .any, false, false⟩,
  ⟨0x3, 1, 0x50, [], 0, 32, .rw, 0, 3, false, .any, false, false⟩,
  ⟨0x3, 1, 0x54, [], 0, 2, .wo, 0, 1, false, .any, false, false⟩,
  ⟨0x3, 1, 0x54, [], 31, 1, .wo, 0, 1, false, .any, false, false⟩,
  ⟨0x3, 1, 0x58, [], 0, 1, .ro, 0, 3, false, .any, false, false⟩,
  ⟨0x3, 1, 0x58, [], 1, 1, .w1c, 0, 3, false, .any, false, false⟩,
  ⟨0x3, 1, 0x5C, [], 0, 32, .wo, 0, 1, false, .any, false, false⟩,
  ⟨0x3, 1, 0x60, [], 0, 1, .wo, 0, 1, false, .any, false, false⟩,
  ⟨0x3, 1, 0x60, [], 1, 1, .wo, 0, 1, false, .any, false, false⟩]

def rowsSecure : List FieldRow := [
  ⟨0x7C, 1, 0x40, [], 0, 1, .ro, 0, 3, false, .any, false, false⟩,
  ⟨0x7C, 1, 0x40, [], 1, 1, .ro, 0, 3, false, .any, false, false⟩,
  ⟨0x7C, 1, 0x40, [], 2, 1, .ro, 0, 3, false, .any, false, false⟩,
  ⟨0x7C, 1, 0x44, [], 0, 32, .ro, 0, 3, false, .any, false, false⟩,
  ⟨0x7C, 1, 0x48, [], 0, 32, .rws, 0, 1, false, .any, false, false⟩,
  ⟨0x7C, 1, 0x80, [(4, 8)], 0, 32, .wo, 0, 1, false, .any, false, false⟩,
  ⟨0x7C, 1, 0xA0, [], 0, 1, .wo, 0, 1, false, .any, false, false⟩,
  ⟨0x7C, 1, 0xA0, [], 1, 1, .wo, 0, 1, false, .any, false, false⟩,
  ⟨0x7C, 1, 0xA0, [], 2, 1, .wo, 0, 1, false, .any, false, false⟩,
  ⟨0x7C, 1, 0xA0, [], 8, 1, .ro, 0, 3, false, .any, false, false⟩,
  ⟨0x7C, 1, 0xA0, [], 31, 1, .wo, 0, 1, false, .any, false, false⟩]

def rowsLedger : List FieldRow := [
  ⟨0x78, 1, 0x40, [], 0, 1, .rw, 0, 3, true, .any, false, false⟩,
  ⟨0x78, 1, 0x44, [], 0, 32, .ro, 0, 7, false, .any, false, false⟩,
  ⟨0x78, 1, 0x48, [], 0, 16, .ro, 0, 7, false, .any, false, false⟩,
  ⟨0x78, 1, 0x4C, [], 0, 32, .ro, 0, 7, false, .any, false, false⟩,
  ⟨0x78, 1, 0x80, [(4, 16)], 0, 24, .ro, 0, 7, false, .any, false, false⟩,
  ⟨0x78, 1, 0x80, [(4, 16)], 30, 1, .ro, 0, 7, false, .any, false, false⟩,
  ⟨0x78, 1, 0x80, [(4, 16)], 31, 1, .ro, 0, 7, false, .any, false, false⟩,
  ⟨0x78, 1, 0x100, [(64, 16), (4, 16)], 0, 24, .ro, 0, 7, false, .any, false, false⟩,
  ⟨0x78, 1, 0x100, [(64, 16), (4, 16)], 30, 1, .ro, 0, 7, false, .any, false, false⟩,
  ⟨0x78, 1, 0x100, [(64, 16), (4, 16)], 31, 1, .ro, 0, 7, false, .any, false, false⟩,
  ⟨0x78, 1, 0x500, [(64, 32), (4, 16)], 0, 24, .ro, 0, 15, false, .any, false, false⟩,
  ⟨0x78, 1, 0x500, [(64, 32), (4, 16)], 30, 1, .ro, 0, 15, false, .any, false, false⟩,
  ⟨0x78, 1, 0x500, [(64, 32), (4, 16)], 31, 1, .ro, 0, 15, false, .any, false, false⟩,
  ⟨0x78, 1, 0xC0, [(4, 16)], 0, 24, .rw, 0, 3, true, .any, false, false⟩,
  ⟨0x78, 1, 0xD00, [(8, 8)], 0, 8, .rw, 0, 3, false, (.range 0 11), false, false⟩,
  ⟨0x78, 1, 0xD00, [(8, 8)], 8, 5, .rw, 31, 3, false, (.notIn [22, 23, 24, 25, 26, 27, 28, 29, 30]), false, false⟩,
  ⟨0x78, 1, 0xD00, [(8, 8)], 16, 5, .rw, 0, 3, false, .any, false, false⟩,
  ⟨0x78, 1, 0xD00, [(8, 8)], 21, 1, .rw, 0, 3, false, .any, false, false⟩,
  ⟨0x78, 1, 0xD04, [(8, 8)], 0, 32, .ro, 0, 7, false, .any, false, true⟩]

def rowsEvt : List FieldRow := [
  ⟨0x6C, 1, 0x80, [(4, 16)], 0, 2, .rw, 0, 3, true, (.notIn [3]), false, false⟩,
  ⟨0x6C, 1, 0x80, [(4, 16)], 2, 2, .rw, 0, 3, true, .any, false, false⟩,
  ⟨0x6C, 1, 0x80, [(4, 16)], 4, 2, .rw, 0, 3, true, .any, false, false⟩,
  ⟨0x6C, 1, 0x80, [(4, 16)], 6, 1, .rw, 0, 3, true, .any, false, false⟩,
  ⟨0x6C, 1, 0x80, [(4, 16)], 16, 16, .rw, 1, 3, true, (.range 1 65535), false, false⟩,
  ⟨0x6C, 1, 0x40, [], 0, 1, .rw, 0, 3, true, .any, false, false⟩,
  ⟨0x6C, 1, 0x44, [], 0, 24, .rw, 0, 3, true, .any, false, false⟩,
  ⟨0x6C, 1, 0x48, [], 0, 4, .rw, 2, 3, true, (.range 2 12), false, false⟩,
  ⟨0x6C, 1, 0x4C, [], 0, 12, .ro, 0, 7, false, .any, false, false⟩,
  ⟨0x6C, 1, 0x50, [], 0, 32, .ro, 0, 7, false, .any, false, false⟩,
  ⟨0x6C, 1, 0x54, [], 0, 24, .rw, 0, 3, true, .any, false, false⟩,
  ⟨0x6C, 1, 0x58, [], 0, 1, .w1c, 0, 3, false, .any, false, false⟩,
  ⟨0x6C, 1, 0x5C, [], 0, 32, .ro, 0, 3, false, .any, false, true⟩,
  ⟨0x6C, 1, 0x60, [], 0, 32, .ro, 0, 3, false, .any, false, true⟩,
  ⟨0x6C, 1, 0x64, [], 0, 16, .ro, 0, 3, false, .any, false, false⟩]

def rowsDebug : List FieldRow := [
  ⟨0xF0, 1, 0x40, [], 0, 26, .rw, 0, 3, false, .any, false, false⟩,
  ⟨0xF0, 1, 0x44, [], 0, 2, .wo, 0, 1, false, .any, false, false⟩,
  ⟨0xF0, 1, 0x44, [], 4, 2, .wo, 0, 1, false, .any, false, false⟩,
  ⟨0xF0, 1, 0x44, [], 31, 1, .wo, 0, 1, false, .any, false, false⟩,
  ⟨0xF0, 1, 0x48, [], 0, 1, .ro, 0, 3, false, .any, false, false⟩,
  ⟨0xF0, 1, 0x48, [], 1, 1, .w1c, 0, 3, false, .any, false, false⟩,
  ⟨0xF0, 1, 0x48, [], 2, 1, .ro, 0, 3, false, .any, false, false⟩,
  ⟨0xF0, 1, 0x6C, [], 0, 12, .ro, 0, 3, false, .any, false, false⟩,
  ⟨0xF0, 1, 0x80, [], 0, 1, .rw, 0, 3, false, .any, false, false⟩,
  ⟨0xF0, 1, 0x80, [], 8, 4, .rw, 0, 3, false, .any, false, false⟩,
  ⟨0xF0, 1, 0x84, [], 0, 6, .ro, 0, 3, false, .any, false, false⟩,
  ⟨0xF0, 1, 0x50, [(4, 4)], 0, 32, .ro, 0, 3, false, .any, false, false⟩,
  ⟨0xF0, 1, 0x60, [(4, 2)], 0, 32, .ro, 0, 3, false, .any, false, false⟩,
  ⟨0xF0, 1, 0x68, [], 0, 16, .ro, 0, 3, false, .any, false, false⟩,
  ⟨0xF0, 1, 0x100, [(4, 64)], 0, 16, .ro, 0, 3, false, .any, false, false⟩,
  ⟨0xF0, 1, 0x100, [(4, 64)], 16, 8, .ro, 0, 3, false, .any, false, false⟩,
  ⟨0xF0, 1, 0x100, [(4, 64)], 24, 6, .ro, 0, 3, false, .any, false, false⟩,
  ⟨0xF0, 1, 0x100, [(4, 64)], 30, 1, .ro, 0, 3, false, .any, false, false⟩,
  ⟨0xF0, 1, 0x100, [(4, 64)], 31, 1, .ro, 0, 3, false, .any, false, false⟩]

/-- A register table: its first page, how many pages it spans, and its rows. -/
structure PageTable where
  page : Nat
  npage : Nat
  rows : List FieldRow

/-- Every register table. -/
def pageTables : List PageTable := [
  ⟨0x01, 1, rowsTick⟩,
  ⟨0x38, 1, rowsRegion⟩,
  ⟨0x40, 32, rowsTenant⟩,
  ⟨0x08, 16, rowsAport⟩,
  ⟨0x00, 1, rowsGlobal1⟩,
  ⟨0x00, 1, rowsGlobal2⟩,
  ⟨0x30, 1, rowsDir⟩,
  ⟨0x31, 1, rowsHcache⟩,
  ⟨0x32, 1, rowsMem⟩,
  ⟨0x33, 1, rowsScrub⟩,
  ⟨0x28, 1, rowsArb⟩,
  ⟨0x29, 1, rowsLock⟩,
  ⟨0x70, 1, rowsCommit⟩,
  ⟨0x18, 1, rowsPair⟩,
  ⟨0x1C, 4, rowsFport⟩,
  ⟨0x20, 1, rowsFabric⟩,
  ⟨0x21, 5, rowsStation⟩,
  ⟨0x60, 8, rowsMbox⟩,
  ⟨0x68, 1, rowsCargo⟩,
  ⟨0x04, 1, rowsIntagg⟩,
  ⟨0x02, 1, rowsPower⟩,
  ⟨0x03, 1, rowsBoot⟩,
  ⟨0x7C, 1, rowsSecure⟩,
  ⟨0x78, 1, rowsLedger⟩,
  ⟨0x6C, 1, rowsEvt⟩,
  ⟨0xF0, 1, rowsDebug⟩]

/-- Every field of every register table. -/
def fieldTable : List FieldRow := (pageTables.map fun t => t.rows).flatten

/-- The rows of the tables that span a page. -/
def rowsOfPage (page : Nat) : List FieldRow :=
  ((pageTables.filter fun t => decide (t.page ≤ page ∧ page < t.page + t.npage)).map fun t => t.rows).flatten

/-- The rows of `fieldTable` whose reset value is not 0. -/
def nzRows : List FieldRow := [
  ⟨0x1, 1, 0x44, [], 0, 20, .rw, 2000, 3, true, (.range 2000 1000000), true, false⟩,
  ⟨0x1, 1, 0x54, [], 0, 20, .rw, 120, 3, true, (.range 120 100000), true, false⟩,
  ⟨0x1, 1, 0x60, [], 0, 20, .rw, 100, 3, true, (.range 100 100000), true, false⟩,
  ⟨0x40, 1, 0x40, [], 1, 1, .rwl, 1, 3, false, .any, true, false⟩,
  ⟨0x40, 32, 0x60, [], 0, 4, .rw, 4, 3, true, (.range 1 15), false, false⟩,
  ⟨0x40, 32, 0x64, [], 0, 9, .rw, 256, 3, true, (.range 0 256), false, false⟩,
  ⟨0x40, 32, 0x8C, [], 0, 13, .rw, 4096, 3, true, (.range 0 4096), false, false⟩,
  ⟨0x8, 16, 0x20C, [(16, 16)], 4, 5, .rw, 12, 3, true, .any, false, false⟩,
  ⟨0x8, 16, 0x4C, [], 0, 10, .rw, 200, 3, true, (.range 50 800), false, false⟩,
  ⟨0x8, 16, 0x50, [], 0, 10, .rw, 150, 3, true, (.range 25 800), false, false⟩,
  ⟨0x0, 1, 0x90, [], 0, 6, .rw, 50, 3, true, (.range 10 50), false, false⟩,
  ⟨0x30, 1, 0x40, [], 8, 4, .rwl, 12, 3, true, (.range 1 15), true, false⟩,
  ⟨0x30, 1, 0x44, [], 0, 16, .rwl, 0xACE1, 3, true, (.notIn [0]), false, false⟩,
  ⟨0x30, 1, 0x48, [], 0, 16, .ro, 0xACE1, 7, false, .any, false, false⟩,
  ⟨0x28, 1, 0x40, [], 0, 16, .rw, 512, 3, true, .any, false, false⟩,
  ⟨0x28, 1, 0x80, [(4, 16)], 0, 4, .rw, 4, 3, true, (.range 1 15), false, false⟩,
  ⟨0x28, 1, 0xC0, [], 0, 4, .rw, 8, 3, true, (.range 1 15), false, false⟩,
  ⟨0x28, 1, 0xC4, [], 0, 4, .rw, 8, 3, true, (.range 1 15), false, false⟩,
  ⟨0x28, 1, 0xC8, [], 0, 4, .rw, 15, 3, true, (.range 1 15), false, false⟩,
  ⟨0x28, 1, 0xCC, [], 0, 4, .rw, 2, 3, true, (.range 1 15), false, false⟩,
  ⟨0x28, 1, 0xD0, [], 0, 4, .rw, 8, 3, true, (.range 1 15), false, false⟩,
  ⟨0x28, 1, 0xD4, [], 0, 4, .rw, 1, 3, true, (.range 1 15), false, false⟩,
  ⟨0x28, 1, 0x80, [(4, 16)], 4, 2, .rw, 2, 3, true, (.notIn [3]), false, false⟩,
  ⟨0x28, 1, 0xC0, [], 4, 2, .rw, 2, 3, true, (.notIn [3]), false, false⟩,
  ⟨0x28, 1, 0xC8, [], 4, 2, .rw, 1, 3, true, (.notIn [3]), false, false⟩,
  ⟨0x29, 1, 0x40, [], 0, 1, .rwl, 1, 3, true, .any, false, false⟩,
  ⟨0x70, 1, 0x40, [], 0, 6, .rw, 8, 3, true, (.range 0 32), false, false⟩,
  ⟨0x70, 1, 0x44, [], 0, 9, .rw, 120, 3, true, (.range 120 350), true, false⟩,
  ⟨0x18, 1, 0x54, [], 0, 16, .rw, 500, 3, true, (.range 1 65535), false, false⟩,
  ⟨0x20, 1, 0x64, [], 0, 10, .rw, 100, 3, true, (.range 1 1000), false, false⟩,
  ⟨0x20, 1, 0x64, [], 12, 8, .rw, 10, 3, true, (.range 1 255), false, false⟩,
  ⟨0x20, 1, 0x108, [(16, 16)], 0, 6, .rw, 1, 3, true, (.range 1 63), false, false⟩,
  ⟨0x20, 1, 0x200, [(4, 64)], 0, 4, .ro, 15, 3, false, .any, false, false⟩,
  ⟨0x21, 1, 0x108, [(64, 48)], 24, 8, .rw, 1, 3, true, (.range 1 255), false, false⟩,
  ⟨0x60, 1, 0x40, [], 0, 10, .rw, 100, 3, true, (.range 10 1000), false, false⟩,
  ⟨0x60, 1, 0x40, [], 16, 4, .rw, 8, 3, true, (.range 1 15), false, false⟩,
  ⟨0x68, 1, 0x44, [], 0, 13, .ro, 4096, 3, false, .any, false, false⟩,
  ⟨0x68, 1, 0x48, [], 0, 13, .ro, 4096, 3, false, .any, false, true⟩,
  ⟨0x2, 1, 0x48, [], 0, 9, .rw, 55, 3, true, (.range 55 300), false, false⟩,
  ⟨0x2, 1, 0x54, [], 0, 5, .rw, 12, 3, true, (.range 12 19), false, false⟩,
  ⟨0x78, 1, 0xD00, [(8, 8)], 8, 5, .rw, 31, 3, false, (.notIn [22, 23, 24, 25, 26, 27, 28, 29, 30]), false, false⟩,
  ⟨0x6C, 1, 0x80, [(4, 16)], 16, 16, .rw, 1, 3, true, (.range 1 65535), false, false⟩,
  ⟨0x6C, 1, 0x48, [], 0, 4, .rw, 2, 3, true, (.range 2 12), false, false⟩]

end Sys2Proof.Machine
end

