-- ==== Sys2Proof/Machine/State.lean ====
section
/-! DEFINITION. The state of one KX2 hub: every register, buffer, queue and mode the spec gives it, as plain data, with
the queue of the commands that wait. -/

namespace Sys2Proof.Machine

/-- The block stops with no fault: the spec gives every command an effect. The one constructor is never raised; it is
there so that the type is a closed inductive. Safe. -/
inductive Fault where
  | none
  deriving DecidableEq, Repr

/-- Refusals. `notModelled`: raised by an arm of `exec` whose command has no meaning yet; safe. -/
inductive Refusal where
  | notModelled (mnemonic : String)
  deriving DecidableEq, Repr

/-! ### What the hub sends -/

/-- A message to an agent (04 R161, 05 R212): opcode, TAG or SNOOP_ID, tenant, agent ID, agent address, the
message-specific bits 63:24 (for SNP messages bits 23:14) and 127:112, and the data flits. -/
structure Msg where
  op : Nat
  tag : Nat
  tenant : Nat
  agent : Nat
  aa : Nat
  spec : Nat
  hi : Nat
  data : LineData
  deriving DecidableEq, Repr

/-- A flit on an agent lane or the pair link: FT, VC, SEQ, POISON, LAST and the 128 payload bits (04 R158). -/
structure Flit where
  ft : Nat
  vc : Nat
  seq : Nat
  poison : Bool
  last : Bool
  payload : Nat
  deriving DecidableEq, Repr

/-- What crosses the pair link to the partner (12): forwarded requests and their answers, snoops and their responses,
the records and markers of DOM, configuration accesses. -/
inductive PairMsg where
  | request (op : Nat) (agent tag tenant ha : Nat) (spec : Nat) (data : LineData)
  | answer (agent : Nat) (m : Msg)
  | edata (agent tag line : Nat) (data : LineData)
  | verdict (agent tag line : Nat) (confirm : Bool) (reason : Nat)
  | snoop (agent : Nat) (kind : SnpKind) (ha : Nat) (noData : Bool)
  | response (agent : Nat) (op : Nat) (ha : Nat) (data : LineData)
  | tickMark (k num : Nat)
  | flipMark (k num : Nat) (release : Bool)
  | decision (release : Bool) (d : Nat)
  | bound (release : Bool) (b : Nat)
  | ready (release : Bool)
  | mirror (ca : Nat) (v : Word)
  | mirrorAck
  | echo (n : Nat)
  | echoRsp (n : Nat)
  | join
  | joined
  | holdReason (agent tag reason : Nat)
  | abandon (agent tag : Nat)
  | removed (agent tag : Nat)
  | ended (agent tag : Nat)
  | mantisEdge (add : Bool) (waiter holder : Nat) (tag : Nat) (lk : Bool) (tick off : Nat) (line : Nat)
  | mantisBreak (victim tag line : Nat)
  | deadAgent (a : Nat)
  | deadClear (ids : Nat)
  | halt (cause : Nat)
  | dreset
  | dresetDone
  | doorbell (t bit : Nat)
  | refused (agent tag opcode : Nat)
  | msgOp (agent tag tenant epoch : Nat) (op : Nat) (spec : Nat) (data : LineData)
  | cfgRead (path : Nat) (ca n : Nat)
  | cfgWrite (path : Nat) (ca : Nat) (v : Word)
  | cfgAnswer (path : Nat) (refused : Bool) (words : List Word)
  | engineWrite (ha : Nat) (be : Nat) (data : LineData)
  | engineRead (ha : Nat)
  | engineAnswer (q : Nat) (data : LineData)
  deriving DecidableEq, Repr

/-- A control flit that the hub sends on a link (04 R170, R173). -/
inductive Ctl where
  | status (ack : Nat) (freed : List Nat)
  | nak (ack : Nat) (freed : List Nat)
  | ts1 (state : Nat)
  | ts2 (payload : Nat)
  | retrain
  | skip
  deriving DecidableEq, Repr

/-- One thing the hub has sent or driven. On the pair link a message carries the SEQ of its first flit, 0 in a control flit; `config` is
the auto-negotiation of a fabric port (13 R558). -/
inductive Out where
  | flit (p : Nat) (f : Flit)
  | ctl (lk : LinkSel) (c : Ctl)
  | pair (seq : Nat) (m : PairMsg)
  | frame (p : Nat) (f : Frame)
  | config (p : Nat)
  | pin (n : Nat) (level : Option Bool)
  | nirq (low : Bool)
  | alert (low : Bool)
  | alertAddr (addr : Nat)
  | word (path : Nat) (v : Word)
  | spi (b : List Nat)
  | i2c (b : List Nat)
  | jtag (b : List Bool)
  | lands (b : List (Option Bool))
  deriving DecidableEq, Repr

/-! ### Requests and flows -/

/-- Who presents a request to the home arbiter: a local port, the partner on behalf of an agent, or an engine by its
requester number (10 R433), or the partner on behalf of its engine with that number. -/
inductive ReqSrc where
  | port (p : Nat) | pair (agent : Nat) | eng (q : Nat) | pairEng (q : Nat)
  deriving DecidableEq, Repr

/-- What a request does. The last six are the hub's own: a write or read of an engine is `wrFull`, `wrPartial` or
`rdOnce` with an engine as its source. -/
inductive ReqOp where
  | rdS | rdU | upg | rdOnce | evClean | lkRd | ulWr | wrBack | wrFull | wrPartial
  | fetchAdd | swap | cmpSwap
  | commitInv | preInv | preCarry | backInv | repair | retire
  deriving DecidableEq, Repr

/-- A request. `flag` is EXCL_OK, FROM, NEED_DATA or WR (05 R212); `word` the word of the line (R213); `stamp` the
tick and offset of its grant (10 R458), `granted` its instant; `fwd` says whether its agent may be made forwarder (05 R232);
`gone` marks a request whose agent no longer takes an answer (04 R201), `void` one that ended in HOLD_LIMIT and has no effect on
the line (06 R283). -/
structure Req where
  id : Nat
  src : ReqSrc
  op : ReqOp
  tag : Nat
  tenant : Nat
  agent : Nat
  aa : Nat
  line : Line
  word : Nat
  flag : Bool
  be : Nat
  data : LineData
  arrived : Nat
  granted : Nat
  stampTick : Nat
  stampOff : Nat
  rounds : Nat
  starved : Bool
  fwd : Bool
  gone : Bool
  void : Bool
  deriving DecidableEq, Repr

/-- The stable directory states of 05 R222. -/
inductive DState where
  | untracked
  | shared (v : BitVec 32)
  | owned (o : Nat)
  | forwarder (f : Nat) (v : BitVec 32)
  deriving DecidableEq, Repr

/-- The Busy states of 05 R222. -/
inductive Busy where | read | own | wb | lock | commit
  deriving DecidableEq, Repr

/-- Where a flow stands: waiting for a way (08 R353), waiting for the victim's entry (07 R306), snoops sent, holding
a lock, a repair flow whose snoops are not out (08 R365), waiting for an eviction-buffer entry (07 R312). -/
inductive Phase where | alloc | victim | snoop | locked | search | evict
  deriving DecidableEq, Repr

/-- A running flow: the request at the head of its line. `before` is the state read at the grant after R228, `orig`
the state read; `pend` the agents still to answer; `wbp` the agents whose WrBack is still to come after RspIWbp;
`kept` the agents that answered RspS, RspSWb or RspFwd to a sharing snoop; `got` the data a snoop returned. -/
structure Flow where
  req : Req
  line : Line
  busy : Busy
  phase : Phase
  way : Option Nat
  orig : DState
  before : DState
  pend : List Nat
  wbp : List Nat
  kept : List Nat
  got : Option LineData
  relayed : Bool
  hit : Bool
  conv : Bool
  tentative : Option LineData
  answered : Bool
  deriving DecidableEq, Repr

/-- A snoop outstanding at a port (04 R164, R194): its kind, line, the instant the running deadline counts from and its length, whether
the re-snoop was sent, whether RspIWbp came, whether it came from the partner, the set of a SnpFlushSet. -/
structure Snoop where
  kind : SnpKind
  line : Line
  noData : Bool
  sent : Nat
  dl : Nat
  first : Nat
  resnooped : Bool
  wbp : Bool
  remote : Bool
  set : Nat
  deriving DecidableEq, Repr

/-- A tag outstanding at a port (04 R163): the opcode class of the ledger (02 R65), tenant, line and arrival, the
HOLDs sent and the next due instant (R188), the request's number, whether EDATA was sent, the forwarded home's last
reported reason (12 R541). -/
structure TagSt where
  cls : Nat
  op : Nat
  tenant : Nat
  line : Line
  aa : Nat
  ha : Nat
  arrived : Nat
  holds : Nat
  due : Nat
  req : Nat
  remote : Bool
  reason : Nat
  flag : Bool
  deriving DecidableEq, Repr

/-- An early-data tracker entry (07 R318-R321): whether the first data flit of EDATA has left and when, the WAIT in force at its
sending (R337), the held tentative line, whether ECANX TIMEOUT was sent, the completion opcode a late confirm sends. `withheld`
marks tentative data of the partner that waits for its verdict here without an entry, its EDATA not sent (R315). -/
structure Tracker where
  port : Nat
  tag : Nat
  sent : Bool
  start : Nat
  wait : Nat
  line : LineData
  timedOut : Bool
  cmp : Nat
  withheld : Bool
  deriving DecidableEq, Repr

/-! ### Links -/

/-- The link layer of an agent port (04): sent and received sequence numbers, the replay buffer, acknowledgement and
credit counters per channel (REQ, SNP, RSP, DAT, CMP, MSG), the NAK and training counters, timers, the flits since the last SKIP unit
(R154). `part` counts the flits of a data message that are accepted before the whole message is in (R182); `phase` is what the hub
sends in RETRAIN (R173: TS1 0, TS2 1, STATUS 2), on the pair link the state of 12 R525 that a retrain stands in. -/
structure Link where
  nextSeq : Nat
  lastAcc : Nat
  replay : List Flit
  lastAck : Nat
  ackAt : Nat
  goodAt : Nat
  credits : KV Nat
  peerFreed : KV Nat
  rxCount : KV Nat
  rxReported : KV Nat
  rejecting : Bool
  nakAt : Nat
  peerNaks : Nat
  peerNakSeq : Nat
  sentStatusAt : Nat
  sinceSkip : Nat
  tsCount : Nat
  tsCaps : Option Ts2
  since : Nat
  failed : Bool
  part : Nat
  phase : Nat
  deriving DecidableEq, Repr

def Link.empty : Link :=
  { nextSeq := 0, lastAcc := 255, replay := [], lastAck := 255, ackAt := 0, goodAt := 0, credits := [], peerFreed := [],
    rxCount := [], rxReported := [], rejecting := false, nakAt := 0, peerNaks := 0, peerNakSeq := 0, sentStatusAt := 0,
    sinceSkip := 0, tsCount := 0, tsCaps := none, since := 0, failed := false, part := 0, phase := 0 }

/-- An agent port: its link layer, messages waiting for credit, tags and snoops outstanding, snoops that wait for a
free SNOOP_ID (R164), the SNOOP_IDs issued since training (R197), tenant selection of R440
(tenant and offers used), the RSP_DL and AGENT_ID in force since training, the instant a retrain pause began, the lines homed on the partner that the
agent holds locked (05 R221). -/
structure Port where
  link : Link
  txq : List Msg
  tags : KV (Option TagSt)
  snoops : KV (Option Snoop)
  snpWait : List Snoop
  issued : KV Bool
  selTenant : Nat
  selUsed : Nat
  rspDl : Nat
  heldDown : Bool
  pausedAt : Nat
  creditPinned : Nat
  farLocks : List Line
  deriving DecidableEq, Repr

def Port.empty : Port :=
  { link := Link.empty, txq := [], tags := [], snoops := [], snpWait := [], issued := [], selTenant := 0, selUsed := 0, rspDl := 0,
    heldDown := false, pausedAt := 0, creditPinned := 0, farLocks := [] }

/-! ### Home state -/

/-- A home-cache slot (09 R407): the tag word (TAG 7:0, V 8, D0 9, D1 10, P 11) and 64 stored bytes. -/
structure Slot where
  tagw : BitVec 12
  data : List (BitVec 13)
  deriving DecidableEq, Repr

def Slot.invalid : Slot := ⟨0, []⟩

/-- An eviction-buffer entry (09 R391): SA line number, 64 stored bytes, WRITING with its start, made by the flush. -/
structure EbEntry where
  loc : Nat
  data : List (BitVec 13)
  writing : Option Nat
  flush : Bool
  deriving DecidableEq, Repr

/-- A snoop-filter entry as stored (08 R343). -/
structure DirEntry where
  tag : BitVec 9
  tpar : Bool
  body : BitVec 48
  chk : BitVec 30
  deriving DecidableEq, Repr

/-- A SnpFlushSet recovery (08 R366-R372): the set, the damaged way, the flushed agents, those still to answer, whether
the snoops are sent, whether a dead agent may have held the line in M, whether the loss was counted, the source
of the set read that found the fault (R378). -/
structure Recovery where
  set : Nat
  way : Nat
  agents : List Nat
  pend : List Nat
  sent : Bool
  owner : Option Nat
  anyOwner : Bool
  lost : Bool
  src : Nat
  deriving DecidableEq, Repr

/-- A running flush of the home cache (09 R389): next slot, slots passed over. -/
structure FlushSt where
  next : Nat
  skipped : List Nat
  deriving DecidableEq, Repr

/-- A syndrome search that runs (09 R410, R412). -/
structure SearchSt where
  index : Nat
  start : Nat
  deriving DecidableEq, Repr

/-! ### Arbitration and locks -/

/-- The home arbiter (10 R435-R443): requests waiting in arrival order, the pointer and the grants used at it, core
cycles since the round ended, whether a rotation is complete, the requester in Ibex hold and its rounds, the requester that
holds the grant with the REQ word in force for it since it took it (R439), the requesters
whose CUR was found above THR (R443). -/
structure Arb where
  waiting : List Req
  ptr : Nat
  used : Nat
  cycles : Nat
  rotated : Bool
  hold : Option Nat
  holdRounds : Nat
  holder : Option Nat
  req : Word
  starving : List Nat
  deriving DecidableEq, Repr

/-- A registry entry (10 R447). -/
structure Lock where
  line : Line
  holder : Nat
  tenant : Nat
  tick : Nat
  long : Bool
  deriving DecidableEq, Repr

/-- A wait edge of the Mantis graph (10 R454) with the request that forms it. -/
structure Wait where
  waiter : Nat
  holder : Nat
  line : Line
  tag : Nat
  lk : Bool
  tick : Nat
  off : Nat
  remote : Bool
  deriving DecidableEq, Repr

/-! ### Tick, events, images -/

/-- The tick generator (02): running, started (R878), offset, length of the running tick, the period and phase values
in force, the stretch of this tick, what has happened in it: an overrun detected, the checks, the release, its flip and
its frames, the slice, the cut-off, an edge without a marker (12 R538). Commits stopped by FAULT or a halt, and resuming
at the next edge. -/
structure Tick where
  running : Bool
  started : Bool
  offset : Nat
  len : Nat
  base : Nat
  period : Nat
  precommit : Nat
  budget : Nat
  release : Nat
  hkStart : Nat
  hkLen : Nat
  cutoff : Nat
  stretch : Nat
  overrun : Bool
  budgetDone : Bool
  relDone : Bool
  relFlipped : Bool
  relSent : Bool
  hkDone : Bool
  cutDone : Bool
  noMark : Bool
  stopped : Bool
  resumeAtEdge : Bool
  deriving DecidableEq, Repr

def Tick.empty : Tick :=
  { running := false, started := false, offset := 0, len := 0, base := 0, period := 0, precommit := 0, budget := 0, release := 0,
    hkStart := 0, hkLen := 0, cutoff := 0, stretch := 0, overrun := false, budgetDone := false, relDone := false,
    relFlipped := false, relSent := false, hkDone := false, cutDone := false, noMark := false, stopped := false,
    resumeAtEdge := false }

/-- A queued capture (02 R78). -/
structure Capture where
  tick : Nat
  off : Nat
  pin : Nat
  rising : Bool
  seq : Nat
  deriving DecidableEq, Repr

/-- The event unit (02): capture FIFO, LOST to be set in the next record, the schedule in force and the one released
for the next tick, entries applied in this tick, ends of running pulses, the level each output drives, whether a
schedule took effect since RUN, whether captures are stopped until the next edge (R96), instants of recent writes. -/
structure Evt where
  fifo : List Capture
  lost : Bool
  sched : List (Option (BitVec 32))
  nextSched : Option (List (Option (BitVec 32)))
  loadDue : Bool
  applied : Nat
  pulses : KV Nat
  drive : KV (Option Bool)
  took : Bool
  stopped : Bool
  wroteAt : Nat
  wroteN : Nat
  deriving DecidableEq, Repr

/-- A region descriptor (03 R116). -/
structure Desc where
  valid : Bool
  base : Nat
  size : Nat
  policy : Nat
  owner : Nat
  scrub : Nat
  fvDir : Bool
  carry : Bool
  dropout : Nat
  rd : Nat
  wr : Nat
  cache : Nat
  deriving DecidableEq, Repr

def Desc.invalid : Desc := ⟨false, 0, 0, 0, 0, 0, false, false, 0, 0, 0, 0⟩

/-- A commit or release window (11 R489, R497): regions it covers, when it opened and the request number then, lines still to invalidate, lines to carry, whether
ready was reported, whether it flipped. -/
structure Window where
  regions : List Nat
  openAt : Nat
  openId : Nat
  inv : List Line
  carry : List Line
  ready : Bool
  partnerReady : Bool
  flipped : Bool
  deriving DecidableEq, Repr

/-- Frame-versioned state (11): NV and DIFF bits per line, lines that pre-commit has visited in this tick and those it
has invalidated, the open windows, regions whose DIFF bits start at 1 (R512), the start of the microsecond in which
pre-carry counts its copies and their number, both hubs' bounds, regions that take part from the next edge (R125). -/
structure Fv where
  nv : KV Bool
  diff : KV Bool
  visited : List Line
  preInv : List Line
  commit : Option Window
  release : Option Window
  carryAt : Nat
  carryN : Nat
  partnerBound : Option Nat
  partnerRelBound : Option Nat
  joinsNext : List Nat
  diffAll : List Nat
  pendImage : Bool
  deriving DecidableEq, Repr

def Fv.empty : Fv := ⟨[], [], [], [], none, none, 0, 0, none, none, [], [], false⟩

/-- The Weevil (09 R415-R421): the revisit list, LINES and HC_LINES in force, the steps of the last slice, the tick of
the running pass's first step, whether a slice runs, whether its work was cut short. -/
structure Weevil where
  revisit : List Nat
  linesInForce : Nat
  hcInForce : Nat
  done : Nat
  passStart : Option Nat
  inSlice : Bool
  cut : Bool
  deriving DecidableEq, Repr

/-- The reclaim sweep (15 R684, R685): next set, sets left since the last declaration, agents that it sweeps, sets
passed over. -/
structure Sweep where
  next : Nat
  left : Nat
  ids : BitVec 32
  passed : List Nat
  deriving DecidableEq, Repr

/-! ### Pair (12) -/

/-- A message of the pair link that is not yet acknowledged: the SEQ after its last flit, and its flits. -/
structure PairSent where
  last : Nat
  flits : Nat
  msg : PairMsg
  deriving DecidableEq, Repr

/-- The pair link and the pair (12): the link layer, messages that wait for credit and those that wait for
acknowledgement, round trips measured in DELAY, a RUN held until the join (R530), the instant the image was loaded,
whether JOIN_TMO was raised, the registers whose mirror records are not acknowledged (R533), whether the join has been
started. -/
structure PairSt where
  link : Link
  txq : List PairMsg
  sent : List PairSent
  echoes : List Nat
  runHeld : Bool
  loadedAt : Option Nat
  joinTmo : Bool
  mirrorQ : List Nat
  joining : Bool
  acked : List (Nat × Nat)
  deriving DecidableEq, Repr

def PairSt.empty : PairSt := ⟨Link.empty, [], [], [], false, none, false, [], false, []⟩

/-! ### Fabric, stations (13) -/

/-- A fabric port (13): what its neighbour's last HELLO named (candidate, DIST; BUF stands in FPORT.CREDIT), the instant of the last
good frame, counts of buffers freed and as last sent, the neighbour's counts, instants of the last CREDIT and HELLO, echo
state, frames that wait. -/
structure FPort where
  heard : Bool
  cand : Nat
  dist : Nat
  goodAt : Nat
  freed0 : Nat
  freed1 : Nat
  sent0 : Nat
  sent1 : Nat
  peer0 : Nat
  peer1 : Nat
  creditAt : Nat
  helloAt : Nat
  echoNo : Nat
  echoLeft : Nat
  echoTick : Nat
  delays : List Nat
  txq : List Frame
  deriving DecidableEq, Repr

def FPort.empty : FPort := ⟨false, 0, 255, 0, 0, 0, 0, 0, 0, 0, 0, 0, 0, 0, 0, [], []⟩

/-- A link in a LINKS report: up, standby, neighbour UID and port, delay. -/
structure LinkRec where
  up : Bool
  standby : Bool
  uid : Nat
  port : Nat
  delay : Nat
  deriving DecidableEq, Repr

/-- A LINKS report (13 R571): UID, previous node ID, four ports. -/
structure LinksRec where
  uid : Nat
  prev : Option Nat
  ports : List LinkRec
  deriving DecidableEq, Repr

/-- Discovery and Firefly (13): candidate UID, DIST and parent port with the instant of their last change, the instant
the state was entered, LINKS collected, ROUTE frames forwarded, UIDs that owe a ROUTE_ACK, the node IDs of UIDs in the routing
generation in force and in the next one, SEQ counters, the SYNC
ports and DATELINE mask of the routing table in force, the accumulator A, runs of accepted SYNCs within and beyond
LOCK_UNITS and of ticks in holdover, whether this tick took a SYNC, a SYNC STRETCH for a tick that has not begun here. -/
structure Fabric where
  cand : Nat
  dist : Nat
  parent : Nat
  stableAt : Nat
  stateAt : Nat
  links : List LinksRec
  seen : List (Nat × Nat)
  owed : List Nat
  nodes : List (Nat × Nat)
  nodesNext : List (Nat × Nat)
  seq : KV Nat
  syncUp : Nat
  syncDown : Nat
  dateline : Nat
  acc : Int
  okRun : Nat
  badRun : Nat
  holdRun : Nat
  accepted : Bool
  early : Option (Nat × Nat)
  deriving DecidableEq, Repr

def Fabric.empty : Fabric := ⟨0, 255, 15, 0, 0, [], [], [], [], [], [], 15, 0, 0, 0, 0, 0, 0, false, none⟩

/-- A station entry (13): whether its frame of this tick was written, or discarded as late, whether MISS_CNT counted the
tick at the cut-off; BINDs sent, the last one's
instant, whether BIND_ACK is awaited. -/
structure Stn where
  got : Bool
  late : Bool
  missed : Bool
  sends : Nat
  bindAt : Nat
  waiting : Bool
  deriving DecidableEq, Repr

def Stn.empty : Stn := ⟨false, false, false, 0, 0, false⟩

/-! ### Mailboxes, cargo (14) -/

/-- A mailbox slot (14 R630): message with its POISON, stamp, whether the parity of the slot fails (15 R697). -/
structure MSlot where
  msg : Quad
  stamp : BitVec 64
  bad : Bool
  deriving DecidableEq, Repr

/-- A mailbox (14 R630, R648): its queue, oldest first; for an outbound one whether its oldest message is in flight, with
its SEQ, sends and last send. -/
structure Mbox where
  q : List MSlot
  inFlight : Bool
  seq : Nat
  sends : Nat
  sentAt : Nat
  deriving DecidableEq, Repr

def Mbox.empty : Mbox := ⟨[], false, 0, 0, 0⟩

/-- The cargo pool (14 R653, R654): generations, owners of the allocated buffers, and the FIFO of free buffers: the
indices from `fresh` on, never yet taken, then `freed`. -/
structure Cargo where
  gens : KV (BitVec 4)
  owner : KV (Option Nat)
  fresh : Nat
  freed : List Nat
  deriving DecidableEq, Repr

def Cargo.empty : Cargo := ⟨[], [], 0, []⟩

/-! ### Boot, power, service ports -/

/-- The service ports (17 R777-R784): partner writes outstanding on SPI, whether a reserved SPI command holds the output
at 0xFF, the running I²C write (address and data bytes), a peek that runs (KIND, WORD, ADDR; 18 R815). -/
structure Svc where
  posted : Nat
  spiRefused : Bool
  driveFF : Bool
  i2c : Option (Nat × List Byte)
  peek : Option (Nat × Nat × Nat)
  deriving DecidableEq, Repr

/-- The JTAG port (19 R849): the instruction in force, the boundary register, the bypass bit. -/
structure Jtag where
  ir : Nat
  cells : BitVec 71
  bypass : Bool
  deriving DecidableEq, Repr

/-- OTP (16 R741). -/
structure Otp where
  key : List Byte
  keyValid : Bool
  authReq : Bool
  lock : Bool
  uid : BitVec 64
  deriving DecidableEq, Repr

/-- The lands the hub samples (12 R514, 16 R729, 19 R834) with their levels, whether TEST is high (R833) and whether the
reference has stopped (R854). -/
structure Pins where
  pairRole : Bool
  bootSel : Nat
  saddr : Nat
  test : Bool
  refStopped : Bool
  deriving DecidableEq, Repr

/-- A flash operation that runs (16 R734): read, program or erase at an address. -/
structure FlashOp where
  op : Nat
  addr : Nat
  deriving DecidableEq, Repr

/-- Power and retain (16 R720, R744-R757): the cause that the running start-up shows at its end, whether a retain save
runs, the threshold latched at the trigger, HOLD, off after over-temperature, held in reset, whether a STANDBY exit
runs, the retain buffer that is being erased, the buffer ARMED names, the tick of the trigger. -/
structure Power where
  cause : Nat
  save : Bool
  latched : Nat
  hold : Bool
  otOff : Bool
  held : Bool
  exiting : Bool
  eraseBuf : Option Nat
  armedBuf : Nat
  trigTick : Nat
  deriving DecidableEq, Repr

/-- The latch of R12 and the held lower words of R13, of one path. -/
structure PathSt where
  latch : KV Word
  held : KV Word
  deriving DecidableEq, Repr

/-- The state of one hub. -/
structure State where
  now : Nat
  regs : KV Word
  imgRegs : KV Word
  wins : KV (Nat × Nat)
  paths : KV PathSt
  snaps : KV Word
  pins : Pins
  otp : Otp
  keyProg : KV Word
  flash : List Host.Cell
  pageBuf : List Host.Cell
  flashOp : Option FlashOp
  loadBuf : List Byte
  mem : List Host.Cell
  memChk : KV (BitVec 5)
  memFold : List Nat
  slots : KV Slot
  hflush : Option FlushSt
  search : Option SearchSt
  ebuf : List EbEntry
  dir : KV DirEntry
  inject : List (Nat × Nat)
  recov : Option Recovery
  recovWait : List Recovery
  flows : List Flow
  chain : List Req
  trackers : List Tracker
  arb : Arb
  locks : KV (Option Lock)
  waits : List Wait
  evq : List Wait
  breaks : List Wait
  ports : KV Port
  tick : Tick
  live : KV Word
  evt : Evt
  active : KV Desc
  applied : KV Desc
  pendSet : Option (KV Desc)
  retiring : List Nat
  fv : Fv
  weevil : Weevil
  sweep : Option Sweep
  kept : List Flow
  haltAt : Nat
  partnerDead : Nat
  dreset : Bool
  power : Power
  nextId : Nat
  pair : PairSt
  fports : KV FPort
  fabric : Fabric
  stns : KV Stn
  qualOk : Bool
  mboxes : KV Mbox
  mbxLast : KV (Option (Nat × Nat))
  cargo : Cargo
  svc : Svc
  jtag : Jtag
  nirqLow : Bool
  alertLow : Bool
  alertAcked : Bool
  outs : List Out
  intQ : List Nat
  free : Nat
  pending : List Instr
  deriving DecidableEq, Repr

def Otp.factory : Otp := ⟨List.replicate 32 0, false, false, false, 0⟩

/-- The machine right after reset: the start of the cold reset sequence of R726, stage POWER, every field at its reset
value (image fields at their image defaults, R730, R737), nothing listed in any store, no command waiting. Levels of
lands (log 4), OTP (log 5), flash (log 6) and the model's own fields (logs 1, 2, 3) are DESIGN CHOICE. -/
def State.reset : State :=
  { now := 0, regs := [], imgRegs := [], wins := [], paths := [], snaps := [],
    pins := ⟨false, 0, 0, false, false⟩,
    otp := Otp.factory, keyProg := [], flash := [], pageBuf := [], flashOp := none, loadBuf := [],
    mem := [], memChk := [], memFold := [], slots := [], hflush := none, search := none, ebuf := [],
    dir := [], inject := [], recov := none, recovWait := [], flows := [], chain := [], trackers := [],
    arb := ⟨[], 0, 0, 0, false, none, 0, none, 0, []⟩, locks := [], waits := [], evq := [], breaks := [], ports := [],
    tick := Tick.empty, live := [], evt := ⟨[], false, [], none, false, 0, [], [], false, false, 0, 0⟩,
    active := [], applied := [], pendSet := none, retiring := [], fv := Fv.empty,
    weevil := ⟨[], 0, 0, 0, none, false, false⟩, sweep := none, kept := [], haltAt := 0, partnerDead := 0, dreset := false,
    power := ⟨1, false, 55, false, false, false, false, none, 0, 0⟩,
    nextId := 0, pair := PairSt.empty, fports := [], fabric := Fabric.empty, stns := [], qualOk := false,
    mboxes := [], mbxLast := [], cargo := Cargo.empty, svc := ⟨0, false, false, none, none⟩, jtag := ⟨15, 0, false⟩,
    nirqLow := false, alertLow := false, alertAcked := false, outs := [], intQ := [], free := 0, pending := [] }

end Sys2Proof.Machine
end

