-- ==== Sys2Proof/Machine/Ops.lean ====
section
/-! DEFINITION. The named operations over registers and state that every meaning is built from: fields, counters, interrupts,
error capture (15 R700), the loss log (15 R687), the latency ledger (02 R61-R67), addresses, windows and regions (03). -/

namespace Sys2Proof.Machine

/-- A meaning in the making: it reads and changes the state. -/
abbrev M (α : Type) := StateM State α

/-! ### Registers -/

/-- Does the row describe a field of the register at (page, off)? -/
def FieldRow.hit (r : FieldRow) (page off : Nat) : Bool :=
  decide (r.page ≤ page) && decide (page < r.page + r.npage) && decide (r.off ≤ off) &&
  match r.dims with
  | [] => off == r.off
  | [(s, n)] => (off - r.off) % s == 0 && decide ((off - r.off) / s < n)
  | [(s, n), (s', n')] =>
    decide ((off - r.off) / s < n) && (off - r.off) % s % s' == 0 && decide ((off - r.off) % s / s' < n')
  | _ => false

/-- What an unlisted register word reads as: its reset value (image fields: image default; R10, R737). -/
def regDflt (key : Nat) : Word :=
  BitVec.ofNat 32 (nzRows.foldl (fun a r => if r.hit (key / 4096) (key % 4096) then a + r.dflt * 2 ^ r.lo else a) 0)

def getReg (regs : KV Word) (key : Nat) : Word := kvGet regDflt regs key

def setReg (regs : KV Word) (key : Nat) (v : Word) : KV Word := kvSet regDflt regs key v

/-- The value of a field in a word. -/
def fieldOf (w : Word) (lo width : Nat) : Nat := w.toNat / 2 ^ lo % 2 ^ width

/-- A word with one field replaced. -/
def withField (w : Word) (lo width v : Nat) : Word :=
  BitVec.ofNat 32 (w.toNat - fieldOf w lo width * 2 ^ lo + (v % 2 ^ width) * 2 ^ lo)

def getF (s : State) (f : Fld) : Nat := fieldOf (getReg s.regs f.key) f.lo f.w

def setF (s : State) (f : Fld) (v : Nat) : State :=
  { s with regs := setReg s.regs f.key (withField (getReg s.regs f.key) f.lo f.w v) }

def rdF (f : Fld) : M Nat := fun s => (getF s f, s)

def rdB (f : Fld) : M Bool := fun s => (getF s f != 0, s)

def wrF (f : Fld) (v : Nat) : M Unit := fun s => ((), setF s f v)

/-- Add to a counter, which saturates at its greatest value. -/
def addF (f : Fld) (n : Nat) : M Unit := fun s => ((), setF s f (min (getF s f + n) (2 ^ f.w - 1)))

def incF (f : Fld) : M Unit := addF f 1

/-- Raise a high-water field. -/
def maxF (f : Fld) (v : Nat) : M Unit := fun s => ((), if getF s f < v then setF s f v else s)

def rdReg (page off : Nat) : M Word := fun s => (getReg s.regs (regKey page off), s)

def wrReg (page off : Nat) (v : Word) : M Unit := fun s => ((), { s with regs := setReg s.regs (regKey page off) v })

/-- Run an action when the condition holds. -/
def onlyIf (c : Bool) (m : M Unit) : M Unit := if c then m else pure ()

/-- Run an action for each element, in order. -/
def each {α : Type} : List α → (α → M Unit) → M Unit
  | [], _ => pure ()
  | a :: t, f => do f a; each t f

/-- A value the spec leaves open (log 3). -/
def drawBool : M Bool := fun s => (Config.freeBool s.free, { s with free := s.free + 1 })

def drawWord : M Word := fun s => (Config.freeWord s.free, { s with free := s.free + 1 })

/-! ### Pages -/

def pgGlobal : Nat := 0x00
def pgTick : Nat := 0x01
def pgPower : Nat := 0x02
def pgBoot : Nat := 0x03
def pgIntagg : Nat := 0x04
def pgAport (p : Nat) : Nat := 0x08 + p
def pgPair : Nat := 0x18
def pgFport (p : Nat) : Nat := 0x1C + p
def pgFabric : Nat := 0x20
def pgStation : Nat := 0x21
def pgArb : Nat := 0x28
def pgLock : Nat := 0x29
def pgDir : Nat := 0x30
def pgHcache : Nat := 0x31
def pgMem : Nat := 0x32
def pgScrub : Nat := 0x33
def pgRegion : Nat := 0x38
def pgTenant (t : Nat) : Nat := 0x40 + t
def pgMbox (m : Nat) : Nat := 0x60 + m
def pgCargo : Nat := 0x68
def pgEvt : Nat := 0x6C
def pgCommit : Nat := 0x70
def pgLedger : Nat := 0x78
def pgSecure : Nat := 0x7C
def pgDebug : Nat := 0xF0

/-- The header registers of a page (17 R786). -/
def offIrqRaw : Nat := 0x010
def offIrqEn : Nat := 0x014
def offIrqStat : Nat := 0x018

/-- PAGE_CTL.FREEZE and PAGE_CTL.LOCK are kept in the stored PAGE_CTL word, bits 1 and 2 (17 R789, R790). -/
def pageFreeze (page : Nat) : Fld := ⟨page, 0x004, 1, 1⟩
def pageLock (page : Nat) : Fld := ⟨page, 0x004, 2, 1⟩

/-- ERR_CAP0.CODE, VALID and COUNT (15 R700). -/
def capCode (page : Nat) : Fld := ⟨page, 0x020, 0, 8⟩
def capValid (page : Nat) : Fld := ⟨page, 0x020, 8, 1⟩
def capCount (page : Nat) : Fld := ⟨page, 0x020, 16, 16⟩

/-! ### Time -/

def tickNum (s : State) : Nat := getF s R.TICK_NUM_NUM

/-- Serial comparison of n-bit values (00 R874): is `b` later than `a`? -/
def later (n b a : Nat) : Bool :=
  let d := (b % 2 ^ n + 2 ^ n - a % 2 ^ n) % 2 ^ n
  (decide (0 < d) && decide (d < 2 ^ (n - 1))) || (d == 2 ^ (n - 1) && decide (a % 2 ^ n < b % 2 ^ n))

/-- 10 ns units to nanoseconds. -/
def ns10 (n : Nat) : Nat := 10 * n

/-! ### Interrupts (17 R791, 15 R703) -/

def isPending (s : State) (page : Nat) : Bool :=
  (getReg s.regs (regKey page offIrqStat) &&& getReg s.regs (regKey page offIrqEn)) != 0

/-- INTAGG.ROUTEp bits NIRQ, ALERT, DB, MBX (15 R704). -/
def routeBit (s : State) (page bit : Nat) : Bool := (getReg s.regs (regKey pgIntagg (0x100 + 4 * page))).getLsbD bit

/-- The pages of the map that can raise interrupts (17 R794). -/
def irqPages : List Nat :=
  [0x00, 0x01, 0x02, 0x03] ++ List.range' 0x08 17 ++ List.range' 0x1C 6 ++ [0x28, 0x29, 0x30, 0x31, 0x32, 0x33, 0x38] ++
  List.range' 0x40 41 ++ [0x6C, 0x70, 0x78, 0x7C, 0xF0]

/-- An event of bit `bit` of a page (17 R791): sets IRQ_RAW, and IRQ_STAT when enabled; a page that becomes pending
joins `intQ` for the deliveries of 15 R704. -/
def raise (page bit : Nat) : M Unit := fun s =>
  let raw := getReg s.regs (regKey page offIrqRaw) ||| BitVec.ofNat 32 (2 ^ bit)
  let regs1 := setReg s.regs (regKey page offIrqRaw) raw
  let en := (getReg s.regs (regKey page offIrqEn)).getLsbD bit
  let st := getReg regs1 (regKey page offIrqStat) ||| BitVec.ofNat 32 (2 ^ bit)
  let s2 := { s with regs := if en then setReg regs1 (regKey page offIrqStat) st else regs1 }
  ((), if !isPending s page && isPending s2 page then { s2 with intQ := s2.intQ ++ [page] } else s2)

/-- Capture an error of a page (15 R700). -/
def errCap (page code c1 c2 : Nat) : M Unit := do
  if ← rdB (capValid page) then
    incF (capCount page)
  else
    wrF (capCode page) code
    wrF (capValid page) 1
    wrF (capCount page) 1
    wrReg page 0x024 (BitVec.ofNat 32 c1)
    wrReg page 0x028 (BitVec.ofNat 32 c2)
    let n ← rdF R.TICK_NUM_NUM
    wrReg page 0x02C (BitVec.ofNat 32 n)

/-- Capture an error whose ERR_CAP1 or ERR_CAP2 the spec gives only in part: the bits of the masks `u1` and `u2` are free
values (log 15). -/
def errCapOpen (page code c1 u1 c2 u2 : Nat) : M Unit := do
  let a ← drawWord
  let b ← drawWord
  errCap page code (Nat.lor c1 (Nat.land a.toNat u1)) (Nat.lor c2 (Nat.land b.toNat u2))

/-- Capture an error for which the spec gives no ERR_CAP1 and ERR_CAP2 (log 15). -/
def errCapFree (page code : Nat) : M Unit := errCapOpen page code 0 (2 ^ 32 - 1) 0 (2 ^ 32 - 1)

/-- Capture an error for which the spec gives ERR_CAP1 and no ERR_CAP2 (log 15). -/
def errCap1 (page code c1 : Nat) : M Unit := errCapOpen page code c1 0 0 (2 ^ 32 - 1)

/-! ### Identity and addresses (03, 12) -/

def isHub1 (s : State) : Bool := getF s R.PAIR_STAT_ROLE == 1

def hubNo (s : State) : Nat := getF s R.PAIR_STAT_ROLE

/-- Pair operation is configured (12): the address map and the limits are those of a pair. -/
def pairOn (s : State) : Bool := getF s R.PAIR_CTL_EN == 1

def isJoined (s : State) : Bool := getF s R.PAIR_STAT_JOINED == 1

def isLost (s : State) : Bool := getF s R.PAIR_STAT_LOST == 1

/-- The hub is joined with its partner and the link is not lost. -/
def hasPartner (s : State) : Bool := isJoined s && !isLost s

/-- The pair master, or the single hub of an unpaired domain. -/
def isMaster (s : State) : Bool := !isHub1 s

/-- Hub 1 of a pair, whose mirrored fields follow the master (12 R532). -/
def isMirror (s : State) : Bool := pairOn s && isHub1 s

/-- The agent ID of a local port (04 R180). -/
def agentOf (s : State) (p : Nat) : Nat := p + 16 * hubNo s

/-- The local port of an agent, if it is on this hub. -/
def portOfAgent (s : State) (a : Nat) : Option Nat := if a / 16 == hubNo s then some (a % 16) else none

def ilv (s : State) : Nat := getF s R.REGION_HA_MAP_ILV

/-- The hub that homes an HA (R102). -/
def homeOf (s : State) (ha : Nat) : Nat :=
  if pairOn s then (if ilv s = 0 then ha / 64 % 2 else ha / 4096 % 2) else hubNo s

def isHome (s : State) (ha : Nat) : Bool := homeOf s ha == hubNo s

/-- The local address of an HA (R103). -/
def laOf (s : State) (ha : Nat) : Nat :=
  if pairOn s then
    (if ilv s = 0 then ha / 128 % 2 ^ 22 * 64 + ha % 64 else ha / 8192 % 2 ^ 16 * 4096 + ha % 4096)
  else ha % 2 ^ 28

/-- The HA that this hub stores at a local address (R103, inverted). -/
def haOfLa (s : State) (la : Nat) : Nat :=
  if pairOn s then
    (if ilv s = 0 then la / 64 * 128 + hubNo s * 64 + la % 64 else la / 4096 * 8192 + hubNo s * 4096 + la % 4096)
  else la

/-- Size of the backed HA space (R101). -/
def backedHa (s : State) : Nat := if pairOn s then 0x20000000 else 0x10000000

/-- Start of the cargo area in the HA space (R105). -/
def cargoHa (s : State) : Nat := if pairOn s then 0x1FE00000 else 0x0FF00000

/-! ### Windows (03 R108-R113) -/

def winEn (s : State) (p k : Nat) : Bool := getF s (R.APORT_WIN_CTL_EN p k) == 1

def winSize (s : State) (p k : Nat) : Nat := 2 ^ getF s (R.APORT_WIN_CTL_SIZE_LOG2 p k)

/-- The bases that WINk.AA_BASE and WINk.HA_BASE hold. -/
def baseAa (s : State) (p k : Nat) : Nat :=
  getF s (R.APORT_WIN_AA_BASE_LO_A31_12 p k) * 4096 + getF s (R.APORT_WIN_AA_BASE_HI_A47_32 p k) * 2 ^ 32

def baseHa (s : State) (p k : Nat) : Nat := getF s (R.APORT_WIN_HA_BASE_HA4K p k) * 4096

/-- The bases of window k as they stood when its CTL was last written, at which a window takes effect (03 R111). -/
def winAa (s : State) (p k : Nat) : Nat := (kvGet (fun _ => ((0 : Nat), (0 : Nat))) s.wins (16 * p + k)).1

def winHa (s : State) (p k : Nat) : Nat := (kvGet (fun _ => ((0 : Nat), (0 : Nat))) s.wins (16 * p + k)).2

/-- WINk.CTL is written: the window takes the bases (03 R111). -/
def latchWindow (p k : Nat) : M Unit := modify fun s =>
  { s with wins := kvSet (fun _ => ((0 : Nat), (0 : Nat))) s.wins (16 * p + k) (baseAa s p k, baseHa s p k) }

/-- R108: the HA of an agent address, through the first enabled window that matches. -/
def transAa (s : State) (p aa : Nat) : Option Nat :=
  ((List.range 16).find? fun k => winEn s p k && decide (winAa s p k ≤ aa) && decide (aa < winAa s p k + winSize s p k)).map
    fun k => winHa s p k + (aa - winAa s p k)

/-- R113: the agent address of an HA, through the one enabled window whose HA range contains it. -/
def transHa (s : State) (p ha : Nat) : Option Nat :=
  ((List.range 16).find? fun k => winEn s p k && decide (winHa s p k ≤ ha) && decide (ha < winHa s p k + winSize s p k)).map
    fun k => winAa s p k + (ha - winHa s p k)

/-! ### Regions (03 R115-R117) -/

def descOf (d : KV Desc) (r : Nat) : Desc := kvGet (fun _ => Desc.invalid) d r

def Desc.holds (d : Desc) (ha : Nat) : Bool := d.valid && decide (d.base ≤ ha) && decide (ha < d.base + 2 ^ d.size)

/-- The valid region that holds an HA. -/
def regionAt (s : State) (ha : Nat) : Option Nat := (List.range 64).find? fun r => (descOf s.active r).holds ha

def isFv (d : Desc) : Bool := d.valid && d.policy == 4

/-- The FV region that holds a line. -/
def fvRegion (s : State) (line : Line) : Option Nat :=
  match regionAt s (line * 64) with
  | some r => if isFv (descOf s.active r) then some r else none
  | none => none

/-- The policy an access to a line meets; lines outside every region are handled as WB (09 R387). -/
def policyOf (s : State) (line : Line) : Nat :=
  match regionAt s (line * 64) with | some r => (descOf s.active r).policy | none => 0

/-! ### Outputs -/

def emit (o : Out) : M Unit := fun s => ((), { s with outs := s.outs ++ [o] })

def portOf (s : State) (p : Nat) : Port := kvGet (fun _ => Port.empty) s.ports p

def setPort (p : Nat) (f : Port → Port) : M Unit := fun s =>
  ((), { s with ports := kvSet (fun _ => Port.empty) s.ports p (f (portOf s p)) })

def setPair (f : PairSt → PairSt) : M Unit := fun s => ((), { s with pair := f s.pair })

def linkOf (s : State) : LinkSel → Link
  | .aport p => (portOf s p.val).link
  | .pair => s.pair.link

def setLink (lk : LinkSel) (f : Link → Link) : M Unit :=
  match lk with
  | .aport p => setPort p.val fun pt => { pt with link := f pt.link }
  | .pair => setPair fun ps => { ps with link := f ps.link }

/-- Flits in order on a link, `n` flits after its last SKIP unit: a SKIP unit goes ahead of a flit that would be the 1,025th (04
R154, 12 R520). The second component counts the flits since the last SKIP unit. `w` is the number of flits of an output. -/
def spaced (lk : LinkSel) (w : Out → Nat) : Nat → List Out → List Out × Nat
  | n, [] => ([], n)
  | n, o :: t =>
    let skip := decide (1024 < n + w o)
    let r := spaced lk w (if skip then w o else n + w o) t
    (if skip then .ctl lk .skip :: o :: r.1 else o :: r.1, r.2)

/-- The pair-link channel of a message (12 R521): REQ 0, SNP 1, RSP 2, DAT 3, CMP 4, MSG 5, ENG 6, DOM 7. -/
def pairChan : PairMsg → Nat
  | .request _ _ _ _ _ _ d => if d.isEmpty then 0 else 3
  | .answer _ m => if 0x48 ≤ m.op ∧ m.op ≤ 0x4B then 5 else if m.data.isEmpty then 4 else 3
  | .edata _ _ _ _ => 3
  | .verdict _ _ _ _ _ => 4
  | .refused _ _ _ => 4
  | .snoop _ _ _ _ => 1
  | .response _ _ _ d => if d.isEmpty then 2 else 3
  | .doorbell _ _ => 5
  | .msgOp _ _ _ _ _ _ _ => 5
  | .cfgRead _ _ _ => 5
  | .cfgWrite _ _ _ => 5
  | .cfgAnswer _ _ _ => 5
  | .engineWrite _ _ _ => 6
  | .engineRead _ => 6
  | .engineAnswer _ d => if d.isEmpty then 4 else 3
  | _ => 7

/-- Data flits of a message, which use DAT credits (R165, R623). -/
def pairData : PairMsg → Nat
  | .request _ _ _ _ _ _ d => d.length
  | .answer _ m => m.data.length
  | .edata _ _ _ d => d.length
  | .response _ _ _ d => d.length
  | .msgOp _ _ _ _ _ _ d => d.length
  | .engineWrite _ _ d => d.length
  | .engineAnswer _ d => d.length
  | .cfgWrite _ _ _ => 1
  | .cfgAnswer _ _ ws => if ws.isEmpty then 0 else 1
  | _ => 0

/-- The flits of an output on a link. -/
def outFlits : Out → Nat
  | .pair _ m => 1 + pairData m
  | _ => 1

/-- Send outputs on a link in order, with the SKIP units that are due between them. -/
def sendFlits (lk : LinkSel) (os : List Out) : M Unit := do
  let r := spaced lk outFlits (linkOf (← get) lk).sinceSkip os
  modify fun s => { s with outs := s.outs ++ r.1 }
  setLink lk fun l => { l with sinceSkip := r.2 }

def creditOf (l : Link) (c : Nat) : Nat := kvGet (fun _ => 0) l.credits c

/-- Take one credit of a channel. -/
def useCredit (l : Link) (c n : Nat) : Link := { l with credits := kvSet (fun _ => 0) l.credits c (creditOf l c - n) }

def pairLstate (s : State) : Nat := getF s R.PAIR_STAT_LSTATE

/-- May a message leave on the pair link: ACTIVE, credits, at most 128 flits unacknowledged (R523). -/
def pairCanSend (s : State) (m : PairMsg) : Bool :=
  let need := fun c => (if pairChan m = c then 1 else 0) + (if c = 3 then pairData m else 0)
  pairLstate s == 6 && decide (need (pairChan m) ≤ creditOf s.pair.link (pairChan m)) &&
    decide (need 3 ≤ creditOf s.pair.link 3) &&
    decide ((s.pair.sent.map (·.flits)).sum + 1 + pairData m ≤ 128)

/-- The agent and line of a completion, a verdict or a snoop that goes to an agent of the partner: what 06 R264 orders. -/
def pairLine : PairMsg → Option (Nat × Nat)
  | .answer a m => some (a, m.aa / 64)
  | .edata a _ line _ => some (a, line)
  | .verdict a _ line _ _ => some (a, line)
  | .snoop a _ ha _ => some (a, ha / 64)
  | _ => none

/-- Does an earlier message that waits hold this one back: one of its channel, or one for its line to the same agent (06 R264)? -/
def pairHeld (kept : List PairMsg) (m : PairMsg) : Bool :=
  kept.any fun k => pairChan k == pairChan m || ((pairLine k).isSome && pairLine k == pairLine m)

/-- Walk the messages that wait for the pair link. -/
def pumpPairList : List PairMsg → List PairMsg → M Unit
  | [], _ => pure ()
  | m :: t, blocked => do
    let s ← get
    if !pairHeld blocked m && pairCanSend s m then
      let n := 1 + pairData m
      let l := s.pair.link
      let last := (l.nextSeq + n - 1) % 256
      setPair fun ps => { ps with
        sent := ps.sent ++ [⟨last, n, m⟩],
        link := { useCredit (useCredit l (pairChan m) 1) 3 (pairData m) with
          nextSeq := (l.nextSeq + n) % 256, ackAt := if ps.sent.isEmpty then s.now else l.ackAt } }
      sendFlits .pair [.pair l.nextSeq m]
      pumpPairList t blocked
    else
      setPair fun ps => { ps with txq := ps.txq ++ [m] }
      pumpPairList t (m :: blocked)

def pumpPair : M Unit := do
  let q := (← get).pair.txq
  setPair fun ps => { ps with txq := [] }
  pumpPairList q []

/-- Queue a message for the pair link and send what may be sent. -/
def sendPair (m : PairMsg) : M Unit := do
  setPair fun ps => { ps with txq := ps.txq ++ [m] }
  pumpPair

/-- Send a control flit of R524 to the partner: at once while the pair link is in ACTIVE, with no SEQ and no credit; at no other time
is there a flit slot for it. -/
def sendMarks (ms : List PairMsg) : M Unit := do
  let s ← get
  onlyIf (hasPartner s && pairLstate s == 6) (sendFlits .pair (ms.map (.pair 0)))

/-- Send to the partner while the hub is joined with it; else the message has no one to go to. -/
def toPartner (m : PairMsg) : M Unit := do
  if hasPartner (← get) then sendPair m

/-! ### Ports -/

def tagOf (pt : Port) (t : Nat) : Option TagSt := kvGet (fun _ => none) pt.tags t

def snoopOf (pt : Port) (i : Nat) : Option Snoop := kvGet (fun _ => none) pt.snoops i

def setTag (p t : Nat) (v : Option TagSt) : M Unit :=
  setPort p fun pt => { pt with tags := kvSet (fun _ => none) pt.tags t v }

def setSnoop (p i : Nat) (v : Option Snoop) : M Unit :=
  setPort p fun pt => { pt with snoops := kvSet (fun _ => none) pt.snoops i v }

/-- APORTn.STAT.LSTATE (04 R173): 0 DOWN, 1 ALIGN, 2 CAP, 3 CREDIT, 4 ACTIVE, 5 RETRAIN, 6 PROTO_ERR. -/
def lstate (s : State) (p : Nat) : Nat := getF s (R.APORT_STAT_LSTATE p)

/-- A port in ACTIVE, RETRAIN or PROTO_ERR. -/
def portUp (s : State) (p : Nat) : Bool := decide (4 ≤ lstate s p ∧ lstate s p ≤ 6)

/-- A port that sends protocol flits now. -/
def portSends (s : State) (p : Nat) : Bool := lstate s p == 4 || lstate s p == 6

/-! ### The latency ledger (02 R61-R67) -/

/-- Raise a live cell, named by its offset on the LEDGER page (R67, R73). -/
def liveCell (off ns : Nat) : M Unit := fun s =>
  let w := kvGet (fun _ => (0 : Word)) s.live off
  let worst := max (fieldOf w 0 24) (min ns 0xFFFFFF)
  ((), { s with live := kvSet (fun _ => (0 : Word)) s.live off (BitVec.ofNat 32 (worst + 2 ^ 30)) })

/-- Record one measurement: hub-wide, port and, but for class 14 (R66), tenant cell. -/
def measure (cls p t ns : Nat) : M Unit := do
  if ← rdB R.LEDGER_CTL_EN then
    liveCell (0x080 + 4 * cls) ns
    liveCell (0x100 + 0x40 * p + 4 * cls) ns
    if cls != 14 then liveCell (0x500 + 0x40 * t + 4 * cls) ns

/-! ### Performance counters (18 R807-R810) -/

/-- `n` events of the counters: `src` and `ten` are given where the table of R807 lets them apply (R808). -/
def perfN (ev : Nat) (src ten : Option Nat) (n : Nat) : M Unit :=
  each (List.range 8) fun k => do
    let e ← rdF (R.LEDGER_PERF_SEL_EVENT k)
    let sr ← rdF (R.LEDGER_PERF_SEL_SRC k)
    let t ← rdF (R.LEDGER_PERF_SEL_TEN k)
    let te ← rdF (R.LEDGER_PERF_SEL_TEN_EN k)
    onlyIf (e == ev && (match src with | none => true | some q => sr == 31 || sr == q) &&
        (match ten with | none => true | some x => te == 0 || t == x))
      (addF (R.LEDGER_PERF_CNT_CNT k) n)

def perf (ev : Nat) (src ten : Option Nat) : M Unit := perfN ev src ten 1

/-! ### The requester inputs of the hub's engines (10 R433) -/

/-- Requester numbers of R433. -/
def qCommit : Nat := 18
def qMbox : Nat := 19
def qStation : Nat := 20
def qWeevil : Nat := 21

/-! ### The pointer of the home arbiter (10 R435-R439) -/

/-- Does the requester carry the requests of an agent that holds a lock registered here (R438)? -/
def carriesHolder (s : State) (q : Nat) : Bool :=
  s.locks.any fun e => match e.2 with
    | some l => if q < 16 then l.holder == agentOf s q else q == 16 && l.holder / 16 != hubNo s
    | none => false

/-- The REQ word that governs a requester: the one it took the grant under while it holds the grant, else the register (R439). -/
def reqWord (s : State) (q : Nat) : Word :=
  if s.arb.holder == some q then s.arb.req else getReg s.regs (R.ARB_REQ_WEIGHT q).key

def reqWeight (s : State) (q : Nat) : Nat := fieldOf (reqWord s q) (R.ARB_REQ_WEIGHT q).lo (R.ARB_REQ_WEIGHT q).w

def reqMode (s : State) (q : Nat) : Nat := fieldOf (reqWord s q) (R.ARB_REQ_MODE q).lo (R.ARB_REQ_MODE q).w

/-- Does the requester keep a grant in Ibex hold (R437, R438)? -/
def ibex (s : State) (q : Nat) : Bool := reqMode s q == 1 || (reqMode s q == 2 && carriesHolder s q)

/-- The requester that holds the grant no longer does: its Ibex hold ends (R437). -/
def dropHold : M Unit := do
  modify fun s => { s with arb := { s.arb with hold := none, holdRounds := 0, holder := none } }
  wrF R.ARB_HOLD_ACTIVE 0

/-- Move the pointer to the requester that is granted, and count the grant at it. -/
def movePointer (q : Nat) : M Unit := do
  let s ← get
  let w := reqWord s q
  let hold := ibex s q
  let stays := s.arb.holder == some q
  modify fun s => { s with arb := { s.arb with
    rotated := s.arb.rotated || (q != s.arb.ptr && decide (q < s.arb.ptr)),
    used := if stays then (if hold then s.arb.used else min (s.arb.used + 1) 15) else 1,
    ptr := q,
    hold := if hold then some q else none,
    holdRounds := if hold && s.arb.hold == some q then s.arb.holdRounds else 0,
    holder := some q, req := w } }
  wrF R.ARB_HOLD_ACTIVE hold.toNat
  if hold then wrF R.ARB_HOLD_OWNER q

/-- A grant to a requester for a tenant: the pointer, GRANT_CNT and WAIT.CUR (R435, R442). -/
def countGrant (q t : Nat) : M Unit := do
  movePointer q
  incF (R.ARB_GRANT_CNT_CNT q)
  wrF (R.ARB_WAIT_CUR q) 0
  modify fun s => { s with arb := { s.arb with starving := s.arb.starving.filter (· != q) } }
  perf 1 (some q) (some t)

/-- An access that an engine makes within its own command is the grant that its input takes then (log 18). -/
def engineTurn (q : Nat) : M Unit := countGrant q 0

/-! ### The trace (18 R817) -/

/-- The header of a flit as the trace shows it (R158). -/
def hdrBits (ft vc seq : Nat) (poison last : Bool) : Nat :=
  ft * 2 ^ 14 + vc * 2 ^ 11 + seq * 2 ^ 3 + poison.toNat * 4 + last.toNat * 2

/-- Write a TRACE entry when the port is traced. -/
def trace (p hdr opcode tag : Nat) (sent : Bool) : M Unit := do
  let s ← get
  if getF s R.DEBUG_TRACE_CTL_EN = 1 && getF s R.DEBUG_TRACE_CTL_PORT = p then
    let i := getF s R.DEBUG_TRACE_WP_WP
    wrF (R.DEBUG_TRACE_HDR i) hdr
    wrF (R.DEBUG_TRACE_OPCODE i) opcode
    wrF (R.DEBUG_TRACE_TAG i) tag
    wrF (R.DEBUG_TRACE_DIR i) sent.toNat
    wrF (R.DEBUG_TRACE_VALID i) 1
    wrF R.DEBUG_TRACE_WP_WP ((i + 1) % 64)

/-! ### Sending messages to agents (04, 05 R209) -/

/-- Channel numbers: REQ 0, SNP 1, RSP 2, DAT 3, CMP 4, MSG 5. A message with data flits travels on DAT, but for the MSG
answers. -/
def chanOf (m : Msg) : Nat :=
  if 0x20 ≤ m.op ∧ m.op ≤ 0x24 then 1
  else if 0x48 ≤ m.op ∧ m.op ≤ 0x4B then 5
  else if m.data = [] then 4 else 3

/-- The 128 payload bits of a message (R161, R212). -/
def payloadOf (m : Msg) : Nat :=
  m.op + m.tag * 2 ^ 8 +
    (if chanOf m = 1 then m.spec * 2 ^ 14 else m.tenant * 2 ^ 14 + m.agent * 2 ^ 19 + m.spec * 2 ^ 24) +
    m.aa * 2 ^ 64 + m.hi * 2 ^ 112

/-- The data flits of a message from a sequence number on. -/
def dataFlits (seq : Nat) : LineData → List Flit
  | [] => []
  | q :: t => ⟨2, 3, seq % 256, q.poison, t.isEmpty, q.bits.toNat⟩ :: dataFlits (seq + 1) t

/-- The flits of a message (R158, R159). -/
def flitsOf (seq : Nat) (m : Msg) : List Flit :=
  ⟨0, chanOf m, seq % 256, false, false, payloadOf m⟩ :: dataFlits (seq + 1) m.data

/-- The 18 bytes of a flit that its CRC covers (R156, R158). -/
def flitBytes (f : Flit) : List Nat :=
  natToBytes 2 (hdrBits f.ft f.vc f.seq f.poison f.last) ++
    natToBytes 16 f.payload

/-- The 20 bytes of a flit on the lane: the CRC with its high byte in byte 18 (R156, R157). -/
def flitWire (f : Flit) : List Nat :=
  flitBytes f ++ [crc16 (flitBytes f) / 256, crc16 (flitBytes f) % 256]

/-- Messages that may use the CMP credit reserved for a verdict (07 R315): ECONF and ECANX. -/
def isVerdict (m : Msg) : Bool := m.op == 0x3B || m.op == 0x3C

/-- The CMP credit kept for a `HOLD` of another tag that waits (R192). -/
def holdReserve (pt : Port) (m : Msg) : Nat :=
  if m.op != 0x36 && pt.tags.any (fun e => e.1 != m.tag && e.2.isSome) then 1 else 0

/-- May the message leave now: credits of its channel and of DAT for its data flits, and room among the 64
unacknowledged flits (R165, R181). It starts only when all its flits can go (DESIGN CHOICE, log 121). -/
def canSend (pt : Port) (m : Msg) : Bool :=
  let n := m.data.length
  let need := fun c => (if chanOf m = c then 1 else 0) + (if c = 3 then n else 0)
  let pinned := if chanOf m = 4 && !isVerdict m then pt.creditPinned + holdReserve pt m else 0
  decide (need (chanOf m) + pinned ≤ creditOf pt.link (chanOf m)) && decide (need 3 ≤ creditOf pt.link 3) &&
    decide (pt.link.replay.length + n + 1 ≤ 64)

/-- Does a message end the wait of its tag (02 R61, R62; 04 R163)? -/
def endsWait (m : Msg) : Bool :=
  (0x30 ≤ m.op && m.op ≤ 0x39 && m.op != 0x36) || m.op == 0x3B || (0x49 ≤ m.op && m.op ≤ 0x4B)

/-- A lock on a line of the partner begins with its LockGrant, and is over with the CmpWb or NO_LOCK of the UlWr (05 R221, 10 R450).
-/
def noteFarLock (p : Nat) (t : TagSt) (m : Msg) : M Unit :=
  setPort p fun pt => { pt with farLocks :=
    if m.op = 0x38 then pt.farLocks.filter (· != t.line) ++ [t.line]
    else if t.op = 0x07 then pt.farLocks.filter (· != t.line) else pt.farLocks }

/-- H of R188 in ns: half of the RSP_DL in force at the port, capped at 1.0 µs. -/
def holdH (s : State) (p : Nat) : Nat := min ((portOf s p).rspDl * 5) 1000

/-- A `HOLD` has left: late when it starts after its due instant; the next is due H after it (R188, R192). -/
def holdSent (p tag : Nat) : M Unit := do
  let s ← get
  match tagOf (portOf s p) tag with
  | some t =>
    if t.due < s.now then incF (R.APORT_HOLD_LATE_CNT_CNT p)
    setTag p tag (some { t with due := s.now + holdH s p })
  | none => pure ()

/-- What the sending of a message changes beside the link: the ledger and the tag (R61, R163), the instant a snoop's
deadline counts from (R194, 02 R63). -/
def onSent (p : Nat) (m : Msg) : M Unit := do
  let s ← get
  let pt := portOf s p
  if m.op = 0x36 then
    perf 7 (some p) (some m.tenant)
    holdSent p m.tag
  if m.op = 0x3A then
    perf 8 (some p) (some m.tenant)
    -- 07 R321: WAIT counts from the first data flit.
    modify fun s => { s with trackers := s.trackers.map fun t =>
      if t.port == p && t.tag == m.tag then { t with sent := true, start := s.now } else t }
  if chanOf m = 1 then
    perf 2 none none
    match snoopOf pt m.tag with
    | some sn => setSnoop p m.tag (some { sn with sent := s.now, first := if sn.resnooped then sn.first else s.now })
    | none => pure ()
  else if endsWait m then
    match tagOf pt m.tag with
    | some t =>
      measure t.cls p t.tenant (s.now - t.arrived)
      if t.remote then noteFarLock p t m
      setTag p m.tag none
    | none => pure ()

/-- Put one message on the lane: its flits, credits, replay buffer and sequence numbers (R159, R165, R181). -/
def transmit (p : Nat) (m : Msg) : M Unit := do
  let s ← get
  let l := (portOf s p).link
  let fs := flitsOf l.nextSeq m
  let l1 := useCredit (useCredit l (chanOf m) 1) 3 m.data.length
  let l2 := { l1 with nextSeq := (l.nextSeq + fs.length) % 256, replay := l.replay ++ fs,
                      ackAt := if l.replay.isEmpty then s.now else l.ackAt }
  setPort p fun pt =>
    { pt with link := l2, creditPinned := if isVerdict m then pt.creditPinned - 1 else pt.creditPinned }
  sendFlits (.aport (Fin.ofNat 16 p)) (fs.map (.flit p))
  trace p (hdrBits 0 (chanOf m) l.nextSeq false false) m.op m.tag true
  onSent p m

/-- Walk the messages that wait: one that may leave goes; one that may not holds back the later ones of its line (06
R264). -/
def pumpList (p : Nat) : List Msg → List Nat → M Unit
  | [], _ => pure ()
  | m :: t, blocked => do
    let s ← get
    if portSends s p && !(blocked.contains (m.aa / 64)) && canSend (portOf s p) m then
      transmit p m
      pumpList p t blocked
    else
      setPort p fun pt => { pt with txq := pt.txq ++ [m] }
      pumpList p t (if chanOf m = 5 then blocked else m.aa / 64 :: blocked)

/-- Send what may be sent at a port. -/
def pump (p : Nat) : M Unit := do
  let q := (portOf (← get) p).txq
  setPort p fun pt => { pt with txq := [] }
  pumpList p q []

/-- Queue a message for a port and send what may be sent. A HOLD goes ahead of other CMP traffic (R192). -/
def sendMsg (p : Nat) (m : Msg) : M Unit := do
  setPort p fun pt => { pt with txq := if m.op == 0x36 then m :: pt.txq else pt.txq ++ [m] }
  pump p

/-- The message with no data and no specific fields. -/
def plainMsg (op tag tenant agent aa : Nat) : Msg := ⟨op, tag, tenant, agent, aa, 0, 0, []⟩

/-! ### Failure records (15) -/

/-- Set a doorbell bit of a tenant's word (14 R639, R640). -/
def setDoorbell (t b : Nat) : M Unit := do
  let f := R.TENANT_DB_WORD_BITS t
  let w ← rdF f
  wrF f (w ||| 2 ^ (b % 32))

/-- Set a bit of a tenant's doorbell word on the hub that holds it (14 R639): here, or across the pair link; a setting
that cannot reach its hub is lost and counted (R670). -/
def ringDoorbell (t b : Nat) : M Unit := do
  let s ← get
  let a := getF s (R.TENANT_DB_CTL_AGENT t)
  if a / 16 = hubNo s || !pairOn s then setDoorbell t b
  else if hasPartner s then sendPair (.doorbell t (b % 32))
  else incF (R.TENANT_CARGO_ERR_CNT_CNT t)

/-- A security event (R699). -/
def secEvent (kind tenant agent : Nat) : M Unit := do
  incF R.GLOBAL_SEC_CNT_CNT
  wrF R.GLOBAL_SEC_LAST_KIND kind
  wrF R.GLOBAL_SEC_LAST_TENANT tenant
  wrF R.GLOBAL_SEC_LAST_AGENT agent
  raise pgGlobal 4

/-- Write a loss-log entry (R687). -/
def logLoss (kind line : Nat) : M Unit := do
  let wp ← rdF R.GLOBAL_LOSS_WP_WP
  let n ← rdF R.TICK_NUM_NUM
  wrF (R.GLOBAL_LOSS_LO_LINE wp) line
  wrF (R.GLOBAL_LOSS_LO_KIND wp) kind
  wrF (R.GLOBAL_LOSS_LO_VALID wp) 1
  wrF (R.GLOBAL_LOSS_HI_TICK wp) n
  wrF R.GLOBAL_LOSS_WP_WP ((wp + 1) % 16)

/-- The counters, the region's owner and the interrupts of a loss that names a line (R688). -/
def lossEffects (kind line : Nat) : M Unit := do
  if kind = 1 then incF R.GLOBAL_LOST_LINE_CNT_CNT
  else if kind = 2 then incF R.GLOBAL_LOCK_LOST_CNT_CNT
  else incF R.GLOBAL_POISON_LINE_CNT_CNT
  let s ← get
  match regionAt s (line * 64) with
  | none => pure ()
  | some r =>
    let t := (descOf s.active r).owner
    if kind ≤ 2 then incF (R.TENANT_LOST_CNT_CNT t) else incF (R.TENANT_POISON_CNT_CNT t)
    wrF (R.TENANT_LAST_LOSS_LINE t) line
    wrF (R.TENANT_LAST_LOSS_KIND t) kind
    if ← rdB (R.TENANT_FAIL_CTL_LOSS_EN t) then
      let b ← rdF (R.TENANT_FAIL_CTL_LOSS_BIT t)
      ringDoorbell t b
  raise pgGlobal (if kind = 2 then 3 else 2)

/-- An error code that the spec does not give (log 12). -/
def drawCode : M Nat := do
  let w ← drawWord
  pure (w.toNat % 256)

/-- Record a loss of kinds LINE_LOST 1, LOCK_LOST 2, POISONED 5, ADDRESS_FAIL 6 (R687, R688). -/
def loss (kind line : Nat) : M Unit := do
  logLoss kind line
  lossEffects kind line

/-- Record ORPHAN 3 or FLUSH_LOSS 4, which name no HA (R689). -/
def lossNoHa (kind val : Nat) : M Unit := do
  logLoss kind val
  raise pgGlobal 5

/-- The agents whose bit is set in GLOBAL.DEAD. -/
def isDead (s : State) (a : Nat) : Bool := (getF s R.GLOBAL_DEAD_IDS).testBit a

def isHalted (s : State) : Bool := getF s R.GLOBAL_FAIL_STAT_HALTED == 1

/-- REQ and MSG flits are discarded: the domain is halted (15 R678), a domain reset is before its step 5 (16 R721), or
a retain save runs (16 R755). -/
def discards (s : State) : Bool := isHalted s || s.dreset || s.power.save

/-- Stage of start-up (16 R726): 0 POWER, 1 LOAD, 2 WAIT, 3 RESTORE, 4 RUN, 5 FAIL. -/
def stage (s : State) : Nat := getF s R.BOOT_STAT_STAGE

/-- The hub answers agents, runs its engines: stage RUN, powered. -/
def isRunning (s : State) : Bool := stage s == 4 && !s.power.hold && !s.power.held && !s.power.otOff

/-- JTAG holds the scanned lands: EXTEST or HIGHZ is in force (19 R851). -/
def landsOff (s : State) : Bool := s.jtag.ir == 0 || s.jtag.ir == 2

/-- Drive a scanned land, unless JTAG holds it. -/
def emitLand (o : Out) : M Unit := do onlyIf (!landsOff (← get)) (emit o)

/-- STANDBY is in force (16 R746). -/
def inStandby (s : State) : Bool := getF s R.POWER_STAT_STATE == 2

end Sys2Proof.Machine
end

