-- ==== Sys2Proof/Machine/FabricLink.lean ====
section
/-! DEFINITION. Sending on the fabric (13 R561-R570): priorities, credits, the dateline, SEQ, and what the receipt of a
frame accounts for. -/

namespace Sys2Proof.Machine

def fportOf (s : State) (p : Nat) : FPort := kvGet (fun _ => FPort.empty) s.fports p

def setFport (p : Nat) (f : FPort → FPort) : M Unit := fun s =>
  ((), { s with fports := kvSet (fun _ => FPort.empty) s.fports p (f (fportOf s p)) })

def setFabric (f : Fabric → Fabric) : M Unit := fun s => ((), { s with fabric := f s.fabric })

def fLink (s : State) (p : Nat) : Bool := getF s (R.FPORT_STAT_LINK p) == 1

/-- A link that routed frames may use: up, with a neighbour heard whose BUF is in range (R567). -/
def fRoutes (s : State) (p : Nat) : Bool :=
  fLink s p && (fportOf s p).heard && getF s (R.FPORT_STAT_BUF_ERR p) == 0

/-- The hub's unique ID. -/
def ownUid (s : State) : Nat := s.otp.uid.toNat

def nodeId (s : State) : Nat := getF s R.FABRIC_STAT_NODE_ID

def fabGen (s : State) : Nat := getF s R.FABRIC_STAT_GEN

/-- Bytes of a payload as natural numbers. -/
def pbytes (f : Frame) : List Nat := f.payload.map (·.toNat)

/-- The number in `n` payload bytes from byte `i`, low byte first (log 13). -/
def pfield (f : Frame) (i n : Nat) : Nat := bytesToNat (((pbytes f).drop i).take n)

def mkPayload (bs : List Nat) : List Byte := bs.map (BitVec.ofNat 8)

/-- Link-local DISC frames: HELLO, ECHO, ECHO_RSP, CREDIT (R571). -/
def linkLocal (f : Frame) : Bool := f.cls.val == 1 && [1, 5, 6, 7].contains (pfield f 0 1)

/-- A routed frame uses a credit of its VC (R566). -/
def usesBuf (f : Frame) : Bool := f.cls.val != 0 && !linkLocal f

/-- Priority of a frame at an output port (R570); 0 goes first. -/
def framePrio (f : Frame) : Nat :=
  match f.cls.val with
  | 0 => 0 | 1 => if linkLocal f then 1 else 5 | 4 => 2 | 3 => 3 | 5 => 4 | _ => 6

def fcredit (s : State) (p vc : Nat) : Nat :=
  if vc = 0 then getF s (R.FPORT_CREDIT_VC0 p) else getF s (R.FPORT_CREDIT_VC1 p)

def fTake (p vc : Nat) : M Unit := do
  let s ← get
  if vc = 0 then wrF (R.FPORT_CREDIT_VC0 p) (fcredit s p 0 - 1) else wrF (R.FPORT_CREDIT_VC1 p) (fcredit s p 1 - 1)

/-- Put a frame on a port. -/
def fEmit (p : Nat) (f : Frame) : M Unit := do
  incF (R.FPORT_TX_FRAMES_CNT p)
  perf 0x0B none none
  emit (.frame p f)

/-- Send the waiting frames of one priority, in arrival order, each if a credit of its VC allows (R570). -/
def fPumpPrio (p k : Nat) : List Frame → M (List Frame)
  | [] => pure []
  | f :: t => do
    if framePrio f = k then
      let s ← get
      if fLink s p && (!usesBuf f || (fRoutes s p && fcredit s p f.vc.val > 0)) then
        if usesBuf f then fTake p f.vc.val
        fEmit p f
        fPumpPrio p k t
      else
        let r ← fPumpPrio p k t
        pure (f :: r)
    else
      let r ← fPumpPrio p k t
      pure (f :: r)

/-- Send what may be sent at a fabric port, by priority. -/
def fPump (p : Nat) : M Unit :=
  each (List.range 7) fun k => do
    let q := (fportOf (← get) p).txq
    let r ← fPumpPrio p k q
    setFport p fun fp => { fp with txq := r }

/-- Queue a frame for an output port: a port named in the DATELINE mask sends on VC1 (R569). -/
def fSend (p : Nat) (f : Frame) : M Unit := do
  let s ← get
  let f := if usesBuf f && s.fabric.dateline.testBit p then { f with vc := 1 } else f
  setFport p fun fp => { fp with txq := fp.txq ++ [f] }
  fPump p

/-- SEQ of the next frame of a class to a destination (R564). -/
def nextSeq (cls dst : Nat) : M Nat := do
  let k := cls * 64 + dst
  let n := kvGet (fun _ => 0) (← get).fabric.seq k
  setFabric fun fb => { fb with seq := kvSet (fun _ => 0) fb.seq k ((n + 1) % 65536) }
  pure n

/-- A frame of this hub. -/
def mkFrame (s : State) (cls dst seq : Nat) (bs : List Nat) : Frame :=
  { cls := Fin.ofNat 8 cls, src := BitVec.ofNat 6 (nodeId s), dst := BitVec.ofNat 6 dst, hops := 0, vc := 0,
    seq := BitVec.ofNat 16 seq, payload := mkPayload bs }

/-- Count a frame that has no route (R565): at the port its table entry names, else at the port it came in by. -/
def countNoRoute (nib : Nat) (inp : Option Nat) : M Unit :=
  match (if nib < 4 then some nib else inp) with
  | some p => do incF (R.FPORT_DROP_NOROUTE_CNT_CNT p); raise (pgFport p) 3
  | none => pure ()

/-- Route a frame by the table (R565). -/
def fRoute (f : Frame) (inp : Option Nat) : M Unit := do
  let s ← get
  let nib := getF s (R.FABRIC_ROUTE_PORT f.dst.toNat)
  if nib < 4 && fRoutes s nib then fSend nib f else countNoRoute nib inp

/-- Send a routed frame that this hub originates. -/
def fOriginate (cls dst : Nat) (bs : List Nat) : M Nat := do
  let n ← nextSeq cls dst
  fRoute (mkFrame (← get) cls dst n bs) none
  pure n

/-- The receipt of a good frame: counters, the instant for R560, the freed buffer (R568, log 11). False when the frame is
not taken: the port is down, or the class is reserved (R563). -/
def fReceive (p : Nat) (f : Frame) : M Bool := do
  let s ← get
  if !fLink s p then pure false
  else if f.cls.val ≥ 6 || f.payload.length > 256 then
    incF (R.FPORT_DROP_FMT_CNT_CNT p)
    raise (pgFport p) 3
    pure false
  else
    incF (R.FPORT_RX_FRAMES_CNT p)
    setFport p fun fp => { fp with
      goodAt := s.now,
      freed0 := if usesBuf f && f.vc.val == 0 then (fp.freed0 + 1) % 256 else fp.freed0,
      freed1 := if usesBuf f && f.vc.val == 1 then (fp.freed1 + 1) % 256 else fp.freed1 }
    pure true

end Sys2Proof.Machine
end

