-- ==== Sys2Proof/Machine/Memory.lean ====
section
/-! DEFINITION. Home memory, the home cache and the eviction buffer with their protection (09), and the places of the two
copies of a frame-versioned line (11 R473, R474). A location is a storage address SA divided by 64. -/

namespace Sys2Proof.Machine

/-! ### Places -/

/-- First location of the second-copy area (09 R383). -/
def secondBase : Nat := 0x400000

/-- Is an SA backed (R383)? -/
def backedSa (sa : Nat) : Bool := decide (sa < 0x10800000)

/-- Lines of a region that this hub homes (11 R474). -/
def shareLines (s : State) (d : Desc) : Nat :=
  if pairOn s then
    (if ilv s = 0 then 2 ^ d.size / 128
     else if d.size ≥ 13 then 2 ^ d.size / 128 else if isHome s d.base then 2 ^ d.size / 64 else 0)
  else 2 ^ d.size / 64

/-- Index of a line among the region's lines homed here (R474). -/
def shareIndex (s : State) (d : Desc) (line : Line) : Nat := (laOf s (line * 64) - laOf s d.base) / 64

/-- The HA line of index k of a region's share: the inverse of `shareIndex`. -/
def shareLine (s : State) (d : Desc) (k : Nat) : Line := haOfLa s (laOf s d.base + 64 * k) / 64

def copyPlaced (s : State) (r : Nat) : Bool := getF s (R.COMMIT_COPY_PLACED r) == 1

/-- The location of the LA copy of a line. -/
def laLoc (s : State) (line : Line) : Nat := laOf s (line * 64) / 64

/-- The location of the second copy of a line of region r (R474). -/
def secondLoc (s : State) (r : Nat) (line : Line) : Nat :=
  secondBase + getF s (R.COMMIT_COPY_OFS r) * 64 + shareIndex s (descOf s.active r) line

/-- The location of copy `second` of a line of region r. -/
def copyLoc (s : State) (r : Nat) (line : Line) (second : Bool) : Nat :=
  if second then secondLoc s r line else laLoc s line

/-- The location readers of a line meet: the current copy of an FV line (11 R473, R475), else the LA. -/
def curLoc (s : State) (line : Line) : Nat :=
  match fvRegion s line with
  | some r => copyLoc s r line (copyPlaced s r && getF s (R.COMMIT_COPY_VER r) == 1)
  | none => laLoc s line

/-- The location writers of a line meet: the next copy of an FV line (11 R478), else the LA. -/
def nextLoc (s : State) (line : Line) : Nat :=
  match fvRegion s line with
  | some r => copyLoc s r line (copyPlaced s r && getF s (R.COMMIT_COPY_VER r) == 0)
  | none => laLoc s line

/-- The HA line that a location holds (for a second copy, the line it belongs to). -/
def lineOfLoc (s : State) (loc : Nat) : Line :=
  if loc < secondBase then haOfLa s (loc * 64) / 64
  else
    let o := loc - secondBase
    match (List.range 64).find? fun r =>
        copyPlaced s r && decide (getF s (R.COMMIT_COPY_OFS r) * 64 ≤ o) &&
          decide (o < getF s (R.COMMIT_COPY_OFS r) * 64 + shareLines s (descOf s.active r)) with
    | some r => shareLine s (descOf s.active r) (o - getF s (R.COMMIT_COPY_OFS r) * 64)
    | none => 0

/-! ### Memory bytes (09 R383, R395-R397, R428) -/

/-- Check bits of an unlisted byte: those of data 0 at its address (R428). -/
def chkDflt (a : Nat) : BitVec 5 := BitVec.ofNat 5 (checkBits 0 (a % 16) (foldWa (a / 16)))

/-- The canonical form of the byte stores: memory and its check bits, flash and its page buffer (keys rising, no entry equal to
what an unlisted address reads as). -/
def Memory.wf (s : State) : Bool :=
  kvWf (fun _ => (0 : Byte)) s.mem && kvWf chkDflt s.memChk && kvWf (fun _ => 0xFF#8) s.flash && kvWf (fun _ => 0#8) s.pageBuf

/-- Data of one byte of memory at SA `a`. -/
def memData (s : State) (a : Nat) : Byte := kvGet (fun _ => 0) s.mem a

/-- One stored byte of 13 bits. -/
def memByte (s : State) (a : Nat) : BitVec 13 :=
  BitVec.ofNat 13 ((memData s a).toNat + 256 * (kvGet chkDflt s.memChk a).toNat)

/-- Write one stored byte. -/
def memPut (s : State) (a : Nat) (b : BitVec 13) : State :=
  { s with mem := kvSet (fun _ => (0 : Byte)) s.mem a (BitVec.ofNat 8 (b.toNat % 256)),
           memChk := kvSet chkDflt s.memChk a (BitVec.ofNat 5 (b.toNat / 256)) }

/-- The 16 stored bytes of a word. -/
def memWord (s : State) (wa : Nat) : List (BitVec 13) := (List.range 16).map fun i => memByte s (wa * 16 + i)

/-- The 64 stored bytes of a line, as a fill moves them (R386). -/
def memLine (s : State) (loc : Nat) : List (BitVec 13) := (List.range 64).map fun i => memByte s (loc * 64 + i)

def memPutBytes : Nat → List (BitVec 13) → State → State
  | _, [], s => s
  | a, b :: t, s => memPutBytes (a + 1) t (memPut s a b)

/-- Write the stored bytes of a word. -/
def memPutWord (wa : Nat) (bs : List (BitVec 13)) : M Unit := fun s => ((), memPutBytes (wa * 16) bs s)

/-- Is the word stored as poison? -/
def countPoisonWr (bs : List (BitVec 13)) : M Unit :=
  onlyIf (bs == List.replicate 16 poisonByte) (incF R.MEM_POISON_WR_CNT_CNT)

/-- A class of a memory word counted and captured (09 R425). ADDRESS_TRANSIENT is this alone: the names of the page's
interrupt bits give it none (log 24). -/
def memEvent (wa code q : Nat) (cnt : Fld) : M Unit := do
  incF cnt
  wrF R.MEM_LAST_WA_WA wa
  errCap pgMem code (wa * 16) (q * 2 ^ 27)

/-- Record a memory error: counter, LAST_WA, capture and interrupt (09 R424, R425). -/
def memError (wa code q : Nat) (cnt : Fld) (irq : Nat) : M Unit := do
  memEvent wa code q cnt
  raise pgMem irq

/-- Read a word once: an armed wrong fold acts on this read (R424 KIND 0b10). -/
def foldForRead (wa : Nat) : M Nat := fun s =>
  if s.memFold.contains wa then (Nat.xor (foldWa wa) 1, { s with memFold := s.memFold.erase wa }) else (foldWa wa, s)

/-- Deliver a word of a given class after any retry, with the write-back that R404 asks for. `f` is the fold it was
decoded with. -/
def deliverWord (wa q : Nat) (f : Nat) (bs : List (BitVec 13)) (c : WClass) : M Quad := do
  match c with
  | .clean => pure (decodeQuad f bs)
  | .corrected =>
    memError wa 1 q R.MEM_CORR_CNT_CNT 0
    memPutWord wa (encodeQuad (foldWa wa) (decodeQuad f bs))
    pure (decodeQuad f bs)
  | .poison =>
    memError wa 6 q R.MEM_POISON_RD_CNT_CNT 3
    pure Quad.poisoned
  | .uncorr | .mixed =>
    if c = .mixed then memError wa 3 q R.MEM_MIXED_CNT_CNT 1 else memError wa 2 q R.MEM_UNCORR_CNT_CNT 1
    memPutWord wa (List.replicate 16 poisonByte)
    incF R.MEM_POISON_WR_CNT_CNT
    let s ← get
    loss 5 (lineOfLoc s (wa / 4))
    pure Quad.poisoned
  | .address =>
    memError wa 4 q R.MEM_ADDR_CNT_CNT 2
    let s ← get
    loss 6 (lineOfLoc s (wa / 4))
    pure Quad.poisoned

/-- A demand read of a word (R404), with the one retry of R405. -/
def memReadWord (wa q : Nat) : M Quad := do
  let f ← foldForRead wa
  let bs := memWord (← get) wa
  if classWord f bs = .address then
    let f2 ← foldForRead wa
    let bs2 := memWord (← get) wa
    let c2 := classWord f2 bs2
    if c2 = .clean ∨ c2 = .corrected then
      memEvent wa 5 q R.MEM_ADDR_TRANS_CNT_CNT
      deliverWord wa q f2 bs2 c2
    else if c2 = .address then deliverWord wa q f2 bs2 .address
    else
      -- R405: any other second read delivers the word poisoned and writes nothing to memory.
      deliverWord wa q f2 bs2 .address
  else deliverWord wa q f bs (classWord f bs)

/-- A demand read of a line from memory. -/
def memReadLine (loc q : Nat) : M LineData := do
  perf 5 (some q) none
  let a ← memReadWord (loc * 4) q
  let b ← memReadWord (loc * 4 + 1) q
  let c ← memReadWord (loc * 4 + 2) q
  let d ← memReadWord (loc * 4 + 3) q
  pure [a, b, c, d]

/-- Write one word to memory. -/
def memWriteWord (wa : Nat) (q : Quad) : M Unit := do
  let bs := encodeQuad (foldWa wa) q
  countPoisonWr bs
  memPutWord wa bs

def memWriteWords : Nat → LineData → M Unit
  | _, [] => pure ()
  | wa, q :: t => do memWriteWord wa q; memWriteWords (wa + 1) t

/-- Write a line to memory. -/
def memWriteLine (loc q : Nat) (d : LineData) : M Unit := do
  perf 6 (some q) none
  memWriteWords (loc * 4) (d.take 4)

/-- Write the enabled bytes of a word (R401: poison bytes when POISON=1; all 16 of them are a word written as poison). -/
def memWriteBytes (wa : Nat) (be : Nat) (q : Quad) : M Unit := do
  let f := foldWa wa
  let bytes := natToBytes 16 q.bits.toNat
  onlyIf (q.poison && be % 65536 == 65535) (incF R.MEM_POISON_WR_CNT_CNT)
  modify fun s => (List.range 16).foldl (fun s i =>
      if be.testBit i then
        memPut s (wa * 16 + i) (if q.poison then poisonByte else storeByte (bytes.getD i 0) i f)
      else s) s

/-! ### Home-cache slots (09 R385, R407, R408) -/

def slotIx (loc : Nat) : Nat := loc % 65536

def locTag (loc : Nat) : Nat := loc / 65536

def slotOf (s : State) (i : Nat) : Slot := kvGet (fun _ => Slot.invalid) s.slots i

def putSlot (i : Nat) (sl : Slot) : M Unit := fun s =>
  ((), { s with slots := kvSet (fun _ => Slot.invalid) s.slots i sl })

/-- The tag word for a tag, V and dirty, with even parity P (R407). -/
def tagWord (tag : Nat) (v dirty : Bool) : BitVec 12 :=
  let x := tag % 256 + 256 * v.toNat + 512 * dirty.toNat + 1024 * dirty.toNat
  BitVec.ofNat 12 (x + 2048 * (parityN x 11).toNat)

def slotTag (sl : Slot) : Nat := sl.tagw.toNat % 256

def slotV (sl : Slot) : Bool := sl.tagw.getLsbD 8

def slotD0 (sl : Slot) : Bool := sl.tagw.getLsbD 9

def slotD1 (sl : Slot) : Bool := sl.tagw.getLsbD 10

/-- Parity fails, or the two dirty copies differ (R408). -/
def slotDamaged (sl : Slot) : Bool := parityN sl.tagw.toNat 12 || (slotD0 sl != slotD1 sl)

/-- How the hub treats a damaged slot: dirty or clean (R408). -/
def slotDirtyTreated (sl : Slot) : Bool := (slotD0 sl && slotD1 sl) || (slotV sl && (slotD0 sl != slotD1 sl))

def slotHolds (sl : Slot) (loc : Nat) : Bool := slotV sl && slotTag sl == locTag loc

/-- The stored bytes of a slot's word. -/
def slotWord (sl : Slot) (j : Nat) : List (BitVec 13) :=
  (List.range 16).map fun i => sl.data.getD (16 * j + i) 0

/-- The location a slot's tag names. -/
def slotLoc (sl : Slot) (i : Nat) : Nat := slotTag sl * 65536 + i

/-- The flow that holds a line, if any (05 R224). -/
def flowOf (s : State) (line : Line) : Option Flow := s.flows.find? fun f => f.line == line

/-- Is the line held in Busy-Commit by an open window (11 R490)? -/
def heldBy (s : State) (w : Option Window) (line : Line) : Bool :=
  match w with
  | none => false
  | some w =>
    match fvRegion s line with
    | none => false
    | some r => w.regions.contains r && (if w.flipped then w.carry.contains line else true)

/-- Is a line in a Busy state? -/
def lineBusy (s : State) (line : Line) : Bool :=
  (flowOf s line).isSome || heldBy s s.fv.commit line || heldBy s s.fv.release line

/-! ### The eviction buffer (09 R391-R394) -/

def ebFind (s : State) (loc : Nat) : Option EbEntry := s.ebuf.find? fun e => e.loc == loc

def ebDrop (loc : Nat) : M Unit := fun s => ((), { s with ebuf := s.ebuf.filter fun e => e.loc != loc })

/-- Put stored bytes of a line into memory. -/
def memPutStored (loc : Nat) (bs : List (BitVec 13)) : M Unit := do
  countPoisonWr ((bs.take 16))
  countPoisonWr ((bs.drop 16).take 16)
  countPoisonWr ((bs.drop 32).take 16)
  countPoisonWr ((bs.drop 48).take 16)
  modify fun s => memPutBytes (loc * 64) (bs.take 64) s

/-- Finish the memory write of an entry and free it. -/
def ebComplete (e : EbEntry) : M Unit := do
  perf 6 (some 31) none
  memPutStored e.loc e.data
  ebDrop e.loc

/-- Enter a dirty line (R392). While all 32 entries are in use the flow waits (07 R312) until the oldest entry has
drained; the wait passes within the step (log 9). -/
def ebPush (e : EbEntry) : M Unit := do
  let s ← get
  if s.ebuf.length ≥ 32 then
    match s.ebuf with
    | o :: _ => ebComplete o
    | [] => pure ()
  modify fun s => { s with ebuf := s.ebuf ++ [e] }
  incF R.HCACHE_DIRTY_EVICT_CNT_CNT
  maxF R.HCACHE_EBUF_MAX (← get).ebuf.length

/-! ### Tag recovery (09 R410-R414) -/

def invalidateSlot (i : Nat) : M Unit := putSlot i Slot.invalid

/-- The fold of word j of the line with tag t in slot i. -/
def candFold (t i j : Nat) : Nat := foldWa ((t * 65536 + i) * 4 + j)

/-- Does candidate tag t fit the slot (R410)? -/
def fits (sl : Slot) (i t : Nat) : Bool :=
  (List.range 4).all fun j =>
    let w := slotWord sl j
    decide (w.countP (· == poisonByte) ≥ 14) || (syndromes (candFold t i j) 0 w).all singleOrNone

def matchesOf (sl : Slot) (i : Nat) : List Nat := (List.range 66).filter (fits sl i)

/-- A slot's word with single-bit errors corrected under tag t; poison stays. -/
def fixWord (sl : Slot) (i t j : Nat) : List (BitVec 13) :=
  let w := slotWord sl j
  if w.countP (· == poisonByte) ≥ 14 then w
  else encodeBytes (candFold t i j) 0 (correctBytes (candFold t i j) 0 w)

/-- Report an orphan (R414). -/
def orphan (i n : Nat) : M Unit := do
  incF R.HCACHE_ORPHAN_CNT_CNT
  wrF R.HCACHE_LAST_ORPHAN_INDEX i
  wrF R.HCACHE_LAST_ORPHAN_MATCHES n
  errCapOpen pgHcache (if n = 0 then 3 else 4) (i + n * 2 ^ 24) (255 * 2 ^ 16) 0 (2 ^ 32 - 1)
  raise pgHcache 4
  lossNoHa 3 i

/-- The search of R410 with its outcome (R413, R414). -/
def searchSlot (i : Nat) : M Unit := do
  let s ← get
  let sl := slotOf s i
  match matchesOf sl i with
  | [t] =>
    ebPush ⟨t * 65536 + i, fixWord sl i t 0 ++ fixWord sl i t 1 ++ fixWord sl i t 2 ++ fixWord sl i t 3, none, false⟩
    incF R.HCACHE_RECOVER_CNT_CNT
    errCap1 pgHcache 2 (i + t * 2 ^ 16 + 2 ^ 24)
    raise pgHcache 3
  | ms => orphan i ms.length
  invalidateSlot i

/-- Does a running flow hold the line of slot i, so that its tag comes from the flow's record (R409)? -/
def heldSlot (s : State) (i : Nat) : Option Flow :=
  s.flows.find? fun f => f.hit && slotIx (curLoc s f.line) == i

/-- Must an access to slot i wait for, or start, a search: a dirty line with a damaged tag not held by a flow? -/
def needsSearch (s : State) (i : Nat) : Bool :=
  let sl := slotOf s i
  slotDamaged sl && slotDirtyTreated sl && (heldSlot s i).isNone

/-- Step 7 of a flow that holds a slot's line, or the write home that belongs to it: a damaged tag word is rewritten from the
flow's record (R409). -/
def repairSlot (loc : Nat) : M Unit := do
  let s ← get
  let sl := slotOf s (slotIx loc)
  if slotDamaged sl && (heldSlot s (slotIx loc)).isSome then
    incF R.HCACHE_TAG_REPAIR_CNT_CNT
    putSlot (slotIx loc) { sl with tagw := tagWord (locTag loc) true (slotDirtyTreated sl) }

/-- A damaged dirty tag met by an access that can wait starts a search (R410, R412); one search runs at a time. -/
def startSearch (i : Nat) : M Unit := do
  let s ← get
  if s.search.isNone then
    incF R.HCACHE_TAG_PAR_CNT_CNT
    raise pgHcache 0
    modify fun s => { s with search := some ⟨i, s.now⟩ }
    wrF R.HCACHE_STAT_SEARCH_BUSY 1

/-- The search of a slot completes; one that was started for the slot is over with it. -/
def runSearch (i : Nat) : M Unit := do
  match (← get).search with
  | some x =>
    if x.index = i then
      modify fun s => { s with search := none }
      wrF R.HCACHE_STAT_SEARCH_BUSY 0
  | none => pure ()
  searchSlot i

/-- The check that every access to a slot makes (R408): a clean damaged line is dropped, a dirty one is searched; the tag of
a held line is known from its flow, whose step 7 rewrites it (R409). -/
def checkSlot (i : Nat) : M Unit := do
  let s ← get
  let sl := slotOf s i
  if slotDamaged sl then
    match heldSlot s i with
    | some _ =>
      incF R.HCACHE_TAG_PAR_CNT_CNT
      raise pgHcache 0
    | none =>
      if s.search.any (·.index == i) then runSearch i
      else
      incF R.HCACHE_TAG_PAR_CNT_CNT
      raise pgHcache 0
      if slotDirtyTreated sl then searchSlot i
      else
        errCapOpen pgHcache 1 i (0x7FFF * 2 ^ 16) 0 (2 ^ 32 - 1)
        invalidateSlot i

/-! ### Line accesses (09 R386-R388, 07 R308-R314) -/

/-- Displace the occupant of a slot (R388). False when the occupant's line is Busy (07 R309). -/
def evictSlot (i : Nat) : M Bool := do
  let s ← get
  let sl := slotOf s i
  if !slotV sl then pure true
  else if lineBusy s (lineOfLoc s (slotLoc sl i)) then
    incF R.HCACHE_NOFILL_CNT_CNT
    pure false
  else
    if slotD0 sl then ebPush ⟨slotLoc sl i, sl.data, none, false⟩
    invalidateSlot i
    pure true

/-- The stored bytes of a line from its words. -/
def storedLine (loc : Nat) (d : LineData) : List (BitVec 13) :=
  encodeQuad (foldWa (loc * 4)) (d.getD 0 Quad.zero) ++ encodeQuad (foldWa (loc * 4 + 1)) (d.getD 1 Quad.zero) ++
    encodeQuad (foldWa (loc * 4 + 2)) (d.getD 2 Quad.zero) ++ encodeQuad (foldWa (loc * 4 + 3)) (d.getD 3 Quad.zero)

/-- Put a line into its slot. -/
def fillSlot (loc : Nat) (bs : List (BitVec 13)) (dirty : Bool) : M Unit :=
  putSlot (slotIx loc) ⟨tagWord (locTag loc) true dirty, bs⟩

/-- Replace 16 stored bytes of a line. -/
def putWordIn (bs : List (BitVec 13)) (j : Nat) (w : List (BitVec 13)) : List (BitVec 13) :=
  bs.take (16 * j) ++ w ++ bs.drop (16 * j + 16)

def setSlotWord (i j : Nat) (w : List (BitVec 13)) : M Unit := do
  let sl := slotOf (← get) i
  putSlot i { sl with data := putWordIn sl.data j w }

/-- What reading a cached word yields (R404): a value, or the line must go and be read from memory (clean), or its tag
must be searched (dirty, ADDRESS). -/
inductive CacheRead where | value (q : Quad) | drop | search
  deriving DecidableEq, Repr

/-- Read word j of the line in a slot under R404. -/
def cacheReadWord (loc j : Nat) : M CacheRead := do
  let i := slotIx loc
  let sl := slotOf (← get) i
  let f := foldWa (loc * 4 + j)
  let w := slotWord sl j
  match classWord f w with
  | .clean => pure (.value (decodeQuad f w))
  | .poison => pure (.value Quad.poisoned)
  | .corrected =>
    incF R.HCACHE_DATA_CORR_CNT_CNT
    errCapOpen pgHcache 5 i (0x7FFF * 2 ^ 16) 0 (2 ^ 32 - 1)
    raise pgHcache 1
    setSlotWord i j (encodeQuad f (decodeQuad f w))
    pure (.value (decodeQuad f w))
  | .uncorr | .mixed =>
    incF R.HCACHE_DATA_UNCORR_CNT_CNT
    errCapOpen pgHcache 6 i (0x7FFF * 2 ^ 16) 0 (2 ^ 32 - 1)
    raise pgHcache 2
    if slotD0 sl then
      setSlotWord i j (List.replicate 16 poisonByte)
      pure (.value Quad.poisoned)
    else pure .drop
  | .address =>
    incF R.HCACHE_DATA_UNCORR_CNT_CNT
    errCapOpen pgHcache 6 i (0x7FFF * 2 ^ 16) 0 (2 ^ 32 - 1)
    raise pgHcache 2
    pure (if slotD0 sl then .search else .drop)

/-- Read the four words of a cached line, each word with its class; `none` when the line left the cache. -/
def cacheReadLine (loc : Nat) : M (Option LineData) := do
  let a ← cacheReadWord loc 0
  let b ← cacheReadWord loc 1
  let c ← cacheReadWord loc 2
  let d ← cacheReadWord loc 3
  let ws := [a, b, c, d]
  if ws.any (fun w => match w with | .search => true | _ => false) then
    runSearch (slotIx loc)
    pure none
  else if ws.any (fun w => match w with | .drop => true | _ => false) then
    invalidateSlot (slotIx loc)
    pure none
  else pure (some (ws.filterMap fun w => match w with | .value q => some q | _ => none))

/-- The words of an eviction-buffer entry or of stored bytes at a location. -/
def wordsOf (loc : Nat) (bs : List (BitVec 13)) : LineData :=
  (List.range 4).map fun j =>
    let w := (bs.drop (16 * j)).take 16
    let f := foldWa (loc * 4 + j)
    match classWord f w with
    | .clean | .corrected => decodeQuad f w
    | _ => Quad.poisoned

/-- An access that hits a WRITING entry waits until the write completes (07 R311). -/
def settleWriting (loc : Nat) : M Unit := do
  match ebFind (← get) loc with
  | some e => if e.writing.isSome then ebComplete e
  | none => pure ()

/-- Does the home cache hold the location? The tag of a damaged slot whose line a flow holds comes from the flow's record (R409). -/
def cacheHolds (s : State) (loc : Nat) : Bool :=
  let sl := slotOf s (slotIx loc)
  match slotDamaged sl, heldSlot s (slotIx loc) with
  | true, some f => curLoc s f.line == loc
  | _, _ => slotHolds sl loc

/-- Read a line that misses the cache: the eviction buffer, else memory; fill but under WA (R387, R394). -/
def readMiss (loc policy q t : Nat) : M LineData := do
  settleWriting loc
  match ebFind (← get) loc with
  | some e =>
    incF R.HCACHE_EBUF_HIT_CNT_CNT
    if policy != 2 then
      if ← evictSlot (slotIx loc) then
        ebDrop loc
        fillSlot loc e.data true
    pure (wordsOf loc e.data)
  | none =>
    incF R.HCACHE_MISS_CNT_CNT
    perf 4 (some q) (some t)
    let d ← memReadLine loc q
    if policy != 2 then
      if ← evictSlot (slotIx loc) then fillSlot loc (memLine (← get) loc) false
    pure d

/-- Read a line at a location for requester q and tenant t under a policy (R387, 07 R308). -/
def readLoc (loc policy q t : Nat) : M LineData := do
  checkSlot (slotIx loc)
  if cacheHolds (← get) loc then
    incF R.HCACHE_HIT_CNT_CNT
    perf 3 (some q) (some t)
    match ← cacheReadLine loc with
    | some d => pure d
    | none => readMiss loc policy q t
  else readMiss loc policy q t

/-- Write a whole line at a location (R387, "Full-line write"). A matching eviction-buffer entry is replaced. -/
def writeLoc (loc policy q t : Nat) (d : LineData) : M Unit := do
  checkSlot (slotIx loc)
  settleWriting loc
  let through := policy == 1 || policy == 2
  if cacheHolds (← get) loc then
    incF R.HCACHE_HIT_CNT_CNT
    perf 3 (some q) (some t)
    repairSlot loc
    fillSlot loc (storedLine loc d) (!through)
    if through then memWriteLine loc q d
  else if (ebFind (← get) loc).isSome then
    incF R.HCACHE_EBUF_HIT_CNT_CNT
    modify fun s => { s with ebuf := s.ebuf.map fun e => if e.loc == loc then { e with data := storedLine loc d } else e }
  else
    incF R.HCACHE_MISS_CNT_CNT
    perf 4 (some q) (some t)
    if policy == 2 then memWriteLine loc q d
    else if ← evictSlot (slotIx loc) then
      fillSlot loc (storedLine loc d) (!through)
      if through then memWriteLine loc q d
    else memWriteLine loc q d

/-- Merge enabled bytes into stored bytes of word j of a line (R397, R401). -/
def mergeBytes (loc j be : Nat) (qd : Quad) (bs : List (BitVec 13)) : List (BitVec 13) :=
  let f := foldWa (loc * 4 + j)
  let bytes := natToBytes 16 qd.bits.toNat
  (List.range 64).map fun i =>
    if i / 16 == j && be.testBit (i % 16) then
      (if qd.poison then poisonByte else storeByte (bytes.getD (i % 16) 0) (i % 16) f)
    else bs.getD i 0

/-- Write the enabled bytes of word j (R387, "WrPartial"). -/
def writePartial (loc policy j be q t : Nat) (qd : Quad) : M Unit := do
  checkSlot (slotIx loc)
  settleWriting loc
  if cacheHolds (← get) loc then
    incF R.HCACHE_HIT_CNT_CNT
    perf 3 (some q) (some t)
    repairSlot loc
    let sl := slotOf (← get) (slotIx loc)
    let through := policy == 1 || policy == 2
    putSlot (slotIx loc)
      ⟨tagWord (locTag loc) true (slotD0 sl || !through), mergeBytes loc j be qd sl.data⟩
    if through then
      perf 6 (some q) none
      memWriteBytes (loc * 4 + j) be qd
  else if (ebFind (← get) loc).isSome then
    incF R.HCACHE_EBUF_HIT_CNT_CNT
    modify fun s =>
      { s with ebuf := s.ebuf.map fun e => if e.loc == loc then { e with data := mergeBytes loc j be qd e.data } else e }
  else
    incF R.HCACHE_MISS_CNT_CNT
    perf 4 (some q) (some t)
    perf 6 (some q) none
    memWriteBytes (loc * 4 + j) be qd

/-- Replace word j of a line. -/
def setWordOf (d : LineData) (j : Nat) (w : Quad) : LineData := d.take j ++ [w] ++ d.drop (j + 1)

/-- Write back the result of an atomic on word j of a line just read (R387, "HAtom"). -/
def writeAtomWord (loc policy j q : Nat) (w : Quad) : M Unit := do
  let through := policy == 1 || policy == 2
  let s ← get
  if cacheHolds s loc then
    repairSlot loc
    let sl := slotOf (← get) (slotIx loc)
    putSlot (slotIx loc) ⟨tagWord (locTag loc) true (slotD0 sl || !through),
      putWordIn sl.data j (encodeQuad (foldWa (loc * 4 + j)) w)⟩
    if through then
      perf 6 (some q) none
      memWriteWord (loc * 4 + j) w
  else
    match ebFind s loc with
    | some _ => modify fun s => { s with ebuf := s.ebuf.map fun e =>
        if e.loc == loc then { e with data := putWordIn e.data j (encodeQuad (foldWa (loc * 4 + j)) w) } else e }
    | none =>
      perf 6 (some q) none
      memWriteWord (loc * 4 + j) w

/-- Read the home value of a line, at the copy readers meet. -/
def readHome (line : Line) (q t : Nat) : M LineData := do
  let s ← get
  readLoc (curLoc s line) (policyOf s line) q t

/-- Write a whole line home, at the LA (lines with owners are never FV). -/
def writeHome (line : Line) (q t : Nat) (d : LineData) : M Unit := do
  let s ← get
  writeLoc (laLoc s line) (policyOf s line) q t d

/-- A line of four poisoned words. -/
def poisonLine : LineData := [Quad.poisoned, Quad.poisoned, Quad.poisoned, Quad.poisoned]

/-! ### Frame-versioned bits (11 R477, R481) -/

def nvOf (s : State) (line : Line) : Bool := kvGet (fun _ => false) s.fv.nv line

/-- What an unlisted DIFF bit reads as: 1 in a region that took effect by an APPLY after the image load (R512). -/
def diffDflt (s : State) (line : Line) : Bool :=
  match fvRegion s line with | some r => s.fv.diffAll.contains r | none => false

def diffOf (s : State) (line : Line) : Bool := kvGet (diffDflt s) s.fv.diff line

def setNv (line : Line) (b : Bool) : M Unit := fun s =>
  ((), { s with fv := { s.fv with nv := kvSet (fun _ => false) s.fv.nv line b } })

def setDiff (line : Line) (b : Bool) : M Unit := fun s =>
  ((), { s with fv := { s.fv with diff := kvSet (diffDflt s) s.fv.diff line b } })

/-- Does a line change at the next flip of its region (R481)? -/
def lineChanges (s : State) (line : Line) : Bool :=
  match fvRegion s line with
  | some r => nvOf s line || (!(descOf s.active r).carry && diffOf s line)
  | none => false

/-- Does a line need carry (R481)? -/
def needsCarry (s : State) (line : Line) : Bool :=
  match fvRegion s line with
  | some r => (descOf s.active r).carry && !nvOf s line && diffOf s line
  | none => false

/-- Copy the current copy of a line into its other copy (11 R478, "Carry and pre-carry"). -/
def carryCopy (line : Line) : M Unit := do
  let s ← get
  let d ← readLoc (curLoc s line) 4 18 0
  let s ← get
  writeLoc (nextLoc s line) 4 18 0 d

end Sys2Proof.Machine
end

