-- ==== Sys2Proof/Machine/Mailbox.lean ====
section
/-! DEFINITION. The mailbox engine (14): slots and stamps, posting and taking, doorbells, outbound mailboxes and their
frames, the cargo pool, and what resets do to them. -/

namespace Sys2Proof.Machine

/-! ### Mailboxes -/

/-- The MBOX page of mailbox m, counted from 0x60, and its index there (R662). -/
def mbG (m : Nat) : Nat := m % 128 / 16
def mbK (m : Nat) : Nat := m % 16

/-- Is mailbox m held by this hub (R627)? -/
def holdsMbox (s : State) (m : Nat) : Bool := if pairOn s then m / 128 == hubNo s else decide (m < 128)

def mboxOf (s : State) (m : Nat) : Mbox := kvGet (fun _ => Mbox.empty) s.mboxes (m % 128)

/-- Change a mailbox; STAT.COUNT, FULL and PEND_ACK follow. -/
def setMbox (m : Nat) (f : Mbox → Mbox) : M Unit := do
  let b := f (mboxOf (← get) m)
  modify fun s => { s with mboxes := kvSet (fun _ => Mbox.empty) s.mboxes (m % 128) b }
  wrF (R.MBOX_STAT_COUNT (mbG m) (mbK m)) b.q.length
  wrF (R.MBOX_STAT_FULL (mbG m) (mbK m)) (b.q.length == 16).toNat
  wrF (R.MBOX_STAT_PEND_ACK (mbG m) (mbK m)) b.inFlight.toNat

def mbEn (s : State) (m : Nat) : Bool := getF s (R.MBOX_CTL_EN (mbG m) (mbK m)) == 1

def mbOut (s : State) (m : Nat) : Bool := getF s (R.MBOX_CTL_DIR (mbG m) (mbK m)) == 1

def mbIrq (m bit : Nat) : M Unit := raise (pgMbox (mbG m)) bit

/-- A stamp (R631). SRC: 0 agent, 1 configuration path, 2 fabric. -/
def mkStamp (tick epoch agent tenant src node : Nat) : BitVec 64 :=
  BitVec.ofNat 64 (tick % 2 ^ 32 + epoch % 256 * 2 ^ 32 + agent % 32 * 2 ^ 40 + tenant % 32 * 2 ^ 45 + src % 4 * 2 ^ 50 +
    node % 64 * 2 ^ 52)

def stampEpoch (w : BitVec 64) : Nat := w.toNat / 2 ^ 32 % 256
def stampTenant (w : BitVec 64) : Nat := w.toNat / 2 ^ 45 % 32
def stampSrc (w : BitVec 64) : Nat := w.toNat / 2 ^ 50 % 4

/-- Drop element i of a list. -/
def dropAt {α : Type} (l : List α) (i : Nat) : List α := l.take i ++ l.drop (i + 1)

/-- R633 step 3 with R634, R635, R648: 0 stored, 1 overwrote, 3 full. An inbound mailbox sets its doorbell bit (R640). -/
def postStore (m : Nat) (msg : Quad) (stamp : BitVec 64) : M Nat := do
  let s ← get
  let b := mboxOf s m
  let g := mbG m
  let k := mbK m
  let ring : M Unit := do
    let s ← get
    onlyIf (!mbOut s m) (ringDoorbell (getF s (R.MBOX_CTL_RX_TENANT g k)) (getF s (R.MBOX_CTL_DB_BIT g k)))
  if b.q.length < 16 then
    setMbox m fun b => { b with q := b.q ++ [⟨msg, stamp, false⟩] }
    ring
    pure 0
  else if getF s (R.MBOX_CTL_FULL_POL g k) = 0 then
    incF (R.MBOX_REJECT_CNT_CNT g k)
    mbIrq m 0
    pure 3
  else
    setMbox m fun b => { b with q := dropAt b.q (if b.inFlight then 1 else 0) ++ [⟨msg, stamp, false⟩] }
    wrF (R.MBOX_STAT_COLLISION g k) 1
    incF (R.MBOX_LOST_CNT_CNT g k)
    mbIrq m 1
    ring
    pure 1

/-! ### Outbound mailboxes (R648-R651) -/

/-- The 32 payload bytes of a POST frame (R649): the stamp carries SRC 0. -/
def postBytes (target : Nat) (sl : MSlot) : List Nat :=
  [1, target, sl.msg.poison.toNat, 0, 0, 0, 0, 0] ++
    natToBytes 8 (sl.stamp.toNat - stampSrc sl.stamp * 2 ^ 50) ++ natToBytes 16 sl.msg.bits.toNat

/-- The 8 payload bytes of an ACK frame (R649). -/
def ackBytes (target seq result : Nat) : List Nat := [2, target] ++ natToBytes 2 seq ++ [result, 0, 0, 0]

/-- Is a POST frame for mailbox m from node `src` refused (R650)? -/
def frameRefused (s : State) (m src : Nat) : Bool :=
  !holdsMbox s m || !mbEn s m || mbOut s m || getF s (R.MBOX_CTL_REMOTE_OK (mbG m) (mbK m)) == 0 ||
    (getF s (R.MBOX_CTL_SRC_NODE_EN (mbG m) (mbK m)) == 1 && getF s (R.MBOX_CTL_SRC_NODE (mbG m) (mbK m)) != src)

/-- A POST frame at its receiver (R650): the RESULT of its ACK. -/
def acceptPost (m src seq : Nat) (msg : Quad) (stamp : Nat) : M Nat := do
  let s ← get
  match kvGet (fun _ => none) s.mbxLast src with
  | some (n, r) =>
    if n = seq then pure r else acceptNew m src seq msg stamp
  | none => acceptNew m src seq msg stamp
where
  acceptNew (m src seq : Nat) (msg : Quad) (stamp : Nat) : M Nat := do
    let s ← get
    if frameRefused s m src then
      mbIrq m 5
      secEvent 5 (stampTenant (BitVec.ofNat 64 stamp)) src
      pure 2
    else
      -- The stamp is the sender's, its TICK too, but for SRC and NODE (DEDUCED, log 127).
      let r ← postStore m msg (BitVec.ofNat 64 (stamp % 2 ^ 50 + 2 * 2 ^ 50 + src % 64 * 2 ^ 52))
      if r = 3 then pure 1
      else
        modify fun s => { s with mbxLast := kvSet (fun _ => none) s.mbxLast src (some (seq, 0)) }
        pure 0

/-- Drop the oldest message of an outbound mailbox, counted when it is lost (R651). -/
def dropOldest (m : Nat) (lost : Bool) : M Unit := do
  setMbox m fun b => { b with q := b.q.drop 1, inFlight := false, sends := 0 }
  if lost then
    incF (R.MBOX_LOST_CNT_CNT (mbG m) (mbK m))
    mbIrq m 4

/-- Send the oldest message again or for the first time under SEQ `seq`. To this node itself the frame is delivered
here (R565): the RESULT of its ACK is answered. -/
def sendPost (m seq : Nat) : M (Option Nat) := do
  let s ← get
  match (mboxOf s m).q with
  | [] => pure none
  | sl :: _ =>
    let node := getF s (R.MBOX_REMOTE_NODE (mbG m) (mbK m))
    let target := getF s (R.MBOX_REMOTE_MBX (mbG m) (mbK m))
    if getF s R.FABRIC_STAT_ID_VALID = 1 && node = nodeId s then
      let r ← acceptPost target node seq sl.msg (sl.stamp.toNat - stampSrc sl.stamp * 2 ^ 50)
      pure (some r)
    else
      fRoute (mkFrame s 2 node seq (postBytes target sl)) none
      pure none

/-- What an ACK does to the message in flight (R651): stored frees it, refused discards it, full leaves it to the retry. -/
def ackResult (m r : Nat) : M Unit :=
  if r = 0 then dropOldest m false else if r = 2 then dropOldest m true else pure ()

/-- Send the next message of an outbound mailbox; `n` bounds the messages that are delivered to this node itself. -/
def sendNext (m : Nat) : Nat → M Unit
  | 0 => pure ()
  | n + 1 => do
    let s ← get
    let b := mboxOf s m
    if mbEn s m && mbOut s m && !b.inFlight && b.q != [] then
      let seq ← nextSeq 2 (getF s (R.MBOX_REMOTE_NODE (mbG m) (mbK m)))
      setMbox m fun b => { b with inFlight := true, seq := seq, sends := 1, sentAt := s.now }
      match ← sendPost m seq with
      | some r => ackResult m r; sendNext m n
      | none => pure ()

/-- A POST that passed its checks: stored, and an outbound mailbox sends (R633, R648). -/
def postTo (m : Nat) (msg : Quad) (stamp : BitVec 64) : M Nat := do
  let r ← postStore m msg stamp
  sendNext m 17
  pure r

/-! ### Taking (R636, R637, R644) -/

/-- Messages at the head that EPOCH_FILTER discards. -/
def staleHead (s : State) : List MSlot → Nat
  | [] => 0
  | sl :: t =>
    if stampSrc sl.stamp = 0 ∧ stampEpoch sl.stamp ≠ getF s (R.TENANT_STAT_EPOCH (stampTenant sl.stamp)) then
      staleHead s t + 1
    else 0

/-- Apply EPOCH_FILTER, then take the oldest message: the message, if any, and how many were skipped. -/
def takeFrom (m : Nat) : M (Option MSlot × Nat) := do
  let s ← get
  let g := mbG m
  let k := mbK m
  let n := if getF s (R.MBOX_CTL_EPOCH_FILTER g k) = 1 then staleHead s (mboxOf s m).q else 0
  if n > 0 then
    setMbox m fun b => { b with q := b.q.drop n }
    addF (R.MBOX_STALE_CNT_CNT g k) n
    mbIrq m 2
  match (mboxOf (← get) m).q with
  | [] => pure (none, n)
  | sl :: _ =>
    setMbox m fun b => { b with q := b.q.drop 1 }
    onlyIf sl.bad (errCap1 (pgMbox g) 1 m)
    pure (some { sl with msg := ⟨sl.msg.bits, sl.msg.poison || sl.bad⟩ }, n)

/-! ### The configuration path (R652) -/

/-- Post as a configuration-path sender (R632): RESULT of R652. -/
def svcPostMsg (m : Nat) (msg : Quad) : M Nat := do
  let s ← get
  if !holdsMbox s m || !mbEn s m || getF s (R.MBOX_CTL_SVC_OK (mbG m) (mbK m)) == 0 then pure 4
  else postTo m msg (mkStamp (tickNum s) 0 0 0 1 0)

/-- Take through SVC_CMD. -/
def svcTakeMsg (m : Nat) : M Nat := do
  let s ← get
  let g := mbG m
  let k := mbK m
  if !mbEn s m || mbOut s m then pure 4
  else
    match ← takeFrom m with
    | (none, _) => pure 2
    | (some sl, _) =>
      let x := sl.msg.bits.toNat
      wrF (R.MBOX_SVC_MSG0_MSG g k) x
      wrF (R.MBOX_SVC_MSG1_MSG g k) (x / 2 ^ 32)
      wrF (R.MBOX_SVC_MSG2_MSG g k) (x / 2 ^ 64)
      wrF (R.MBOX_SVC_MSG3_MSG g k) (x / 2 ^ 96)
      wrF (R.MBOX_SVC_STAMP_LO_STAMP g k) sl.stamp.toNat
      wrF (R.MBOX_SVC_STAMP_HI_STAMP g k) (sl.stamp.toNat / 2 ^ 32)
      wrF (R.MBOX_SVC_CMD_POISON g k) sl.msg.poison.toNat
      pure 0

/-- Execute a write of SVC_CMD. -/
def svcCmd (m v : Nat) : M Unit := do
  let g := mbG m
  let k := mbK m
  let s ← get
  if v.testBit 0 then
    let x := getF s (R.MBOX_SVC_MSG0_MSG g k) + getF s (R.MBOX_SVC_MSG1_MSG g k) * 2 ^ 32 +
      getF s (R.MBOX_SVC_MSG2_MSG g k) * 2 ^ 64 + getF s (R.MBOX_SVC_MSG3_MSG g k) * 2 ^ 96
    let r ← svcPostMsg m ⟨BitVec.ofNat 128 x, false⟩
    wrF (R.MBOX_SVC_CMD_RESULT g k) r
  if v.testBit 1 then
    let r ← svcTakeMsg m
    wrF (R.MBOX_SVC_CMD_RESULT g k) r

/-- The event message of a page that became pending (15 R705). -/
def eventMsg (s : State) (page : Nat) : Quad :=
  ⟨BitVec.ofNat 128 (page + hubNo s * 2 ^ 8 + (getReg s.regs (regKey page offIrqStat)).toNat * 2 ^ 16 +
    (getReg s.regs (regKey page 0x020)).toNat * 2 ^ 48 + (getReg s.regs (regKey page 0x02C)).toNat * 2 ^ 80), false⟩

/-- Post an event message to INTAGG.CTL.MBX (15 R704, R705); to a mailbox of the partner it crosses the pair link, and
whether that post failed there, which counts here, is a free value (log 3). -/
def postEvent (page : Nat) : M Unit := do
  let s ← get
  let m := getF s R.INTAGG_CTL_MBX
  if holdsMbox s m then
    let r ← svcPostMsg m (eventMsg s page)
    onlyIf (r = 3 || r = 4) (incF R.INTAGG_POST_FAIL_CNT_CNT)
  else if hasPartner s then
    sendPair (.msgOp 32 0 0 0 0x42 (m * 2 ^ 8) [eventMsg s page])
    let failed ← drawBool
    onlyIf failed (incF R.INTAGG_POST_FAIL_CNT_CNT)
  else incF R.INTAGG_POST_FAIL_CNT_CNT

/-! ### Resets of mailboxes (R646, R667) -/

/-- The reset operation of tenant t on this hub's mailboxes and doorbell word. -/
def mboxTenantReset (t : Nat) : M Unit := do
  each (List.range 128) fun m => do
    let g := mbG m
    let k := mbK m
    let s ← get
    if getF s (R.MBOX_CTL_RX_TENANT g k) = t && getF s (R.MBOX_CTL_RX_RESET g k) = 0 then
      addF (R.MBOX_DRAINED_CNT_CNT g k) (mboxOf s m).q.length
      setMbox m fun _ => Mbox.empty
      wrF (R.MBOX_STAT_COLLISION g k) 0
      mbIrq m 3
  wrF (R.TENANT_DB_WORD_BITS t) 0
  wrF (R.TENANT_DB_CTL_NOTIFIED t) 0

/-- A domain reset discards every message and clears every doorbell word and NOTIFIED. -/
def mboxDomainReset : M Unit := do
  each (List.range 128) fun m => setMbox m fun _ => Mbox.empty
  each (List.range 32) fun t => do
    wrF (R.TENANT_DB_WORD_BITS t) 0
    wrF (R.TENANT_DB_CTL_NOTIFIED t) 0

/-! ### The cargo pool (R653-R661) -/

def cargoGen (s : State) (i : Nat) : Nat := (kvGet (fun _ => (0 : BitVec 4)) s.cargo.gens i).toNat

def cargoOwner (s : State) (i : Nat) : Option Nat := kvGet (fun _ => none) s.cargo.owner i

def setCargo (f : Cargo → Cargo) : M Unit := fun s => ((), { s with cargo := f s.cargo })

def setOwner (i : Nat) (o : Option Nat) : M Unit :=
  setCargo fun c => { c with owner := kvSet (fun _ => none) c.owner i o }

/-- Change FREE and FREE_MIN; LOW when FREE falls below LOW_THR (R665). -/
def setFree (n : Nat) : M Unit := do
  let s ← get
  let old := getF s R.CARGO_FREE_N
  let thr := getF s R.CARGO_LOW_THR_N
  wrF R.CARGO_FREE_N n
  if n < getF s R.CARGO_FREE_MIN_N then wrF R.CARGO_FREE_MIN_N n
  if n < thr && thr ≤ old then raise pgCargo 3

def addHeld (t : Nat) (up : Bool) : M Unit := do
  let n ← rdF (R.TENANT_CARGO_HELD_N t)
  wrF (R.TENANT_CARGO_HELD_N t) (if up then n + 1 else n - 1)

/-- `CargoAlloc` (R654): the handle, or none when the pool is empty or the tenant's limit is reached. -/
def cargoTake (t : Nat) : M (Option Nat) := do
  let s ← get
  let head := if s.cargo.fresh < 4096 then some s.cargo.fresh else s.cargo.freed.head?
  match head with
  | none => cargoEmpty
  | some i =>
    if getF s R.CARGO_CTL_EN = 0 || decide (getF s (R.TENANT_CARGO_LIM_MAX t) ≤ getF s (R.TENANT_CARGO_HELD_N t)) then
      cargoEmpty
    else
      setCargo fun c => if c.fresh < 4096 then { c with fresh := c.fresh + 1 } else { c with freed := c.freed.drop 1 }
      setOwner i (some t)
      setFree (getF s R.CARGO_FREE_N - 1)
      addHeld t true
      incF R.CARGO_ALLOC_CNT_CNT
      pure (some (cargoGen s i * 4096 + i))
where
  cargoEmpty : M (Option Nat) := do
    incF R.CARGO_EMPTY_CNT_CNT
    raise pgCargo 2
    pure none

/-- Free a buffer (R657). -/
def cargoRelease (i t : Nat) : M Unit := do
  let s ← get
  setCargo fun c => { c with gens := kvSet (fun _ => 0) c.gens i (BitVec.ofNat 4 (cargoGen s i + 1)), freed := c.freed ++ [i] }
  setOwner i none
  setFree (getF s R.CARGO_FREE_N + 1)
  addHeld t false

/-- The checks of R655 with their records (R656): the code of the refusal. -/
def cargoCheck (handle t agent : Nat) : M (Option Nat) := do
  let s ← get
  let i := handle % 4096
  if getF s R.CARGO_CTL_EN = 0 || (cargoOwner s i).isNone || cargoGen s i != handle / 4096 then
    incF R.CARGO_STALE_CNT_CNT
    incF (R.TENANT_CARGO_ERR_CNT_CNT t)
    raise pgCargo 1
    pure (some 0x39)
  else
    match cargoOwner s i with
    | some o =>
      if o = t then pure none
      else
        incF R.CARGO_NOT_OWNER_CNT_CNT
        incF (R.TENANT_CARGO_ERR_CNT_CNT t)
        wrF R.CARGO_LAST_SEC_OFFENDER t
        wrF R.CARGO_LAST_SEC_OWNER o
        wrF R.CARGO_LAST_SEC_INDEX i
        raise pgCargo 0
        incF (R.TENANT_SEC_CNT_CNT o)
        if getF s (R.TENANT_DB_CTL_SEC_EN o) = 1 then ringDoorbell o (getF s (R.TENANT_DB_CTL_SEC_BIT o))
        secEvent 1 t agent
        pure (some 0x3A)
    | none => pure none

/-- SA line number of word w of buffer i, and its word in the line (R653). -/
def cargoLoc (i w : Nat) : Nat := (0x0FF00000 + 256 * i) / 64 + w / 4

/-- CARGO_READ of n words from word w on (R659). -/
def cargoWords (i t : Nat) : Nat → Nat → M LineData
  | _, 0 => pure []
  | w, n + 1 => do
    let d ← readLoc (cargoLoc i w) 0 19 t
    let r ← cargoWords i t (w + 1) n
    pure (d.getD (w % 4) Quad.zero :: r)

/-- CARGO_WRITE of words from word w on (R659). -/
def cargoPut (i t : Nat) : Nat → LineData → M Unit
  | _, [] => pure ()
  | w, q :: r => do
    writePartial (cargoLoc i w) 0 (w % 4) 0xFFFF 19 t q
    cargoPut i t (w + 1) r

/-- A tenant reset frees every buffer of the tenant (R661). -/
def cargoTenantReset (t : Nat) : M Unit := do
  let s ← get
  each (s.cargo.owner.filter fun e => e.2 == some t) fun e => do
    cargoRelease e.1 t
    incF R.CARGO_RECLAIM_CNT_CNT

/-! ### Answers of the mailbox engine -/

/-- An MSG request at the engine: who asked, its agent, tag, tenant and the epoch at its admission. -/
structure MsgReq where
  src : ReqSrc
  agent : Nat
  tag : Nat
  tenant : Nat
  epoch : Nat
  deriving DecidableEq, Repr

/-- Answer an MSG request, to its port or across the pair link. -/
def msgAnswer (r : MsgReq) (op spec : Nat) (data : LineData) : M Unit :=
  let m : Msg := ⟨op, r.tag, r.tenant, r.agent, 0, spec, 0, data⟩
  match r.src with
  | .port p => sendMsg p m
  | .pair a => toPartner (.answer a m)
  | _ => pure ()

/-- `MbxRsp`, `CargoRsp`, `CmpErr`. -/
def mbxRsp (r : MsgReq) (result : Nat) (data : LineData) : M Unit := msgAnswer r 0x4A result data
def cargoRsp (r : MsgReq) (spec : Nat) (data : LineData) : M Unit := msgAnswer r 0x4B spec data
def msgErr (r : MsgReq) (code : Nat) : M Unit := msgAnswer r 0x37 code []

end Sys2Proof.Machine
end

