-- ==== Sys2Proof/Machine/Flags.lean ====
section
/-! DEFINITION. Interrupt flags and lines: the deliveries of pages that became pending (15 R703-R706), and the form in
which every meaning ends. -/

namespace Sys2Proof.Machine

/-- The pages that are pending now (R703): only a page with a listed IRQ_STAT word can be. -/
def pendingPages (s : State) : List Nat :=
  (s.regs.filter fun e => e.1 % 4096 == offIrqStat && e.1 / 4096 != pgIntagg && isPending s (e.1 / 4096)).map fun e => e.1 / 4096

/-- The DB and MBX deliveries of a page that has become pending. -/
def deliverPage (page : Nat) : M Unit := do
  let s ← get
  if routeBit s page 2 then ringDoorbell (getF s R.INTAGG_CTL_MGMT_TEN) (getF s R.INTAGG_CTL_DB_BIT)
  if routeBit s page 3 then postEvent page
  if routeBit s page 1 then modify fun s => { s with alertAcked := false }

/-- Deliver the pages in `intQ`; a delivery can make another page pending. A page joins at most once here, so 256
rounds serve them all. -/
def deliverAll : Nat → M Unit
  | 0 => pure ()
  | n + 1 => do
    match (← get).intQ with
    | [] => pure ()
    | p :: t =>
      modify fun s => { s with intQ := t }
      deliverPage p
      deliverAll n

/-- Drive nIRQ and SMBALERT# in stage RUN (R704, R714): each is low while a page routed to it is pending, SMBALERT# but for the time from
an answered Alert Response Address until such a page next becomes pending (DEDUCED, log 129). INTAGG.LEVEL shows both (R710). -/
def driveLines : M Unit := do
  let s ← get
  let pages := pendingPages s
  let on := stage s == 4
  let n := on && pages.any fun p => routeBit s p 0
  let a := on && !s.alertAcked && pages.any fun p => routeBit s p 1
  wrF R.INTAGG_LEVEL_NIRQ n.toNat
  wrF R.INTAGG_LEVEL_ALERT a.toNat
  if n != s.nirqLow then
    modify fun s => { s with nirqLow := n }
    emitLand (.nirq n)
  if a != s.alertLow then
    modify fun s => { s with alertLow := a }
    emitLand (.alert a)

/-- The state in which an action ends. -/
def ran {α : Type} (m : M α) (s : State) : State := (m s).2

/-- What ends every command: the deliveries, then the lines. -/
def settle (s : State) : State := ran driveLines (ran (deliverAll 256) s)

/-- How every meaning ends: its action, the deliveries of interrupts, the lines, a next state. A meaning leaves the queue
of waiting commands as it is. -/
def finish (m : M Unit) (s : State) : Host.Outcome State Fault Refusal := .next { settle (ran m s) with pending := s.pending }

end Sys2Proof.Machine
end

