-- ==== Sys2Proof/Machine/Directory.lean ====
section
/-! DEFINITION. The snoop filter (08): sets, entries with their protection, victim choice, and what each detected fault
starts. -/

namespace Sys2Proof.Machine

/-- SET[14:0] of a line (R341). -/
def setOf (line : Line) : Nat := Nat.xor (line % 32768) (line / 32768 % 512)

/-- TAG of a line (R342). -/
def tagOfLine (line : Line) : Nat := line / 32768 % 512

/-- The line of a set and a tag (R342). -/
def lineOfEntry (set tag : Nat) : Line := tag * 32768 + Nat.xor set tag

/-- The place of an entry: its entry address {SET, WAY} (R344). -/
def entryKey (set way : Nat) : Nat := set * 16 + way

/-- The six body bytes as stored bytes. -/
def bodyBytes (e : DirEntry) : List (BitVec 13) :=
  (List.range 6).map fun k =>
    BitVec.ofNat 13 (e.body.toNat / 2 ^ (8 * k) % 256 + 256 * (e.chk.toNat / 2 ^ (5 * k) % 32))

/-- Check bits of a 48-bit body at an entry address (R344). -/
def bodyCheck (key body : Nat) : Nat :=
  (List.range 6).foldl (fun a k => a + checkBits (body / 2 ^ (8 * k) % 256) k (foldWa key) * 2 ^ (5 * k)) 0

/-- An entry with good parity and code (R343). -/
def mkEntry (key tag dstate v id : Nat) : DirEntry :=
  let body := v + dstate * 2 ^ 32 + id * 2 ^ 40
  ⟨BitVec.ofNat 9 tag, parityN tag 9, BitVec.ofNat 48 body, BitVec.ofNat 30 (bodyCheck key body)⟩

/-- A free way: what an unlisted entry reads as (R354, R380). -/
def freeEntry (key : Nat) : DirEntry := mkEntry key 0 0 0 0

def entryAt (s : State) (key : Nat) : DirEntry := kvGet freeEntry s.dir key

def putEntry (key : Nat) (e : DirEntry) : M Unit := fun s => ((), { s with dir := kvSet freeEntry s.dir key e })

/-- The entry of a stable state (R345). -/
def encodeState (key tag : Nat) : DState → DirEntry
  | .untracked => freeEntry key
  | .shared v => mkEntry key tag 1 v.toNat 0
  | .owned o => mkEntry key tag 2 (2 ^ o) o
  | .forwarder f v => mkEntry key tag 3 v.toNat f

/-- DSTATE code of a Busy state (05 R222). -/
def busyCode : Busy → Nat
  | .read => 8 | .own => 9 | .wb => 10 | .lock => 11 | .commit => 12

/-- A vector with an agent removed. -/
def vDrop (v : BitVec 32) (a : Nat) : BitVec 32 := v &&& ~~~(BitVec.ofNat 32 (2 ^ a))

def vAdd (v : BitVec 32) (a : Nat) : BitVec 32 := v ||| BitVec.ofNat 32 (2 ^ a)

/-- The agents of a vector. -/
def vList (v : BitVec 32) : List Nat := (List.range 32).filter fun a => v.getLsbD a

def sharedOr (v : BitVec 32) : DState := if v = 0 then .untracked else .shared v

/-- R228, R240: an agent leaves the entry. -/
def dropAgent (a : Nat) : DState → DState
  | .untracked => .untracked
  | .shared v => sharedOr (vDrop v a)
  | .owned o => if o = a then .untracked else .owned o
  | .forwarder f v => if f = a then sharedOr (vDrop v a) else .forwarder f (vDrop v a)

/-- The agents an entry names. -/
def members : DState → List Nat
  | .untracked => []
  | .shared v => vList v
  | .owned o => [o]
  | .forwarder _ v => vList v

/-- What a read of a way's stored bits finds (R345, R360). -/
inductive WayRead where
  | free | freeFault (code : Nat)
  | stable (tag : Nat) (st : DState)
  | busy
  | fault (tagBad : Bool) (tag : Nat) (body : Option DState) (code : Nat)
  deriving DecidableEq, Repr

/-- The stable state a body encodes, if consistent (R345). -/
def bodyState (body : Nat) : Option DState :=
  let v := body % 2 ^ 32
  let ds := body / 2 ^ 32 % 16
  let id := body / 2 ^ 40 % 32
  let resv := body / 2 ^ 36 % 16 + body / 2 ^ 45 % 8
  if resv ≠ 0 then none
  else if ds = 0 then (if v = 0 ∧ id = 0 then some .untracked else none)
  else if ds = 1 then (if v ≠ 0 ∧ id = 0 then some (.shared (BitVec.ofNat 32 v)) else none)
  else if ds = 2 then (if v = 2 ^ id then some (.owned id) else none)
  else if ds = 3 then (if v.testBit id then some (.forwarder id (BitVec.ofNat 32 v)) else none)
  else none

/-- Is a body consistent for a way that a flow holds, where a Busy DSTATE is (R345)? -/
def bodyFine (body : Nat) : Bool :=
  (bodyState body).isSome || (decide (8 ≤ body / 2 ^ 32 % 16 ∧ body / 2 ^ 32 % 16 ≤ 12) &&
    body / 2 ^ 36 % 16 + body / 2 ^ 45 % 8 == 0)

/-- The class of a stored body and its corrected value (R344, R361). -/
def bodyRead (key : Nat) (e : DirEntry) : WClass × Nat :=
  let f := foldWa key
  (classSyn (syndromes f 0 (bodyBytes e)), bytesToNat (correctBytes f 0 (bodyBytes e)))

def tagParityBad (e : DirEntry) : Bool := parityN e.tag.toNat 9 != e.tpar

/-- Read one way that no flow holds. Codes are those of R378. -/
def readWay (key : Nat) (e : DirEntry) : WayRead :=
  let (c, body) := bodyRead key e
  let ds := body / 2 ^ 32 % 16
  if c = .clean ∨ c = .corrected then
    match bodyState body with
    | some .untracked => .free
    | some st => if tagParityBad e then .fault true e.tag.toNat (some st) 1 else .stable e.tag.toNat st
    | none =>
      if ds = 0 ∧ body % 2 ^ 32 = 0 ∧ body / 2 ^ 40 % 32 = 0 then .freeFault 5
      else .fault (tagParityBad e) e.tag.toNat none 5
  else
    let code := if c = .address then 4 else 3
    if e.body.toNat / 2 ^ 32 % 16 = 0 ∧ e.body.toNat % 2 ^ 32 = 0 ∧ e.body.toNat / 2 ^ 40 % 32 = 0 then .freeFault code
    else .fault (tagParityBad e) e.tag.toNat none code

/-- The flow that holds a way (R348). -/
def wayHolder (s : State) (set way : Nat) : Option Flow :=
  s.flows.find? fun f => f.way == some way && setOf f.line == set

/-- Does the lock registry hold a way (R348) whose flow a halt has stopped (15 R677)? -/
def lockWay (s : State) (set way : Nat) : Bool :=
  s.kept.any fun f => f.busy == .lock && f.way == some way && setOf f.line == set &&
    s.locks.any fun e => match e.2 with
      | some l => l.line == f.line
      | none => false

/-- Is a way held (R348)? -/
def wayHeld (s : State) (set way : Nat) : Bool := (wayHolder s set way).isSome || lockWay s set way

/-- A damaged way whose action has started or waits: it takes no part until the action ends (R364). -/
def wayDamaged (s : State) (set way : Nat) : Bool :=
  (match s.recov with | some r => r.set == set && r.way == way | none => false) ||
    s.recovWait.any (fun r => r.set == set && r.way == way) ||
    (s.flows.any fun f => f.req.op == .repair && f.req.word == way && setOf f.line == set) ||
    ((s.chain ++ s.arb.waiting).any fun r => r.op == .repair && r.word == way && setOf r.line == set)

/-- The state of a way as a lookup sees it: nothing for a held or damaged way. -/
def viewWay (s : State) (set way : Nat) : Option WayRead :=
  if wayHeld s set way || wayDamaged s set way then none
  else some (readWay (entryKey set way) (entryAt s (entryKey set way)))

/-- The stable way that records a line. -/
def lookup (s : State) (line : Line) : Option (Nat × DState) :=
  (List.range 16).findSome? fun w =>
    match viewWay s (setOf line) w with
    | some (.stable tag st) => if tag == tagOfLine line then some (w, st) else none
    | _ => none

/-- The directory state of a line that no flow holds. -/
def dirState (s : State) (line : Line) : DState :=
  match lookup s line with | some (_, st) => st | none => .untracked

/-- Is the line of a set in recovery now (R366, R367)? -/
def inRecovery (s : State) (set : Nat) : Bool :=
  match s.recov with | some r => r.set == set | none => false

/-- Agents of the domain whose port may hold lines: local ports in ACTIVE, RETRAIN or PROTO_ERR, and the partner's
agents while it is joined (R365, R366). -/
def liveAgents (s : State) : List Nat :=
  ((List.range 16).filter (portUp s)).map (agentOf s) ++
    (if hasPartner s then (List.range 16).map (fun p => p + 16 * (1 - hubNo s)) else [])

/-- The agents that a recovery with a damaged body flushes: every live agent, and those already dead, which count as flushed agents
declared dead during it (R366, R382). -/
def flushAgents (s : State) : List Nat :=
  (List.range 32).filter fun a => (liveAgents s).contains a || (getF s R.GLOBAL_DEAD_IDS).testBit a

/-- A fresh request of an engine. -/
def engineReq (s : State) (q : Nat) (op : ReqOp) (line word be : Nat) (data : LineData) : Req :=
  { id := s.nextId, src := .eng q, op := op, tag := 0, tenant := 0, agent := 32, aa := 0, line := line, word := word,
    flag := false, be := be, data := data, arrived := s.now, granted := s.now, stampTick := tickNum s, stampOff := s.tick.offset,
    rounds := 0, starved := false, fwd := false, gone := false, void := false }

/-- A flow record at its start. -/
def newFlow (r : Req) (busy : Busy) (phase : Phase) (way : Option Nat) (orig before : DState) : Flow :=
  { req := r, line := r.line, busy := busy, phase := phase, way := way, orig := orig, before := before, pend := [],
    wbp := [], kept := [], got := none, relayed := false, hit := false, conv := false, tentative := none,
    answered := false }

/-- Count a new recovery and note it (R366); only one set at a time. Agents already dead count as flushed and dead
(R382). -/
def startRecovery (r : Recovery) : M Unit := do
  let s ← get
  match s.recov with
  | some _ => modify fun s => { s with recovWait := s.recovWait ++ [r] }
  | none =>
    modify fun s => { s with recov := some r }
    wrF R.DIR_RECOVERY_BUSY 1
    wrF R.DIR_RECOVERY_SET r.set
    raise pgDir 3

/-- The repair flow of a damaged body (R365): the line counts as held by it from this read; on a Busy line it joins
the chain, or while that is full it waits in arbitration (07 R301). A flow that waits for a way of the line is not Busy yet: it goes
into the chain behind the repair flow. `word` of the request is the way. -/
def startRepair (set way tag : Nat) : M Unit := do
  let s ← get
  let line := lineOfEntry set tag
  let r := engineReq s 21 .repair line way 0 []
  let queued := flowOf s line |>.filter fun f => f.phase == .alloc
  let busy := (lineBusy s line && queued.isNone) || (queued.isNone && s.chain.any (fun x => x.line == line))
  modify fun s => { s with nextId := s.nextId + 1 }
  if busy && decide (1024 ≤ s.chain.length) then modify fun s => { s with arb := { s.arb with waiting := s.arb.waiting ++ [r] } }
  else
    engineTurn qWeevil
    if busy then modify fun s => { s with chain := s.chain ++ [r] }
    else
      modify fun s => { s with
        flows := s.flows.filter (fun f => f.line != line) ++ [newFlow r .own .search (some way) .untracked .untracked],
        chain := (match queued with | some f => [f.req] | none => []) ++ s.chain }
    maxF R.GLOBAL_CHAIN_MAX (← get).chain.length

/-- Record a directory fault (R345, R361, R364, R378). -/
def dirError (set way src code : Nat) : M Unit := do
  errCap pgDir code (entryKey set way) src
  if code = 1 then
    incF R.DIR_TAG_PAR_CNT_CNT
    raise pgDir 0
  else if code = 2 then
    incF R.DIR_CODE_CORR_CNT_CNT
    raise pgDir 1
  else
    incF R.DIR_CODE_UNCORR_CNT_CNT
    raise pgDir 2

/-- Inject a fault of a kind into a way (R376). Which body bit or bits are inverted is left open. -/
def injectFault (key kind : Nat) : M Unit := do
  let e := entryAt (← get) key
  if kind = 0 then putEntry key { e with tpar := !e.tpar }
  else
    let w := (← drawWord).toNat
    let i := w / 48 % 8
    putEntry key { e with body := e.body ^^^ BitVec.ofNat 48 (if kind = 1 then 2 ^ (w % 48)
      else 2 ^ (8 * (w % 6) + i) + 2 ^ (8 * (w % 6) + (i + 1 + w / 384 % 7) % 8)) }

/-- The faults that wait for a way are injected at this read of it (R376). -/
def takeInject (key : Nat) : M Unit := do
  let s ← get
  let due := s.inject.filter fun x => x.1 == key
  if due != [] then
    modify fun s => { s with inject := s.inject.filter fun x => x.1 != key }
    each due fun x => injectFault key x.2

/-- Check one way of a set read from source `src` (R360-R364). -/
def checkWay (set src way : Nat) : M Unit := do
  let key := entryKey set way
  takeInject key
  let s ← get
  let e := entryAt s key
  let (c, body) := bodyRead key e
  if wayDamaged s set way || wayHeld s set way then
    -- R360, R362: recorded and counted; nothing starts, and step 7 or the action that runs rewrites the entry.
    if tagParityBad e then dirError set way src 1
    if c = .corrected then
      dirError set way src 2
      putEntry key { e with body := BitVec.ofNat 48 body, chk := BitVec.ofNat 30 (bodyCheck key body) }
    else if c ≠ .clean then dirError set way src (if c = .address then 4 else 3)
    else onlyIf (!bodyFine body) (dirError set way src 5)
  else
    if c = .corrected then
      dirError set way src 2
      putEntry key { e with body := BitVec.ofNat 48 body, chk := BitVec.ofNat 30 (bodyCheck key body) }
    match readWay key e with
    | .free | .stable _ _ | .busy => pure ()
    | .freeFault code =>
      dirError set way src code
      putEntry key (freeEntry key)
    | .fault tagBad tag st code =>
      if tagBad then dirError set way src 1
      if st.isNone then dirError set way src code
      if tagBad then
        let agents := match st with | some d => members d | none => flushAgents s
        startRecovery ⟨set, way, agents, [], false, (match st with | some (.owned o) => some o | _ => none), st.isNone, false, src⟩
      else startRepair set way tag

/-- Read a set: check its 16 ways (R360). -/
def checkSet (set src : Nat) : M Unit := each (List.range 16) (checkWay set src)

/-- One step of the LFSR (R350). -/
def lfsrStep (x : Nat) : Nat :=
  let fb := xor (x.testBit 15) (xor (x.testBit 13) (xor (x.testBit 12) (x.testBit 10)))
  (x * 2 + fb.toNat) % 65536

/-- Ways from `start` on, counting upwards modulo 16. -/
def waysFrom (start : Nat) : List Nat := (List.range 16).map fun i => (start + i) % 16

/-- What an allocation takes (R352): a free way, or a victim with its line and state. -/
inductive Alloc where | none | free (way : Nat) | victim (way : Nat) (line : Line) (st : DState)
  deriving DecidableEq, Repr

def chooseWay (s : State) (set : Nat) : Alloc :=
  match (List.range 16).find? fun w => viewWay s set w == some .free with
  | some w => .free w
  | .none =>
    match (waysFrom (lfsrStep (getF s R.DIR_LFSR_STATE_S) % 16)).findSome? fun w =>
        match viewWay s set w with
        | some (.stable tag st) =>
          let line := lineOfEntry set tag
          if lineBusy s line then Option.none else some (w, line, st)
        | _ => Option.none with
    | some (w, line, st) => .victim w line st
    | .none => .none

/-- Take a way for a flow that needs one: the LFSR steps when a way is taken (R351). A free way is known from the read that
came before; to look for a victim the set is read again unless `read` says that it has been (R360, R378). -/
def takeWay (set : Nat) (read : Bool) : M Alloc := do
  let s ← get
  if !read && !((List.range 16).any fun w => viewWay s set w == some .free) then checkSet set 1
  let s ← get
  if inRecovery s set then pure .none
  else
    match chooseWay s set with
    | .none => pure .none
    | a =>
      wrF R.DIR_LFSR_STATE_S (lfsrStep (getF s R.DIR_LFSR_STATE_S))
      incF R.DIR_ALLOC_CNT_CNT
      match a with
      | .victim _ _ _ => incF R.DIR_VICTIM_CNT_CNT
      | _ => pure ()
      pure a

/-- Ways of a set in Busy-Lock (R349), those whose victim is still being freed for a `LkRd` among them. -/
def lockWays (s : State) (set : Nat) : Nat :=
  s.flows.countP fun f => setOf f.line == set && f.busy == .lock && (f.way.isSome || f.phase == .victim)

/-- DIR.USED.ENTRIES: ways not free (R376). -/
def usedEntries (s : State) : Nat :=
  let stored := s.dir.countP fun e => readWay e.1 e.2 != .free && (wayHolder s (e.1 / 16) (e.1 % 16)).isNone
  stored + s.flows.countP (fun f => f.way.isSome)

/-- Step 7: write the whole entry of a flow's way (R346, R362). -/
def writeEntry (line : Line) (way : Nat) (st : DState) : M Unit := do
  let key := entryKey (setOf line) way
  if tagParityBad (entryAt (← get) key) then incF R.DIR_TAG_REPAIR_CNT_CNT
  putEntry key (encodeState key (tagOfLine line) st)

/-- Write the Busy state into a flow's entry at its grant (R346). -/
def writeBusy (line : Line) (way : Nat) (b : Busy) (st : DState) : M Unit := do
  let key := entryKey (setOf line) way
  let id := match st with | .owned o => o | .forwarder f _ => f | _ => 0
  let v := match st with | .shared v => v.toNat | .owned o => 2 ^ o | .forwarder _ v => v.toNat | .untracked => 0
  putEntry key (mkEntry key (tagOfLine line) (busyCode b) v id)

end Sys2Proof.Machine
end

