-- ==== Sys2Proof/Machine/Flow.lean ====
section
/-! DEFINITION. Flows at home (05 R227-R242, 07 R296-R328, 08 R346-R357): snoops, starts, completions, early data, locks
and the wait edges of the Mantis. -/

namespace Sys2Proof.Machine

/-! ### Answers -/

/-- Requester number of a request (10 R433). -/
def reqNo (r : Req) : Nat := match r.src with | .port p => p | .pair _ => 16 | .pairEng _ => 17 | .eng q => q

/-- Is the request one of an agent, and so of a tenant? -/
def ofAgent (r : Req) : Bool :=
  match r.src with
  | .port _ => true
  | .pair _ => true
  | _ => false

/-- Answer a request: to its port, over the pair link, or to no one (an engine, or an agent that is gone). -/
def answer (r : Req) (op spec : Nat) (data : LineData) : M Unit := do
  if r.gone then pure ()
  else
    let m : Msg := ⟨op, r.tag, r.tenant, r.agent, r.aa, spec, 0, data⟩
    match r.src with
    | .port p => sendMsg p m
    | .pair a => toPartner (.answer a m)
    | .pairEng q => toPartner (.engineAnswer q data)
    | .eng _ => pure ()

/-- `CmpErr` with a code of 15 R672. -/
def answerErr (r : Req) (code : Nat) : M Unit := answer r 0x37 code []

/-! ### Snoops (04 R164, 05 R209) -/

def snpOp : SnpKind → Nat
  | .snpS => 0x20 | .snpInv => 0x21 | .snpFwdS => 0x22 | .snpFwdU => 0x23 | .snpFlushSet => 0x24

/-- The message of a snoop (04 R161, 05 R212). -/
def snoopMsg (s : State) (p sid : Nat) (sn : Snoop) : Msg :=
  ⟨snpOp sn.kind, sid, 0, 0,
    (if sn.kind = .snpFlushSet then 0 else (transHa s p (sn.line * 64)).getD 0),
    (if sn.resnooped then 1 else 0) + (if sn.noData then 2 else 0),
    (if sn.kind = .snpFlushSet then sn.set else 0), []⟩

/-- A SNOOP_ID of the port that is free. -/
def freeSid (pt : Port) : Option Nat := (List.range 64).find? fun i => (snoopOf pt i).isNone

/-- Issue a snoop at a local port: with a free SNOOP_ID at once, else when one is free (R164). -/
def issueSnoop (p : Nat) (sn : Snoop) : M Unit := do
  let s ← get
  match freeSid (portOf s p) with
  | some i =>
    setSnoop p i (some { sn with sent := s.now, dl := ns10 (getF s (R.APORT_SNP_DL_NS10 p)), first := s.now })
    setPort p fun pt => { pt with issued := kvSet (fun _ => false) pt.issued i true }
    sendMsg p (snoopMsg s p i sn)
  | none => setPort p fun pt => { pt with snpWait := pt.snpWait ++ [sn] }

/-- A SNOOP_ID is free again: a snoop that waits for one goes. -/
def retireSnoop (p sid : Nat) : M Unit := do
  setSnoop p sid none
  match (portOf (← get) p).snpWait with
  | sn :: t =>
    setPort p fun pt => { pt with snpWait := t }
    issueSnoop p sn
  | [] => pure ()

/-- Send a snoop to an agent. True when an answer is awaited. A dead agent is answered for at once (15 R683); a port
that is not up, or whose windows do not reach the line, holds nothing and counts as RspI (log 10). -/
def sendSnoop (a : Nat) (kind : SnpKind) (line : Line) (noData : Bool) (set : Nat) : M Bool := do
  let s ← get
  if isDead s a then pure false
  else
    match portOfAgent s a with
    | some p =>
      if portUp s p && (kind == .snpFlushSet || (transHa s p (line * 64)).isSome) then
        issueSnoop p ⟨kind, line, noData, 0, 0, 0, false, false, false, set⟩
        pure true
      else pure false
    | none =>
      if hasPartner s then
        toPartner (.snoop a kind (if kind == .snpFlushSet then set else line * 64) noData)
        pure true
      else pure false

/-! ### Flow records -/

def putFlow (f : Flow) : M Unit := modify fun s =>
  { s with flows := s.flows.map fun g => if g.line == f.line then f else g }

def addFlow (f : Flow) : M Unit := modify fun s => { s with flows := s.flows ++ [f] }

def dropFlow (line : Line) : M Unit := modify fun s => { s with flows := s.flows.filter fun g => g.line != line }

/-- The profile of the domain: 1 is Profile F (05 R250). -/
def profileF (s : State) : Bool := getF s R.GLOBAL_COH_PROFILE == 1

/-- CAP.FWD=1 and CAP.VER=0b10 of a local port (R178, R232). -/
def capFwd (s : State) (p : Nat) : Bool := getF s (R.APORT_CAP_FWD p) == 1 && getF s (R.APORT_CAP_VER p) == 2

/-- May the requester be made forwarder (R232)? Its port's capability is that of the request's arrival; the partner sends that of
its agent with the request (log 66). -/
def eligible (s : State) (r : Req) : Bool := profileF s && (fvRegion s r.line).isNone && r.fwd

/-- Is the operation one issued from I, so that R228 removes the requester first? -/
def fromI : ReqOp → Bool
  | .rdS | .rdU | .rdOnce | .lkRd | .wrFull | .wrPartial | .fetchAdd | .swap | .cmpSwap => true
  | _ => false

/-- The Busy state of an operation (05 R222). -/
def busyOf : ReqOp → Busy
  | .rdS | .rdOnce => .read
  | .wrBack => .wb
  | .lkRd => .lock
  | .commitInv | .preInv | .preCarry => .commit
  | _ => .own

/-- Is the line in a UC region (05 R243)? -/
def isUc (s : State) (line : Line) : Bool := policyOf s line == 3

/-- The snoops that a flow sends for the state it read (05 R231-R241, 08 R355, R365, 11 R485): agent, kind, NODATA. -/
def snoopsFor (s : State) (f : Flow) : List (Nat × SnpKind × Bool) :=
  let inv := fun (as : List Nat) => as.map fun a => (a, SnpKind.snpInv, false)
  if f.req.op == .repair then inv (liveAgents s)
  else if isUc s f.line then []
  else
    match f.req.op with
    | .rdS =>
      match f.before with
      | .owned o => [(o, .snpS, false)]
      | .forwarder g _ => if eligible s f.req then [(g, .snpFwdS, f.hit)] else []
      | _ => []
    | .rdOnce => match f.before with | .owned o => [(o, .snpS, false)] | _ => []
    | .rdU =>
      match f.before with
      | .forwarder g v => inv (vList (vDrop v g)) ++ [(g, if f.hit then .snpInv else .snpFwdU, false)]
      | st => inv (members st)
    | .upg =>
      if f.conv then
        match f.before with
        | .forwarder g v => inv (vList (vDrop v g)) ++ [(g, if f.hit then .snpInv else .snpFwdU, false)]
        | st => inv (members st)
      else inv ((members f.before).filter fun a => a != f.req.agent)
    | .wrFull | .wrPartial | .fetchAdd | .swap | .cmpSwap | .lkRd =>
      if (fvRegion s f.line).isSome then [] else inv (members f.before)
    | .commitInv | .preInv | .backInv | .retire => inv (members f.before)
    | _ => []

/-! ### Early data (07 R315-R328) -/

def trackerOf (s : State) (p tag : Nat) : Option Tracker := s.trackers.find? fun t => t.port == p && t.tag == tag

def dropTracker (p tag : Nat) : M Unit := modify fun s =>
  { s with trackers := s.trackers.filter fun t => !(t.port == p && t.tag == tag) }

/-- Is the flow marked "offered" in the table of R315? -/
def edataOffered (s : State) (f : Flow) : Bool :=
  match f.req.op, f.before with
  | .rdS, .owned _ => (fvRegion s f.line).isNone
  | .rdU, .shared _ => true
  | .rdU, .owned _ => true
  | .rdU, .forwarder _ _ => f.hit
  | _, _ => false

/-- The conditions of R315 on a local port. -/
def edataPortOk (s : State) (p : Nat) : Bool :=
  let pt := portOf s p
  getF s (R.APORT_CAP_EDATA p) == 1 && lstate s p == 4 &&
    !((List.range 64).any fun i => match snoopOf pt i with | some sn => sn.resnooped | none => false) &&
    decide ((s.trackers.countP fun t => !t.withheld && t.port == p) < 8) && decide ((s.trackers.countP (!·.withheld)) < 64) &&
    decide (pt.creditPinned < creditOf pt.link 4)

/-- The completion opcode a read flow ends with when its data is confirmed. -/
def readCmpOp (s : State) (f : Flow) : Nat :=
  match f.req.op with
  | .rdU => 0x31
  | .rdS => if eligible s f.req then 0x33 else 0x30
  | _ => 0x30

/-- Offer early data for a flow whose snoops are out: read the tentative data and send `EDATA` (R315-R318). -/
def offerEdata (line : Line) : M Unit := do
  let s ← get
  match flowOf s line with
  | none => pure ()
  | some f =>
    if !edataOffered s f then pure ()
    else if f.pend == [] then incF R.GLOBAL_EDATA_WITHHELD_CNT_CNT
    else
      match f.req.src with
      | .port p =>
        if !edataPortOk s p then incF R.GLOBAL_EDATA_WITHHELD_CNT_CNT
        else
          let d ← readHome line (reqNo f.req) f.req.tenant
          if d.any (·.poison) then incF R.GLOBAL_EDATA_WITHHELD_CNT_CNT
          else
            let s ← get
            putFlow { f with tentative := some d }
            modify fun s' => { s' with trackers := s'.trackers ++
              [⟨p, f.req.tag, false, s.now, 10 * getF s R.GLOBAL_EDATA_CTL_WAIT, d, false, readCmpOp s f, false⟩] }
            setPort p fun pt => { pt with creditPinned := pt.creditPinned + 1 }
            incF R.GLOBAL_EDATA_SENT_CNT_CNT
            sendMsg p ⟨0x3A, f.req.tag, f.req.tenant, f.req.agent, f.req.aa, 0, 0, d⟩
      | .pair a =>
        -- R318: the home hub sends EDATA and its verdict across the pair link; the tracker is the partner's.
        let d ← readHome line 16 f.req.tenant
        if d.any (·.poison) then incF R.GLOBAL_EDATA_WITHHELD_CNT_CNT
        else
          putFlow { f with tentative := some d }
          toPartner (.edata a f.req.tag f.line d)
      | _ => pure ()

/-- The agent of a request sends ECANX with a reason (R323) and counts it. -/
def sendEcanx (p tag tenant agent aa reason : Nat) : M Unit := do
  if reason = 0 then incF R.GLOBAL_ECANX_DATA_CNT_CNT
  else if reason = 1 then incF R.GLOBAL_ECANX_TMO_CNT_CNT
  else incF R.GLOBAL_ECANX_OTHER_CNT_CNT
  sendMsg p ⟨0x3C, tag, tenant, agent, aa, reason, 0, []⟩

/-- The completion of a read with its verdict (R319-R321): without early data the completion; confirmed, ECONF or after
a TIMEOUT the completion with the held data; cancelled, ECANX DATA then the completion. -/
def answerRead (f : Flow) (op : Nat) (d : LineData) : M Unit := do
  match f.tentative with
  | none => answer f.req op 0 d
  | some td =>
    let confirm := td == d
    match f.req.src with
    | .pair a =>
      toPartner (.verdict a f.req.tag f.line confirm 0)
      if !confirm then answer f.req op 0 d
    | .port p =>
      match trackerOf (← get) p f.req.tag with
      | none => answer f.req op 0 d
      | some t =>
        dropTracker p f.req.tag
        if t.timedOut then answer f.req op 0 d
        else if confirm then
          incF R.GLOBAL_ECONF_CNT_CNT
          answer f.req 0x3B 0 []
        else
          sendEcanx p f.req.tag f.req.tenant f.req.agent f.req.aa 0
          answer f.req op 0 d
    | _ => answer f.req op 0 d

/-- A flow or chained request that ends in an error: ECANX ERROR first when early data is out (R319, R339, R340). -/
def cancelEdata (r : Req) (reason : Nat) : M Unit := do
  match r.src with
  | .port p =>
    match trackerOf (← get) p r.tag with
    | some t =>
      dropTracker p r.tag
      if !t.timedOut then sendEcanx p r.tag r.tenant r.agent r.aa reason
    | none => pure ()
  | .pair a => toPartner (.verdict a r.tag r.line false reason)
  | _ => pure ()

/-! ### The wait edges of the Mantis (10 R453-R456) -/

/-- Is edge a→b in the graph? -/
def edge (s : State) (a b : Nat) : Bool := s.waits.any fun w => w.waiter == a && w.holder == b

/-- Apply an edge addition at the master: record it, and queue its check, or defer it when 16 wait (R456). -/
def applyEdge (w : Wait) : M Unit := do
  modify fun s => { s with waits := s.waits ++ [w] }
  let s ← get
  if getF s R.LOCK_CTL_MANTIS_EN = 1 then
    if s.evq.length < 16 then modify fun s => { s with evq := s.evq ++ [w] }
    else
      incF R.LOCK_DEFER_CNT_CNT
      raise pgLock 4

/-- Remove one edge of a waiting request. -/
def unapplyEdge (waiter tag line : Nat) : M Unit := modify fun s =>
  { s with waits := s.waits.filter fun w => !(w.waiter == waiter && w.tag == tag && w.line == line),
           evq := s.evq.filter fun w => !(w.waiter == waiter && w.tag == tag && w.line == line),
           breaks := s.breaks.filter fun w => !(w.waiter == waiter && w.tag == tag && w.line == line) }

/-- Does this hub hold the wait-for graph: the master, the single hub, and hub 1 after a pair-link loss (R453, 12 R550)? -/
def graphHere (s : State) : Bool := isMaster s || isLost s

/-- A request of an agent joins the chain of a line locked by `holder` (R454, R455). -/
def addWait (r : Req) (holder : Nat) : M Unit := do
  match r.src with
  | .eng _ => pure ()
  | .pairEng _ => pure ()
  | _ =>
    let w : Wait := ⟨r.agent, holder, r.line, r.tag, r.op == .lkRd, r.stampTick, r.stampOff, false⟩
    if graphHere (← get) then applyEdge w
    else toPartner (.mantisEdge true r.agent holder r.tag w.lk r.stampTick r.stampOff r.line)

/-- A request leaves the chain: its edge goes (R454). -/
def dropWait (r : Req) (holder : Nat) : M Unit := do
  match r.src with
  | .eng _ => pure ()
  | .pairEng _ => pure ()
  | _ =>
    if graphHere (← get) then unapplyEdge r.agent r.tag r.line
    else toPartner (.mantisEdge false r.agent holder r.tag (r.op == .lkRd) r.stampTick r.stampOff r.line)

/-- The holder of the lock on a line. -/
def lockOn (s : State) (line : Line) : Option (Nat × Lock) :=
  (List.range 256).findSome? fun i =>
    match kvGet (fun _ => none) s.locks i with
    | some l => if l.line == line then some (i, l) else none
    | none => none

def setLock (i : Nat) (v : Option Lock) : M Unit := modify fun s =>
  { s with locks := kvSet (fun _ => none) s.locks i v }

def locksHeld (s : State) : Nat := s.locks.length

def locksOfTenant (s : State) (t : Nat) : Nat :=
  s.locks.countP fun e => match e.2 with | some l => l.tenant == t | none => false

/-- The requests that wait in a line's chain. -/
def chainOf (s : State) (line : Line) : List Req := s.chain.filter fun r => r.line == line

/-! ### Conflict chains (07 R299-R303) -/

/-- Enter a request in its line's chain (R299), with its wait edge on a locked line (10 R454). -/
def joinChain (r : Req) : M Unit := do
  modify fun s => { s with chain := s.chain ++ [r] }
  maxF R.GLOBAL_CHAIN_MAX (← get).chain.length
  match lockOn (← get) r.line with
  | some (_, l) => addWait r l.holder
  | none => pure ()

/-- Take a request out of its chain (R302). -/
def leaveChain (r : Req) : M Unit := do
  match lockOn (← get) r.line with
  | some (_, l) => dropWait r l.holder
  | none => pure ()
  modify fun s => { s with chain := s.chain.filter fun x => x.id != r.id }

/-! ### Step 7 -/

/-- Leave the Busy state with a directory state (R227 step 7): the entry and a damaged tag of the line's slot are
rewritten. An agent that is gone is not recorded (04 R201). -/
def finishFlow (f : Flow) (st : DState) : M Unit := do
  let st := if f.req.gone then dropAgent f.req.agent st else st
  match f.way with
  | some w => writeEntry f.line w st
  | none => pure ()
  if f.hit then repairSlot (curLoc (← get) f.line)
  dropFlow f.line

/-- Record a snoop answered with RspI for the measure of stale bits (08 R357): one that a vector bit or an owner ID asked
for. The snoops of a repair flow go to every agent and count nothing (R365). -/
def countStale (kind : SnpKind) (line : Line) : M Unit := do
  let broad := match flowOf (← get) line with | some f => f.req.op == .repair | none => false
  onlyIf ((kind == .snpInv || kind == .snpS) && !broad) (incF R.DIR_STALE_RSPI_CNT_CNT)

/-- Release a lock: the registry entry is freed, the wait edges into the holder go, and the line leaves Busy-Lock
Untracked (10 R447, R451, R454). -/
def releaseLock (i : Nat) (l : Lock) : M Unit := do
  let s ← get
  each (chainOf s l.line) fun r => dropWait r l.holder
  setLock i none
  match flowOf (← get) l.line with
  | some f => finishFlow f .untracked
  | none => pure ()

/-! ### Results of atomics (05 R214, R246) -/

/-- The word after an atomic, whether it was written, and CS_OK. -/
def atomResult (op : ReqOp) (old : Quad) (data : LineData) : Quad × Bool × Bool :=
  let d0 := data.getD 0 Quad.zero
  let d1 := data.getD 1 Quad.zero
  match op with
  | .swap => (d0, true, false)
  | .cmpSwap =>
    if old.poison then (old, false, false)
    else if old.bits = d0.bits then (d1, true, true) else (old, false, false)
  | _ =>
    if old.poison then (old, false, false)
    else (⟨old.bits + d0.bits, d0.poison⟩, true, false)

/-! ### Completion (R227 steps 5 to 7) -/

/-- The line data of a flow: what a snoop returned, else the tentative data read at the grant, else home (07 R308). -/
def flowData (f : Flow) : M LineData :=
  match f.got, f.tentative with
  | some d, _ => pure d
  | none, some d => pure d
  | none, none => readHome f.line (reqNo f.req) f.req.tenant

/-- Write the owner's data home (R227 step 7, R236). -/
def ownerHome (f : Flow) : M Unit :=
  match f.got with
  | some d => if f.relayed then pure () else writeHome f.line (reqNo f.req) f.req.tenant d
  | none => pure ()

/-- Write to the next copy of an FV line (11 R478, R479). -/
def writeNext (r : Nat) (f : Flow) : M Unit := do
  let s ← get
  let line := f.line
  if f.req.op = .wrFull then writeLoc (nextLoc s line) 4 (reqNo f.req) f.req.tenant f.req.data
  else
    if (descOf s.active r).carry && !nvOf s line && diffOf s line then
      carryCopy line
      setDiff line false
      incF R.COMMIT_PRECARRY_CNT_CNT
    let s ← get
    writePartial (nextLoc s line) 4 f.req.word f.req.be (reqNo f.req) f.req.tenant (f.req.data.getD 0 Quad.zero)
  setNv line true

/-- State after an `RdS` (R231, R243). -/
def rdSAfter (s : State) (f : Flow) : Nat × DState :=
  let r := f.req.agent
  let el := eligible s f.req
  let one := BitVec.ofNat 32 (2 ^ r)
  if (fvRegion s f.line).isSome then
    (0x30, .shared (match f.before with | .shared v => vAdd v r | _ => one))
  else
    match f.before with
    | .untracked => if f.req.flag then (0x31, .owned r) else if el then (0x33, .forwarder r one) else (0x30, .shared one)
    | .shared v => if el then (0x33, .forwarder r (vAdd v r)) else (0x30, .shared (vAdd v r))
    | .forwarder g v =>
      if el then (0x33, .forwarder r (vAdd (if f.kept.contains g then v else vDrop v g) r))
      else (0x30, .forwarder g (vAdd v r))
    | .owned o =>
      let v := if f.kept.contains o then vAdd one o else one
      if el then (0x33, .forwarder r v) else (0x30, .shared v)

/-- Does the home cache hold the line's current copy? -/
def cacheHit (s : State) (line : Line) : Bool :=
  cacheHolds s (curLoc s line) && !slotDamaged (slotOf s (slotIx (curLoc s line)))

/-- Grant the lock to a flow whose snoops are answered: LockGrant, with data when NEED_DATA=1 (R241). -/
def grantLock (f : Flow) : M Unit := do
  ownerHome f
  let d ← if f.req.flag then flowData { f with got := none, tentative := none } else pure []
  putFlow { f with phase := .locked, got := none, hit := cacheHit (← get) f.line }
  incF R.LOCK_GRANT_CNT_CNT
  answer f.req 0x38 0 d

/-- A request that ended in HOLD_LIMIT has no effect on its line (06 R283, 15 R673): an owner's data goes home, and the directory
state is that from before the flow. -/
def voidFlow (f : Flow) : M Unit := do
  ownerHome f
  finishFlow { f with req := { f.req with gone := false } } f.orig

/-- Complete a flow all of whose snoops are answered. -/
def completeFlow (f : Flow) : M Unit := do
  let s ← get
  let r := f.req
  if r.void && r.op != .lkRd then voidFlow f
  else
  match r.op with
  | .rdS =>
    let (op, st) := rdSAfter s f
    if !f.answered then
      let d ← flowData f
      answerRead f op d
    ownerHome f
    finishFlow f st
  | .rdU =>
    let d ← flowData f
    answerRead f 0x31 d
    ownerHome f
    finishFlow f (.owned r.agent)
  | .upg =>
    if f.conv then
      let d ← flowData f
      ownerHome f
      answer r 0x32 0 d
    else answer r 0x32 0 []
    finishFlow f (.owned r.agent)
  | .rdOnce =>
    let d ← flowData f
    answer r 0x34 0 d
    ownerHome f
    finishFlow f (match f.before with
      | .owned o => if f.kept.contains o then .shared (BitVec.ofNat 32 (2 ^ o)) else .untracked
      | st => st)
  | .wrFull | .wrPartial =>
    match fvRegion s f.line with
    | some rg =>
      writeNext rg f
      answer r 0x35 0 []
      finishFlow f f.orig
    | none =>
      ownerHome f
      let s ← get
      if r.op = .wrFull then writeHome f.line (reqNo r) r.tenant r.data
      else writePartial (laLoc s f.line) (policyOf s f.line) r.word r.be (reqNo r) r.tenant (r.data.getD 0 Quad.zero)
      answer r 0x35 0 []
      finishFlow f .untracked
  | .fetchAdd | .swap | .cmpSwap =>
    ownerHome f
    let d ← readHome f.line (reqNo r) r.tenant
    let old := d.getD r.word Quad.zero
    let (w, wr, ok) := atomResult r.op old r.data
    let s ← get
    if wr then writeAtomWord (laLoc s f.line) (policyOf s f.line) r.word (reqNo r) w
    answer r 0x34 ok.toNat [old]
    finishFlow f .untracked
  | .lkRd =>
    if r.gone then
      match lockOn s f.line with
      | some (i, l) => ownerHome f; releaseLock i l
      | none => finishFlow f .untracked
    else grantLock f
  | .wrBack =>
    writeHome f.line (reqNo r) r.tenant r.data
    answer r 0x35 0 []
    finishFlow f .untracked
  | .ulWr | .evClean => dropFlow f.line
  | .commitInv =>
    finishFlow f .untracked
    modify fun s => { s with fv := { s.fv with
      commit := s.fv.commit.map fun w => { w with inv := w.inv.filter (· != f.line) }
      release := s.fv.release.map fun w => { w with inv := w.inv.filter (· != f.line) } } }
  | .preInv =>
    finishFlow f .untracked
    modify fun s => { s with fv := { s.fv with preInv := s.fv.preInv ++ [f.line] } }
  | .preCarry => dropFlow f.line
  | .backInv | .retire =>
    ownerHome f
    finishFlow f .untracked
  | .repair =>
    ownerHome f
    finishFlow f .untracked
    -- 08 R365: the line is left Untracked, whatever way of the set records it.
    match lookup (← get) f.line with
    | some (w, _) => writeEntry f.line w .untracked
    | none => pure ()

/-! ### Starting a flow (R227 steps 3 and 4) -/

/-- R683: a snoop that goes to a dead agent is answered at once. In Owned(d) the line is written home as poison and
logged LINE_LOST, and the flow goes on with the poisoned data. -/
def deadAnswer (f : Flow) (a : Nat) : M Flow := do
  match f.before with
  | .owned o =>
    if o = a && isDead (← get) a then
      writeHome f.line (reqNo f.req) f.req.tenant poisonLine
      loss 1 f.line
      pure { f with got := some poisonLine, relayed := true }
    else pure f
  | _ => pure f

/-- Send the snoops of a flow one by one; those that no one will answer are resolved. -/
def sendSnoops : Flow → List (Nat × SnpKind × Bool) → M Flow
  | f, [] => pure f
  | f, (a, k, nd) :: t => do
    if f.req.op == .backInv then incF R.DIR_BACKINV_CNT_CNT
    if ← sendSnoop a k f.line nd 0 then sendSnoops { f with pend := f.pend ++ [a] } t
    else do
      let f ← deadAnswer f a
      sendSnoops f t

/-- LOCK_FULL (10 R448): the registry is full, or the tenant has its limit. -/
def lockFull (s : State) (t : Nat) : Bool :=
  decide (256 ≤ locksHeld s) || decide (getF s (R.TENANT_LOCK_LIM_MAX t) ≤ locksOfTenant s t)

/-- The lowest free registry entry. -/
def freeLock (s : State) : Nat :=
  ((List.range 256).find? fun i => (kvGet (fun _ => (none : Option Lock)) s.locks i).isNone).getD 255

/-- A protocol violation (04 R197): the port enters PROTO_ERR, the first violation is kept; early data of the port is
cancelled with reason PORT (07 R325). -/
def protoErr (p code opcode : Nat) : M Unit := do
  let s ← get
  if lstate s p = 4 ∨ lstate s p = 5 then
    wrF (R.APORT_PROTO_CODE p) code
    wrF (R.APORT_PROTO_OPCODE p) opcode
    wrF (R.APORT_STAT_LSTATE p) 6
    raise (pgAport p) 4
    each (s.trackers.filter fun t => t.port == p) fun t => do
      match tagOf (portOf s p) t.tag with
      | some tg =>
        modify fun s => { s with trackers := s.trackers.map fun x =>
          if x.port == p && x.tag == t.tag then { x with timedOut := true } else x }
        if !t.timedOut then sendEcanx p t.tag tg.tenant (agentOf s p) tg.aa 3
      | none => pure ()

/-- A request that the hub refuses in its state: PROTO_ERR code 0x7 (05 R249), its tag ended, no home state changed. A forwarded
one is refused at its own hub. -/
def refuseState (r : Req) (opcode : Nat) : M Unit := do
  match r.src with
  | .port p =>
    setTag p r.tag none
    protoErr p 7 opcode
  | .pair a => onlyIf (!r.gone) (toPartner (.refused a r.tag opcode))
  | _ => pure ()

/-- The location whose slot the completion of a flow may fill, with its policy (R387): an owner's data or a write at home, the next
copy of an FV line, the copy that a read misses. -/
def fillPlace (s : State) (f : Flow) : Option Nat :=
  let fv := (fvRegion s f.line).isSome
  let reads := f.got.isNone && f.tentative.isNone && !f.answered
  match f.req.op with
  | .rdS | .rdU | .rdOnce => if f.got.isSome && !f.relayed then some (laLoc s f.line) else if reads then some (curLoc s f.line) else none
  | .upg => if f.got.isSome && !f.relayed then some (laLoc s f.line) else if f.conv && reads then some (curLoc s f.line) else none
  | .lkRd => if f.got.isSome || f.req.flag then some (laLoc s f.line) else none
  | .wrFull => some (if fv then nextLoc s f.line else laLoc s f.line)
  | .wrPartial => if f.got.isSome then some (laLoc s f.line) else none
  | .fetchAdd | .swap | .cmpSwap | .wrBack => some (laLoc s f.line)
  | .backInv | .retire | .repair => if f.got.isSome then some (laLoc s f.line) else none
  | _ => none

/-- Must the flow wait for an eviction-buffer entry (07 R312): it would displace a dirty occupant and all 32 entries are in use? -/
def mustEvict (s : State) (f : Flow) : Bool :=
  match fillPlace s f with
  | none => false
  | some loc =>
    let sl := slotOf s (slotIx loc)
    decide (32 ≤ s.ebuf.length) && policyOf s f.line != 2 && !cacheHolds s loc && slotV sl && slotD0 sl && !slotDamaged sl &&
      !lineBusy s (lineOfLoc s (slotLoc sl (slotIx loc)))

/-- Complete a flow, or let it wait for an eviction-buffer entry. -/
def completeOrWait (f : Flow) : M Unit := do
  if mustEvict (← get) f then putFlow { f with phase := .evict } else completeFlow f

/-- Enter the Busy state with a way, and send the snoops (R227 steps 3, 4). -/
def runFlow (f : Flow) (way : Option Nat) : M Unit := do
  let s ← get
  let f := { f with way := way, hit := cacheHit s f.line, phase := .snoop }
  putFlow f
  match way with
  | some w => writeBusy f.line w f.busy f.before
  | none => pure ()
  if f.req.op = .lkRd && lockFull s f.req.tenant then
    incF R.LOCK_FULL_CNT_CNT
    incF (R.TENANT_LOCK_REJ_CNT_CNT f.req.tenant)
    raise pgLock 1
    answerErr f.req 0x20
    finishFlow f f.orig
  else if f.req.op = .upg && f.orig == .owned f.req.agent then
    refuseState f.req 0x03
    finishFlow f f.orig
  else
    let conv := f.req.op == .upg && !(members f.orig).contains f.req.agent
    if conv then incF R.GLOBAL_COH_UPG_CONV_CNT
    let f := { f with conv := conv }
    if f.req.op = .lkRd then
      setLock (freeLock s) (some ⟨f.line, f.req.agent, f.req.tenant, tickNum s, false⟩)
      maxF R.LOCK_HELD_MAX_N (locksHeld (← get))
      -- 10 R454: the line is in Busy-Lock again, and each waiter of its chain waits on the new holder.
      each (chainOf s f.line) fun r => addWait r f.req.agent
    let f ← sendSnoops f (snoopsFor s f)
    putFlow f
    -- 11 R486: the line of a window that pre-commit has invalidated before.
    onlyIf (f.req.op == .commitInv && f.pend != [] && s.fv.preInv.contains f.line) (incF R.COMMIT_AGAIN_CNT_CNT)
    offerEdata f.line
    if f.pend = [] then completeOrWait f
    else
      -- R229: with NODATA=1 the completion leaves while the SnpFwdS is unanswered.
      if f.req.op = .rdS && f.hit then
        match f.before with
        | .forwarder _ _ =>
          let d ← readHome f.line (reqNo f.req) f.req.tenant
          answer f.req 0x33 0 d
          putFlow { f with answered := true }
        | _ => pure ()

/-- Free a victim's entry and let the flow that took its way go on (07 R306, 08 R355). -/
def freeVictim (f : Flow) : M Unit := do
  let way := f.way
  let s ← get
  if mustEvict s f then putFlow { f with phase := .evict }
  else
    completeFlow f
    match (← get).flows.find? fun g => g.phase == .victim && g.line == f.req.be with
    | some g => runFlow g way
    | none => pure ()

/-- An eviction-buffer entry is free: the flows that wait for one go on in their order (07 R312). -/
def resumeEvicts : M Unit := do
  each ((← get).flows.filter fun f => f.phase == .evict) fun f => do
    if mustEvict (← get) f then pure ()
    else if f.req.op == .backInv then freeVictim f
    else completeFlow f

/-- Try to give a flow a way: `false` when none can be taken. -/
def allocate (f : Flow) (read : Bool) : M Bool := do
  let set := setOf f.line
  let s ← get
  if f.req.op = .lkRd && decide (getF s R.DIR_CTL_LOCK_WAYS ≤ lockWays s set) then pure false
  else
    match ← takeWay set read with
    | .none => pure false
    | .free w => runFlow f (some w); pure true
    | .victim w line st =>
      let s ← get
      let r := engineReq s 21 .backInv line w f.line []
      modify fun s => { s with nextId := s.nextId + 1 }
      putFlow { f with phase := .victim }
      let v := { newFlow r .own .snoop (some w) st st with hit := cacheHit s line }
      addFlow v
      writeBusy line w .own st
      let v ← sendSnoops v (snoopsFor s v)
      putFlow v
      if v.pend = [] then freeVictim v
      pure true

/-- Wait in the set's allocation queue (07 R305, 08 R353, R367). -/
def waitAlloc (f : Flow) : M Unit := do
  putFlow { f with phase := .alloc }
  incF R.DIR_ALLOC_WAIT_CNT_CNT

/-- Does a flow wait in the allocation queue of a set? A later one that needs a way waits behind it (07 R305, 08 R353). -/
def queueWaits (s : State) (set : Nat) : Bool := s.flows.any fun f => f.phase == .alloc && setOf f.line == set

/-- May a request run for a line of a set in recovery (08 R367)? -/
def runsInRecovery (op : ReqOp) : Bool := op == .wrBack || op == .ulWr || op == .backInv

/-- `EvClean` within its grant (05 R240): the agent leaves the entry, answered with CmpWb. -/
def evictClean (r : Req) (way : Option Nat) (orig : DState) : M Unit := do
  match way with
  | some w => writeEntry r.line w (dropAgent r.agent orig)
  | none => pure ()
  answer r 0x35 0 []

/-- A pre-carry copy at its grant, while the line still needs carry (11 R488). -/
def preCarryCopy (line : Line) : M Unit := do
  if needsCarry (← get) line then
    carryCopy line
    setDiff line false
    incF R.COMMIT_PRECARRY_CNT_CNT

/-- Start a request at the head of a line that no flow holds (R227 step 3, 07 R300): read the set, take the line's way or a
new one. -/
def startFree (r : Req) : M Unit := do
  let set := setOf r.line
  let s ← get
  if r.op = .preCarry then
    if inRecovery s set then
      addFlow (newFlow r .commit .alloc none .untracked .untracked)
      incF R.DIR_ALLOC_WAIT_CNT_CNT
    else preCarryCopy r.line
  else
    let (way, orig) := match lookup s r.line with | some (w, st) => (some w, st) | none => (none, .untracked)
    if r.op = .wrBack && way.isNone && inRecovery s set then
      -- 08 R371, R347: in recovery a WrBack without an entry is written home and takes none.
      writeHome r.line (reqNo r) r.tenant r.data
      answer r 0x35 0 []
    else if r.op = .wrBack && orig != .owned r.agent then
      -- 05 R249: refused before it takes an entry.
      refuseState r 0x10
    else if r.op = .evClean then
      if inRecovery s set then
        addFlow (newFlow r .own .alloc none orig orig)
        incF R.DIR_ALLOC_WAIT_CNT_CNT
      else evictClean r way orig
    else
      let before := if fromI r.op then dropAgent r.agent orig else orig
      let f := newFlow r (busyOf r.op) .snoop none orig before
      addFlow f
      if inRecovery s set && !runsInRecovery r.op then waitAlloc f
      else if way.isNone && (r.op == .commitInv || r.op == .preInv || r.op == .retire) then
        -- No entry tracks the line: there is nothing to invalidate.
        completeFlow f
      else
        match way with
        | some w =>
          if r.op = .lkRd && decide (getF s R.DIR_CTL_LOCK_WAYS ≤ lockWays s set) then waitAlloc f
          else runFlow f (some w)
        | none =>
          if queueWaits s set then waitAlloc f
          else if !(← allocate f false) then waitAlloc f

/-- May a request run while the flow of its line waits in the allocation queue? A `WrBack` may in a set in recovery: that flow has
not made the line Busy yet, and the hub goes on granting `WrBack` (08 R367, R371). -/
def passesAlloc (s : State) (r : Req) : Bool :=
  r.op == .wrBack && inRecovery s (setOf r.line) && match flowOf s r.line with | some f => f.phase == .alloc | none => false

/-- Is the request a `WrBack` of an agent whose answer to a snoop the flow of the line awaits? It lies in the home-side
write buffer until that answer matches it, and takes no part in arbitration (05 R238, 07 R298, R303). -/
def awaitsMatch (s : State) (r : Req) : Bool :=
  r.op == .wrBack && match flowOf s r.line with | some f => f.pend.contains r.agent | none => false

/-- Start a request at the head of its line: beside a flow that waits in the allocation queue when it may, else behind the
flow that holds the line (R299). -/
def startFlow (r : Req) : M Unit := do
  checkSet (setOf r.line) 0
  let s ← get
  match flowOf s r.line with
  | some f =>
    if passesAlloc s r then
      let k := s.flows.findIdx fun g => g.line == r.line
      dropFlow r.line
      startFree r
      modify fun t => { t with flows := t.flows.take k ++ f :: t.flows.drop k }
    else joinChain r
  | none =>
    if r.op = .repair then addFlow (newFlow r .own .search (some r.word) .untracked .untracked)
    else startFree r

/-- Settle a flow whose last answer has come. -/
def settleFlow (line : Line) : M Unit := do
  match flowOf (← get) line with
  | none => pure ()
  | some f =>
    if f.phase == .snoop && f.pend == [] && f.wbp == [] then
      if f.req.op == .backInv then freeVictim f else completeOrWait f

/-- An answer from an agent to a flow's snoop: what it keeps and the data it brought (R225, R229). -/
def flowAnswer (line : Line) (a : Nat) (kept : Bool) (data : Option LineData) (relayed : Bool) : M Unit := do
  match flowOf (← get) line with
  | none => pure ()
  | some f =>
    putFlow { f with pend := f.pend.filter (· != a), wbp := f.wbp.filter (· != a),
                     kept := if kept then f.kept ++ [a] else f.kept,
                     got := match data with | some d => some d | none => f.got,
                     relayed := if data.isSome then relayed else f.relayed }
    settleFlow line

/-- Continue the head of a set's allocation queue (08 R353, R372 step 4): flows leave in grant order. -/
def retryAlloc (set : Nat) : M Unit := do
  let s ← get
  if inRecovery s set then pure ()
  else
    match s.flows.find? fun f => f.phase == .alloc && setOf f.line == set with
    | none => pure ()
    | some f =>
      if f.req.op = .evClean then
        dropFlow f.line
        let l := lookup s f.line
        evictClean f.req (l.map (·.1)) ((l.map (·.2)).getD .untracked)
      else if f.req.op = .preCarry then
        dropFlow f.line
        preCarryCopy f.line
      else
      checkSet set 1
      let s ← get
      if inRecovery s set then pure ()
      -- 08 R365: a repair flow of its line has taken its place, and it waits in the chain behind it.
      else if (flowOf s f.line).map (·.req.id) != some f.req.id then pure ()
      else
      match lookup s f.line with
      | some (w, st) =>
        let before := if fromI f.req.op then dropAgent f.req.agent st else st
        if f.req.op = .lkRd && decide (getF s R.DIR_CTL_LOCK_WAYS ≤ lockWays s set) then pure ()
        else runFlow { f with orig := st, before := before } (some w)
      | none =>
        -- What the waiting request read of the line at its grant may be gone.
        let _ ← allocate { f with orig := .untracked, before := .untracked } true
        pure ()

/-- Is the request a write for which the open commit window waits (02 R81, 11 R494): one that a station engine or event unit
presented before the window opened, or a capture record stamped before the tick in progress (its low 32 bits, 02 R79), which the
partner's event unit may send later? -/
def beforeWindow (s : State) (r : Req) : Bool :=
  (r.src == .eng qStation || r.src == .pairEng qStation) && (r.op == .wrFull || r.op == .wrPartial) &&
  match s.fv.commit with
  | some w => !w.flipped && heldBy s s.fv.commit r.line && (decide (r.id < w.openId) ||
      (r.op == .wrPartial && (r.data.getD 0 Quad.zero).bits.toNat % 2 ^ 32 != tickNum s))
  | none => false

/-- Write it into the copy about to become current. -/
def windowWrite (r : Req) : M Unit := do
  match fvRegion (← get) r.line with
  | some rg =>
    writeNext rg (newFlow r .own .snoop none .untracked .untracked)
    onlyIf (r.op == .wrPartial) (incF R.COMMIT_EDGE_CAPT_CNT_CNT)
  | none => pure ()

/-- The next request of a line's chain (07 R300), if the line is free for it: not in a flow, and for a line that an open
window holds only a request granted before the window opened, or the window's own (11 R490, R491). Beside a flow that
waits in the allocation queue a `WrBack` may start. -/
def chainHead (s : State) (line : Line) : Option Req :=
  if (flowOf s line).isSome then (chainOf s line).find? (passesAlloc s)
  else
    let late := fun (w : Option Window) (r : Req) =>
      match w with
      | some x => heldBy s w line && decide (x.openAt ≤ r.granted) && r.op != .commitInv && !beforeWindow s r
      | none => false
    (chainOf s line).find? fun r => !(late s.fv.commit r || late s.fv.release r)

/-- `UlWr` at its grant (10 R447, R450): from the holder for its line it writes the line home when WR=1, releases the lock
and is answered with CmpWb; any other is answered with NO_LOCK. -/
def unlockWrite (r : Req) : M Unit := do
  match lockOn (← get) r.line with
  | some (i, l) =>
    if l.holder = r.agent then
      if r.flag then writeHome r.line (reqNo r) r.tenant r.data
      releaseLock i l
      answer r 0x35 0 []
    else noLock r
  | none => noLock r
where
  noLock (r : Req) : M Unit := do
    incF R.LOCK_NOLOCK_CNT_CNT
    raise pgLock 2
    answerErr r 0x21

/-- Start the head of a line's chain (R300). -/
def startChainHead (line : Line) : M Unit := do
  match chainHead (← get) line with
  | none => pure ()
  | some r =>
    let s ← get
    modify fun s => { s with chain := s.chain.filter fun x => x.id != r.id }
    match r.op with
    | .repair =>
      -- 08 R365: the repair flow that waited in the chain.
      let f := newFlow r .own .snoop none .untracked .untracked
      addFlow f
      let f ← sendSnoops f (snoopsFor s f)
      putFlow { f with way := some r.word }
      settleFlow line
    | _ => if beforeWindow s r then windowWrite r else startFlow r

end Sys2Proof.Machine
end

