-- ==== Sys2Proof/Machine/Operands.lean ====
section
/-! DEFINITION. Operand forms of the configuration commands (17): configuration addresses, the register fields of a word, multi-word
values (17 R773), mirrored registers (12 R532), and what a write does to one field (00 R7, R16, R17, R876, R877). -/

namespace Sys2Proof.Machine

/-! ### Configuration addresses (R766) -/

def caHub (ca : Nat) : Nat := ca / 2 ^ 20 % 2
def caPage (ca : Nat) : Nat := ca / 4096 % 256
def caOff (ca : Nat) : Nat := ca % 4096

/-- The configuration address of an offset of a page on this hub. -/
def caOf (page off : Nat) : Nat := page * 4096 + off

/-! ### The page map (R794) -/

/-- TYPE, INSTANCE and the enable field of a page; `none` for an unassigned page. -/
def pageInfo (page : Nat) : Option (Nat × Nat × Option Fld) :=
  if page = 0 then some (0x0001, 0, none)
  else if page = 1 then some (0x0002, 0, none)
  else if page = 2 then some (0x0003, 0, none)
  else if page = 3 then some (0x0004, 0, none)
  else if page = 4 then some (0x0005, 0, none)
  else if 0x08 ≤ page ∧ page ≤ 0x17 then some (0x0010, page - 8, some (R.APORT_CTL_EN (page - 8)))
  else if page = 0x18 then some (0x0011, 0, some R.PAIR_CTL_EN)
  else if 0x1C ≤ page ∧ page ≤ 0x1F then some (0x0018, page - 0x1C, some (R.FPORT_CTL_EN (page - 0x1C)))
  else if page = 0x20 then some (0x0019, 0, some R.FABRIC_CTL_EN)
  else if 0x21 ≤ page ∧ page ≤ 0x25 then some (0x001A, page - 0x21, some R.STATION_CTL_EN)
  else if page = 0x28 then some (0x0020, 0, none)
  else if page = 0x29 then some (0x0021, 0, none)
  else if page = 0x30 then some (0x0028, 0, none)
  else if page = 0x31 then some (0x0029, 0, none)
  else if page = 0x32 then some (0x002A, 0, none)
  else if page = 0x33 then some (0x002B, 0, some R.SCRUB_CTL_EN)
  else if page = 0x38 then some (0x0030, 0, none)
  else if 0x40 ≤ page ∧ page ≤ 0x5F then some (0x0038, page - 0x40, some (R.TENANT_CTL_EN (page - 0x40)))
  else if 0x60 ≤ page ∧ page ≤ 0x67 then some (0x0040, page - 0x60, none)
  else if page = 0x68 then some (0x0041, 0, some R.CARGO_CTL_EN)
  else if page = 0x6C then some (0x0048, 0, some R.EVT_CTL_EN)
  else if page = 0x70 then some (0x0050, 0, none)
  else if page = 0x78 then some (0x0058, 0, some R.LEDGER_CTL_EN)
  else if page = 0x7C then some (0x0060, 0, none)
  else if page = 0xF0 then some (0x00F0, 0, none)
  else none

/-- A KX1 alias page that ALIAS_EN turns on (R797). -/
def aliasPage (s : State) (page : Nat) : Bool := decide (0x80 ≤ page ∧ page ≤ 0x8F) && getF s R.GLOBAL_SVC_CTL_ALIAS_EN == 1

/-- The register that INSTANCE and TYPE and REV 0x10 give (R786). -/
def pageId (ty inst : Nat) : Word := BitVec.ofNat 32 (0x10 + inst * 2 ^ 8 + ty * 2 ^ 16)

/-- Does R794 assign a page number? -/
def assignedPage (page : Nat) : Bool := (pageInfo page).isSome || decide (0x80 ≤ page ∧ page ≤ 0x8F)

/-- The fields of the register at an offset of a page; INTAGG.ROUTEp is there for assigned pages only (18 R804). -/
def rowsAt (page off : Nat) : List FieldRow :=
  if page = 0x04 ∧ 0x100 ≤ off ∧ !assignedPage ((off - 0x100) / 4) then [] else (rowsOfPage page).filter fun r => r.hit page off

/-- The IRQ bits a page defines events for, as a mask (R791, 18 R818). -/
def irqMask (page : Nat) : Nat :=
  if page = 0x00 then 0x17F
  else if page = 0x01 then 0x7F
  else if page = 0x02 then 0xF
  else if 0x08 ≤ page ∧ page ≤ 0x17 then 0x7FF
  else if page = 0x18 then 0x3F
  else if 0x1C ≤ page ∧ page ≤ 0x1F then 0x1F
  else if page = 0x20 then 0x7F
  else if page = 0x21 then 0x3F
  else if page = 0x28 then 0x1
  else if page = 0x29 then 0x3F
  else if page = 0x30 then 0x7F
  else if page = 0x31 then 0x3F
  else if page = 0x32 then 0xF
  else if page = 0x33 then 0xF
  else if page = 0x38 then 0x3
  else if 0x40 ≤ page ∧ page ≤ 0x5F then 0x1
  else if 0x60 ≤ page ∧ page ≤ 0x67 then 0x3F
  else if page = 0x68 then 0xF
  else if page = 0x6C then 0x7
  else if page = 0x70 then 0xF
  else if page = 0x78 then 0x1
  else if page = 0xF0 then 0x1
  else 0

/-! ### Multi-word values (R773) -/

/-- Is an offset in an array of `n` groups of `stride` bytes from `base`, at word `w` of the `words` of a group? -/
def inGroup (off base stride n words : Nat) : Option (Nat × Nat) :=
  if base ≤ off ∧ off < base + stride * n ∧ (off - base) % stride < 4 * words then
    some (off - (off - base) % stride, (off - base) % stride / 4)
  else none

/-- The multi-word value an offset belongs to: its lowest offset, the word, its words. -/
def groupOf (page off : Nat) : Option (Nat × Nat × Nat) :=
  let two := fun (x : Option (Nat × Nat)) => x.map fun (b, w) => (b, w, 2)
  if page = 0x18 then two (inGroup off 0x048 8 1 2)
  else if 0x1C ≤ page ∧ page ≤ 0x1F then two (inGroup off 0x048 8 1 2)
  else if page = 0x20 then
    match two (inGroup off 0x048 8 2 2) with
    | some g => some g
    | none => two (inGroup off 0x100 16 16 2)
  else if page = 0x21 then two (inGroup off 0x100 64 48 2)
  else if 0x08 ≤ page ∧ page ≤ 0x17 then two (inGroup off 0x200 16 16 2)
  else if page = 0x00 then two (inGroup off 0x100 8 16 2)
  else if page = 0x29 then two (inGroup off 0x800 8 256 2)
  else if 0x60 ≤ page ∧ page ≤ 0x67 then
    match inGroup off 0x120 64 16 4 with
    | some (b, w) => some (b, w, 4)
    | none => two (inGroup off 0x130 64 16 2)
  else none

/-- The writable multi-word values: ASSIGNa_UID, ENTRYe.UID, WINk.AA_BASE, SVC_MSG0-3. -/
def groupWritable (page off : Nat) : Bool :=
  (page == 0x20 && decide (0x100 ≤ off)) || page == 0x21 || decide (0x08 ≤ page ∧ page ≤ 0x17) ||
    (decide (0x60 ≤ page ∧ page ≤ 0x67) && decide ((off - 0x100) % 64 < 0x30))

/-- A reset of any class discards the latched words of R12 (R20). -/
def dropLatches : M Unit := modify fun s => { s with paths := s.paths.map fun e => (e.1, { e.2 with latch := [] }) }

/-! ### Mirrored registers (12 R532) -/

/-- The registers that hold mirrored fields, in ascending address: their places in `State.regs`. -/
def mirrorKeys : List Nat :=
  [regKey 0x00 0x080, regKey 0x00 0x0C0] ++
  [0x040, 0x044, 0x050, 0x054, 0x058, 0x05C, 0x060, 0x064, 0x068].map (regKey 0x01) ++
  [regKey 0x30 0x040, regKey 0x38 0x044] ++
  ((List.range 64).map fun r => [0x400, 0x404, 0x408, 0x40C, 0x410].map fun o => regKey 0x38 (o + 0x20 * r)).flatten ++
  ((List.range 32).map fun t => regKey (0x40 + t) 0x040) ++ [regKey 0x70 0x044]

/-- The place of REGION.CTL, under which an APPLY or a REVERT crosses the pair link (R126): 0 a set that failed, 1 one that passed
and waits for the edge, 2 a REVERT, 3 one that takes effect at once, 4 the pending one does because RUN was cleared. -/
def regionCtlKey : Nat := regKey pgRegion 0x040

/-- Write the active descriptor r back into the shadow set (R123). -/
def putShadow (r : Nat) (d : Desc) : M Unit := do
  wrF (R.REGION_DESC_CTL_VALID r) d.valid.toNat
  wrF (R.REGION_DESC_BASE_HA4K r) (d.base / 4096)
  wrF (R.REGION_DESC_CTL_SIZE_LOG2 r) d.size
  wrF (R.REGION_DESC_CTL_POLICY r) d.policy
  wrF (R.REGION_DESC_CTL_OWNER r) d.owner
  wrF (R.REGION_DESC_CTL_SCRUB_PRI r) d.scrub
  wrF (R.REGION_DESC_CTL_FV_DIR r) d.fvDir.toNat
  wrF (R.REGION_DESC_CTL_FV_CARRY r) d.carry.toNat
  wrF (R.REGION_DESC_CTL_DROPOUT r) d.dropout
  wrF (R.REGION_DESC_RD_MASK_T r) d.rd
  wrF (R.REGION_DESC_WR_MASK_T r) d.wr
  wrF (R.REGION_DESC_CACHE_MASK_T r) d.cache

/-- The registers with the accepted set in place of the shadow set. -/
def acceptedRegs (s : State) : KV Word := ((each (List.range 64) fun r => putShadow r (descOf s.applied r)) s).2.regs

/-- PAIR.MIRROR_PEND: eight bits; how a count above 255 shows is left open (log 16). -/
def showMirrorPend : M Unit := do
  let n := (← get).pair.mirrorQ.length
  if n < 256 then wrF R.PAIR_MIRROR_PEND_N n
  else
    let w ← drawWord
    wrF R.PAIR_MIRROR_PEND_N w.toNat

/-- Send a mirror record of a register (R533). -/
def sendMirror (key : Nat) (v : Word) : M Unit := do
  setPair fun ps => { ps with mirrorQ := ps.mirrorQ ++ [key] }
  showMirrorPend
  sendPair (.mirror key v)

/-- A master sends each accepted write of a mirrored register, while it is joined or joining. -/
def mirrorWrite (key : Nat) (v : Word) : M Unit := do
  let s ← get
  if isMaster s && pairOn s && (hasPartner s || s.pair.joining) then sendMirror key v

/-- The start of the join (R529): a mirror record for every mirrored field, the accepted region set in effect (03 R126) and then
what the shadow set holds beyond it, then JOIN. -/
def startJoin : M Unit := do
  let s ← get
  if isMaster s && !isJoined s && !isLost s && !s.pair.joining then
    setPair fun ps => { ps with joining := true }
    let acc := acceptedRegs s
    each mirrorKeys fun k => sendMirror k (getReg acc k)
    sendMirror regionCtlKey 3
    each (mirrorKeys.filter fun k => getReg acc k != getReg s.regs k) fun k => sendMirror k (getReg s.regs k)
    sendPair .join

/-! ### One field of a write (R7, R876) -/

/-- Is a value inside a field's range and no reserved encoding (R16, R17)? -/
def chkOk : Chk → Nat → Bool
  | .any, _ => true
  | .range a b, x => decide (a ≤ x ∧ x ≤ b)
  | .notIn l, x => !l.contains x

def pageLocked (s : State) (page : Nat) : Bool := getF s (pageLock page) == 1

/-- A field that takes writes only until the tick has started (R104, R251, R531). -/
def untilStart (page off lo : Nat) : Bool :=
  (page == 0x38 && off == 0x044 && lo == 0) || (page == 0x00 && off == 0x080 && lo == 0) ||
    (page == 0x18 && off == 0x040 && lo == 0)

/-- The codes under which a changed RW, RWL or RWS field is refused. `image` exempts the loader from LOCK (R790). -/
def refusals (s : State) (image : Bool) (page off : Nat) (r : FieldRow) (x : Nat) : List Nat :=
  (if chkOk r.chk x then [] else [0xF0]) ++
    (if r.acc == .rwl && pageLocked s page && !image then [0xF3] else []) ++
    (if r.mir && isMirror s then [0xF1] else []) ++
    (if untilStart page off r.lo && s.tick.started then [0xF2] else [])

/-- What a write makes of a field: its new value, or the codes of its refusal. On hub 1 the image loader passes over the
mirrored fields (16 R737). -/
def fieldWrite (s : State) (image : Bool) (page off : Nat) (old v : Word) (r : FieldRow) : Nat × List Nat :=
  let x := fieldOf v r.lo r.w
  let cur := fieldOf old r.lo r.w
  match r.acc with
  | .ro | .wo => (cur, [])
  | .w1c => (Nat.land cur (2 ^ r.w - 1 - x), [])
  | .w1s => (Nat.lor cur x, [])
  | _ => if x = cur || (image && r.mir && isHub1 s) then (cur, []) else
      match refusals s image page off r x with
      | [] => (x, [])
      | l => (cur, l)

/-- A register word after a write, field by field, with the codes of the fields it refused. -/
def wordWrite (s : State) (image : Bool) (page off : Nat) (old v : Word) : List FieldRow → Word × List Nat
  | [] => (old, [])
  | r :: t =>
    let (x, c) := fieldWrite s image page off old v r
    let (w, l) := wordWrite s image page off old v t
    (withField w r.lo r.w x, c ++ l)

/-- The code that a refused write records: where fields give different ones the spec names none, so the choice among
them is free (log 17). -/
def pickCode (codes : List Nat) : M Nat := do
  match codes.eraseDups with
  | [c] => pure c
  | l =>
    let w ← drawWord
    pure (l.getD (w.toNat % l.length) 0xF0)

/-- Record a refused register write once (R876, 15 R702). -/
def recordRefusal (page : Nat) (codes : List Nat) : M Unit := do
  if codes != [] then
    let c ← pickCode codes
    errCapFree page c

end Sys2Proof.Machine
end

