-- ==== Sys2Proof/Machine/Fail.lean ====
section
/-! DEFINITION. Link resets (04 R199-R202), dead agents, HALT and RECLAIM, the reclaim sweep and the restart (15), and the
steps of a domain reset (16 R721). -/

namespace Sys2Proof.Machine

/-! ### The link layer of a port -/

/-- Return a port's class-L fields to their reset values (04 R203, 16 R758). -/
def clearLinkFields (p : Nat) : M Unit := do
  wrF (R.APORT_STAT_LSTATE p) 0
  wrF (R.APORT_CAP_VER p) 0
  wrF (R.APORT_CAP_PROF_E p) 0
  wrF (R.APORT_CAP_PROF_F p) 0
  wrF (R.APORT_CAP_EDATA p) 0
  wrF (R.APORT_CAP_EVCLEAN p) 0
  wrF (R.APORT_CAP_FWD p) 0
  wrF (R.APORT_PROTO_CODE p) 0
  wrF (R.APORT_PROTO_OPCODE p) 0
  wrReg (pgAport p) 0x070 0

/-- The access path of a port's MSG channel as a number (17 R769): SPI 0, I²C 1, ports 2-17, image 18, partner 19-36. -/
def pathNo : Path → Nat
  | .spi => 0 | .i2c => 1 | .msg p => 2 + p.val | .image => 18 | .partner k => 19 + k.val

/-- Forget a path's latch and held words (17 R802, 00 R19, R20). -/
def dropPath (n : Nat) : M Unit := modify fun s => { s with paths := kvDel s.paths n }

/-- NOTIFIED of the tenants whose doorbell agent is on the port (14 R643). -/
def clearNotified (a : Nat) : M Unit :=
  each (List.range 32) fun t => do
    let ag ← rdF (R.TENANT_DB_CTL_AGENT t)
    onlyIf (ag == a) (wrF (R.TENANT_DB_CTL_NOTIFIED t) 0)

/-- Messages that a TAKE removed and whose answers a link reset drops: counted lost at their mailbox here (14 R669). -/
def lostTakes (p : Nat) : M Unit := do
  let pt := portOf (← get) p
  each pt.txq fun m =>
    match tagOf pt m.tag with
    | some t =>
      onlyIf (m.op == 0x4A && m.data.length == 2 && !t.remote) (incF (R.MBOX_LOST_CNT_CNT (t.ha % 128 / 16) (t.ha % 16)))
    | none => pure ()

/-- The link layer of a reset port (R199): buffers, sequence numbers and credits cleared, DOWN. Open measurements end
without being recorded (02 R98); tracker entries go without a verdict (07 R326). -/
def resetLayer (p : Nat) : M Unit := do
  lostTakes p
  let s ← get
  let up := lstate s p != 0
  setPort p fun pt => { Port.empty with heldDown := pt.heldDown, link := { Link.empty with since := s.now } }
  modify fun s => { s with trackers := s.trackers.filter fun t => t.port != p }
  clearLinkFields p
  incF (R.APORT_LRESET_CNT_CNT p)
  dropLatches
  dropPath (2 + p)
  clearNotified (agentOf s p)
  if up then raise (pgAport p) 1

/-- Does the snoop filter track a line for the agent, or does a flow's entry name it? -/
def agentTracked (s : State) (a : Nat) : Bool :=
  (s.dir.any fun e =>
    match readWay e.1 e.2 with
    | .stable _ st => (members st).contains a
    | .fault _ _ (some st) _ => (members st).contains a
    | _ => false) ||
  s.flows.any fun f => (members f.before).contains a

/-- Does the agent hold or wait for a lock on a line homed here? -/
def agentLocks (s : State) (a : Nat) : Bool :=
  (s.locks.any fun e => match e.2 with | some l => l.holder == a | none => false) ||
  (s.chain.any fun r => r.agent == a && r.op == .lkRd) || s.flows.any fun f => f.req.agent == a && f.req.op == .lkRd

/-- Does the partner's snoop filter track no line for the agent of a port? This hub does not see it: a free value (log 112). -/
def farClean (s : State) (p : Nat) : Bool := !hasPartner s || Config.freeBool (s.free + p)

/-- Is a link reset of the port clean (R200): on both hubs of a pair? -/
def isClean (s : State) (p : Nat) : Bool :=
  !agentTracked s (agentOf s p) && (portOf s p).tags.isEmpty && !agentLocks s (agentOf s p) && (portOf s p).farLocks.isEmpty &&
    farClean s p

/-! ### RECLAIM (15 R682-R686) -/

/-- Is a request a write-type of R201? -/
def isWriteType : ReqOp → Bool
  | .wrBack | .wrFull | .wrPartial | .ulWr => true
  | _ => false

/-- Perform a WrBack of a dead agent whose data is here (04 R201), unless another agent's flow holds its line. -/
def lastWrBack (a : Nat) (r : Req) : M Unit := do
  let s ← get
  let away : M Unit := modify fun t => { t with
    arb := { t.arb with waiting := t.arb.waiting.filter fun x => x.id != r.id }, chain := t.chain.filter fun x => x.id != r.id }
  match flowOf s r.line with
  | some f =>
    if f.pend.contains a || f.wbp.contains a then
      away
      flowAnswer r.line a false (some r.data) false
  | none =>
    if dirState s r.line == .owned a then
      away
      startFree { r with gone := true }

/-- End the outstanding transactions of an agent at home as the table of R201 gives: write-type requests with their data
are performed, requests not yet granted are discarded, granted ones complete without the agent, chained LkRd are
removed (07 R302). -/
def endTransactions (a : Nat) : M Unit := do
  let s ← get
  each (s.chain.filter fun r => r.agent == a) fun r =>
    match lockOn s r.line with | some (_, l) => dropWait r l.holder | none => pure ()
  -- A `WrBack` whose data is here is performed: as the data of a snoop that awaits its agent, or as the line's own flow.
  each ((s.arb.waiting ++ s.chain).filter fun r => r.agent == a && r.op == .wrBack) (lastWrBack a)
  -- A `UlWr` whose data is here is performed while its agent still holds the lock.
  each (s.arb.waiting.filter fun r => r.agent == a && r.op == .ulWr) fun r => unlockWrite { r with gone := true }
  modify fun s => { s with
    arb := { s.arb with waiting := (s.arb.waiting.filter fun r =>
        r.agent != a || (isWriteType r.op && r.op != .ulWr)).map fun r =>
      if r.agent == a then { r with gone := true } else r },
    chain := (s.chain.filter fun r => !(r.agent == a && r.op == .lkRd)).map fun r =>
      if r.agent == a then { r with gone := true } else r,
    flows := s.flows.map fun f => if f.req.agent == a then { f with req := { f.req with gone := true }, tentative := none }
      else f }

/-- A flow waits for an answer of a dead agent: answer it as R683 gives. -/
def resolveOne (a line : Nat) : M Unit := do
  match flowOf (← get) line with
  | none => pure ()
  | some f =>
    let lost := f.before == .owned a || f.wbp.contains a
    if lost then
      writeHome line (reqNo f.req) f.req.tenant poisonLine
      loss 1 line
      putFlow { f with pend := f.pend.filter (· != a), wbp := f.wbp.filter (· != a), got := some poisonLine,
                       relayed := true }
    else
      putFlow { f with pend := f.pend.filter (· != a), wbp := f.wbp.filter (· != a) }
    settleFlow line

/-- Remove the dead agents from one stable way; an owner's line is lost (R683, R684). -/
def sweepWay (set way : Nat) : M Unit := do
  let s ← get
  match viewWay s set way with
  | some (.stable tag st) =>
    let line := lineOfEntry set tag
    let dead := (members st).filter (isDead s)
    if dead == [] then pure ()
    else
      match st with
      | .owned _ =>
        writeHome line 21 0 poisonLine
        loss 1 line
        writeEntry line way .untracked
      | _ => writeEntry line way (dead.foldl (fun x a => dropAgent a x) st)
  | _ => pure ()

/-- A flushed agent of the recovering set has died (08 R373, R381, R382): its answer is no longer awaited, and the damaged
way's line may be lost. -/
def recoveryLoss (a : Nat) : M Unit := do
  match (← get).recov with
  | none => pure ()
  | some r =>
    if r.agents.contains a then
      let may := r.anyOwner || r.owner == some a
      if may && !r.lost then
        incF R.DIR_FLUSH_LOSS_CNT_CNT
        raise pgDir 5
        errCap pgDir 6 (entryKey r.set r.way) r.src
        lossNoHa 4 r.set
      modify fun s => { s with recov := some { r with pend := r.pend.filter (· != a), lost := r.lost || may } }

/-- Under RECLAIM its lines in stable ways of the set are handled as the sweep handles them (R373). -/
def recoveryDeath (a : Nat) : M Unit := do
  recoveryLoss a
  match (← get).recov with
  | some r => onlyIf (r.agents.contains a) (each (List.range 16) (sweepWay r.set))
  | none => pure ()

/-- Resolve every wait on a dead agent (R683, R381). -/
def resolveDead (a : Nat) : M Unit := do
  let s ← get
  each (s.flows.filter fun f => f.pend.contains a || f.wbp.contains a) fun f => resolveOne a f.line
  recoveryDeath a

/-- Release every lock of an agent, logging each one LOCK_LOST (R682 step 2). -/
def releaseLocksOf (a : Nat) (log : Bool) : M Unit :=
  each (List.range 256) fun i => do
    match kvGet (fun _ => (none : Option Lock)) (← get).locks i with
    | some l =>
      if l.holder = a then
        releaseLock i l
        if log then loss 2 l.line
    | none => pure ()

/-- Start or extend the reclaim sweep (R684, R685). -/
def joinSweep (a : Nat) : M Unit := do
  wrF R.GLOBAL_FAIL_STAT_SWEEP 1
  modify fun s =>
    { s with sweep := some (match s.sweep with
      | none => ⟨0, 32768, BitVec.ofNat 32 (2 ^ a), []⟩
      | some w => { w with left := 32768, ids := vAdd w.ids a }) }

/-- RECLAIM for a dead agent (R682, R683): on the hub of its port the link reset holds the port in DOWN. -/
def reclaimAgent (a : Nat) : M Unit := do
  endTransactions a
  -- R200: the link reset to come is not clean while the snoop filter tracks a line for the agent.
  let unclean := agentTracked (← get) a
  resolveDead a
  releaseLocksOf a true
  match portOfAgent (← get) a with
  | some p =>
    if unclean then raise (pgAport p) 10
    resetLayer p
    setPort p fun pt => { pt with heldDown := true }
  | none => pure ()
  joinSweep a

/-! ### HALT (15 R677) -/

/-- Send DomainDown to every agent port in ACTIVE, RETRAIN or PROTO_ERR. -/
def sendDomainDown : M Unit := do
  let s ← get
  each ((List.range 16).filter (portUp s)) fun p => sendMsg p (plainMsg 0x3D 0 0 (agentOf s p) 0)

/-- Stop every flow without completion, keeping what step 1 of R679 needs, and discard chains and trackers (R677 step 3). -/
def stopFlows : M Unit := modify fun s =>
  { s with kept := s.kept ++ s.flows, flows := [], chain := [], trackers := [], waits := [], evq := [],
           arb := { s.arb with waiting := [] } }

/-- The halt of a hub (R677). -/
def haltHub (cause : Nat) : M Unit := do
  let s ← get
  if isHalted s then pure ()
  else
    wrF R.GLOBAL_FAIL_STAT_HALTED 1
    wrF R.GLOBAL_FAIL_STAT_CAUSE cause
    incF R.GLOBAL_HALT_CNT_CNT
    raise pgGlobal 1
    sendDomainDown
    stopFlows
    wrF R.GLOBAL_FAIL_STAT_SWEEP 0
    modify fun s => { s with haltAt := s.now, sweep := none, tick := { s.tick with stopped := true } }

/-- The master halts its domain, ordering hub 1 on DOM. -/
def haltDomain (cause : Nat) : M Unit := do
  toPartner (.halt cause)
  haltHub cause

/-- A declaration of a dead agent (R675, R676). -/
def declareDead (a : Nat) (report : Bool) : M Unit := do
  let s ← get
  if isHalted s then pure ()
  else
    wrF R.GLOBAL_DEAD_IDS (Nat.lor (getF s R.GLOBAL_DEAD_IDS) (2 ^ a))
    incF R.GLOBAL_DEAD_CNT_CNT
    raise pgGlobal 0
    if report then toPartner (.deadAgent a)
    if hasPartner s then modify fun s => { s with partnerDead := Nat.lor s.partnerDead (2 ^ a) }
    if getF s R.GLOBAL_FAIL_CTL_DEAD_POL = 1 then reclaimAgent a
    else
      recoveryLoss a
      if isMaster s then haltDomain 1
      else if !hasPartner s then haltHub 1

/-- A link reset of an agent port (R199-R201). -/
def linkReset (p : Nat) : M Unit := do
  let s ← get
  if hasPartner s then modify fun s => { s with free := s.free + 16 }
  if isClean s p then resetLayer p
  else
    raise (pgAport p) 10
    let pol := getF s R.GLOBAL_FAIL_CTL_DEAD_POL
    -- 08 R381: a recovery no longer waits for it, while the domain is halted too.
    if isHalted s then recoveryLoss (agentOf s p)
    declareDead (agentOf s p) true
    if pol != 1 || isHalted s then resetLayer p
  if isHalted (← get) then setPort p fun pt => { pt with heldDown := true }

/-! ### The reclaim sweep (15 R684-R686) -/

/-- One step of the sweep: a set is checked and its ways are cleared; a set in recovery is passed over (R686). -/
def sweepStep : M Unit := do
  match (← get).sweep with
  | none => pure ()
  | some w =>
    if w.left = 0 then
      match w.passed with
      | [] => pure ()
      | x :: t =>
        if inRecovery (← get) x then pure ()
        else
          engineTurn qWeevil
          checkSet x 3
          each (List.range 16) (sweepWay x)
          modify fun s => { s with sweep := s.sweep.map fun w => { w with passed := t } }
    else
      let busy := inRecovery (← get) w.next
      if !busy then
        engineTurn qWeevil
        checkSet w.next 3
        each (List.range 16) (sweepWay w.next)
      modify fun s => { s with sweep := s.sweep.map fun v =>
        { v with next := (v.next + 1) % 32768, left := v.left - 1,
                 passed := if busy then v.passed ++ [w.next] else v.passed } }

/-- A port held in DOWN is released when its agent's DEAD bit is clear on both hubs (R685). -/
def releasePorts (ids : Nat) : M Unit := do
  let s ← get
  each (List.range 16) fun p =>
    onlyIf (ids.testBit (agentOf s p) && !isDead s (agentOf s p) && !s.partnerDead.testBit (agentOf s p)) (setPort p fun pt => { pt with heldDown := false })

/-- The end of the sweep (R685). -/
def sweepEnd : M Unit := do
  let s ← get
  match s.sweep with
  | none => pure ()
  | some w =>
    if w.left = 0 && w.passed == [] then
      wrF R.GLOBAL_DEAD_IDS (getF s R.GLOBAL_DEAD_IDS &&& (2 ^ 32 - 1 - w.ids.toNat))
      wrF R.GLOBAL_FAIL_STAT_SWEEP 0
      modify fun s => { s with sweep := none }
      toPartner (.deadClear w.ids.toNat)
      releasePorts w.ids.toNat

/-! ### Restart and domain reset (15 R679, 16 R721) -/

/-- The sets whose stored entries are not free. -/
def usedSets (s : State) : List Nat :=
  (s.dir.map fun e => e.1 / 16).eraseDups

/-- Lose the line of an Owned entry: poison home, LINE_LOST (R679 step 1). -/
def loseOwned (line : Line) : M Unit := do
  writeHome line 21 0 poisonLine
  loss 1 line

/-- Step 1 of R679 on one set: it is checked (R684), and every stable Owned way is lost. -/
def visitSet (set : Nat) : M Unit := do
  checkSet set 3
  each (List.range 16) fun w => do
    match viewWay (← get) set w with
    | some (.stable tag (.owned _)) => loseOwned (lineOfEntry set tag)
    | _ => pure ()

/-- Step 1 of R679: every set, every way a stopped flow held, every registered lock. -/
def restartVisit : M Unit := do
  let s ← get
  -- The ways of the stopped flows stay theirs during the visit (R679, R348).
  modify fun s => { s with flows := s.kept }
  each (usedSets s) visitSet
  modify fun s => { s with flows := [] }
  each s.kept fun f => do
    match f.orig with
    | .owned _ =>
      match f.got with
      | some d => if f.relayed then loseOwned f.line else writeHome f.line 21 0 d
      | none => loseOwned f.line
    | _ => pure ()
  each s.locks fun e => match e.2 with | some l => loss 2 l.line | none => pure ()
  modify fun s => { s with kept := [] }

/-- Write every dirty home-cache line and every eviction-buffer entry to memory and invalidate the cache (09 R429,
R430). -/
def flushToMemory : M Unit := do
  let s ← get
  match s.search with
  | some x =>
    if needsSearch s x.index then
      orphan x.index 0
      invalidateSlot x.index
  | none => pure ()
  each s.ebuf ebComplete
  let s ← get
  each s.slots fun e => do
    checkSlot e.1
    let sl := slotOf (← get) e.1
    if slotV sl && slotD0 sl then memPutStored (slotLoc sl e.1) sl.data
  each (← get).ebuf ebComplete
  modify fun s => { s with slots := [], ebuf := [], hflush := none, search := none }

/-- Return the fields of a reset class to their reset values: every row of the field table whose class mask has the
bit. Image fields take the word the image wrote (R10, R758). -/
def resetRow (mask : Nat) (pageLo pageN : Nat) (r : FieldRow) (regs img : KV Word) : KV Word :=
  if r.cls / mask % 2 = 0 || r.acc == .wo then regs
  else
    (regs ++ if r.img then img else []).foldl (fun rs e =>
      let pg := e.1 / 4096
      if r.hit pg (e.1 % 4096) && decide (pageLo ≤ pg) && decide (pg < pageLo + pageN) then
        let src := if r.img then kvGet regDflt img e.1 else regDflt e.1
        setReg rs e.1 (withField (getReg rs e.1) r.lo r.w (fieldOf src r.lo r.w))
      else rs) regs

/-- Apply a reset class (4 D, 8 T) to the registers of a range of pages. -/
def resetClass (mask pageLo pageN : Nat) : M Unit := modify fun s =>
  { s with regs := fieldTable.foldl (fun rs r => resetRow mask pageLo pageN r rs s.imgRegs) s.regs }

/-- Abandon an unflipped window, and complete the carry of a flipped one (11 R510). -/
def endWindow (w : Option Window) : M Unit := do
  match w with
  | none => pure ()
  | some w =>
    if w.flipped then
      each w.carry fun line => do
        -- after the flip the carry copies the copy current before into the new current copy
        let s ← get
        let d ← readLoc (nextLoc s line) 4 18 0
        writeLoc (curLoc (← get) line) 4 18 0 d
        setDiff line false

def setFv (f : Fv → Fv) : M Unit := modify fun s => { s with fv := f s.fv }

/-- Requests for invalidations of a window that has ended. -/
def dropInv (w : Window) : M Unit := modify fun s =>
  { s with arb := { s.arb with waiting := s.arb.waiting.filter fun r => !(r.op == .commitInv && w.inv.contains r.line) },
           chain := s.chain.filter fun r => !(r.op == .commitInv && w.inv.contains r.line) }

/-- The early invalidations made for windows of a direction are settled (R486). -/
def dropPreInv (out : Bool) : M Unit := modify fun s =>
  let other := fun (l : Line) => match fvRegion s l with | some r => (descOf s.active r).fvDir != out | none => false
  { s with fv := { s.fv with preInv := s.fv.preInv.filter other } }

/-- Close the commit window: its lines are released, LAST_CLOSE takes the offset (R489 step 7). -/
def closeCommit : M Unit := do
  let s ← get
  match s.fv.commit with
  | some w =>
    dropInv w
    setFv fun v => { v with commit := none }
    dropPreInv false
    wrF R.COMMIT_STAT_WINDOW 0
    -- 11 R489 step 7: an abandoned window has no close to note.
    onlyIf w.flipped (wrF R.COMMIT_LAST_CLOSE_NS10 s.tick.offset)
  | none => pure ()

def closeRelease : M Unit := do
  match (← get).fv.release with
  | some w =>
    dropInv w
    setFv fun v => { v with release := none }
    dropPreInv true
    wrF R.COMMIT_STAT_RELEASE 0
  | none => pure ()

/-- A skipped release (R498): counted on the hub, and a FAULT under OVR_POL FAULT. -/
def releaseSkip : M Unit := do
  incF R.COMMIT_REL_SKIP_CNT_CNT
  errCapFree pgCommit 3
  raise pgCommit 2
  closeRelease

/-- A skipped commit (02 R51, R52). -/
def tickSkip : M Unit := do
  incF R.TICK_SKIP_CNT_CNT
  wrF R.TICK_STAT_SKIPPED 1
  raise pgTick 0
  closeCommit

/-- Ledger banks cleared (02 R96). -/
def clearLedger : M Unit := modify fun s =>
  { s with live := [], regs := s.regs.filter fun e => !(decide (regKey pgLedger 0x80 ≤ e.1) &&
      decide (e.1 < regKey pgLedger 0xC0)) && !(decide (regKey pgLedger 0x100 ≤ e.1) &&
      decide (e.1 < regKey pgLedger 0xD00)) }

/-- Steps 1 to 4 of a domain reset on this hub (R721). Mailboxes are cleared by `mboxDomainReset`, which the callers add
(14 R667). -/
def domainResetSteps (restart : Bool) : M Unit := do
  wrF R.GLOBAL_STAT_D_BUSY 1
  dropLatches
  if !restart then sendDomainDown
  stopFlows
  restartVisit
  let s ← get
  endWindow s.fv.commit
  endWindow s.fv.release
  flushToMemory
  modify fun s => { s with
    flows := [], chain := [], trackers := [], waits := [], evq := [], breaks := [], locks := [], kept := [],
    dir := [], inject := [], recov := none, recovWait := [], sweep := none,
    -- 03 R148: a region whose retire the reset ends stays invalid.
    active := s.active.filter fun e => !s.retiring.contains e.1, retiring := [],
    arb := ⟨[], 0, 0, 0, false, none, 0, none, 0, []⟩,
    fv := { s.fv with commit := none, release := none, preInv := [], visited := [] },
    evt := { s.evt with stopped := true },
    dreset := true, svc := { s.svc with peek := none }, tick := { s.tick with stopped := true } }
  wrF R.DEBUG_PEEK_STAT_BUSY 0
  wrF R.DEBUG_PEEK_STAT_DONE 0
  each (List.range 16) fun p => setPort p fun pt =>
    { pt with tags := [], snoops := [], snpWait := [], txq := pt.txq.filter (·.op == 0x3D), selTenant := 0, selUsed := 0,
              creditPinned := 0, farLocks := [] }
  clearLedger
  -- A tenant reset that runs ends with no completion (R719).
  each (List.range 32) fun t => wrF (R.TENANT_STAT_RESETTING t) 0
  resetClass 4 0 256
  wrF R.DIR_LFSR_STATE_S (getF (← get) R.DIR_LFSR_SEED_SEED)
  wrF R.REGION_STAT_RETIRE_BUSY 0

/-- Step 5 of R721: link resets of the agent ports, held ports released, D_BUSY cleared; the restart then resumes
commits (15 R679 step 4). -/
def domainResetEnd : M Unit := do
  let s ← get
  each (List.range 16) fun p => do
    if portUp s p then resetLayer p
    setPort p fun pt => { pt with heldDown := false }
  wrF R.GLOBAL_STAT_D_BUSY 0
  raise pgGlobal 8
  wrF R.GLOBAL_FAIL_STAT_HALTED 0
  wrF R.GLOBAL_DEAD_IDS 0
  modify fun s => { s with
    partnerDead := 0,
    dreset := false,
    arb := { s.arb with cycles := 0, rotated := false },
    tick := { s.tick with resumeAtEdge := s.tick.resumeAtEdge || s.tick.stopped && getF s R.TICK_STAT_FAULTED == 0 } }

end Sys2Proof.Machine
end

