-- ==== Sys2Proof/Machine/PairLoss.lean ====
section
/-! DEFINITION. Pair-link loss (12 R547-R551). -/

namespace Sys2Proof.Machine

/-- Own agents' requests that were forwarded: ECANX ERROR where EDATA is outstanding, then CmpErr HOME_LOST (R550). -/
def failForwarded (p : Nat) : M Unit := do
  let s ← get
  each (portOf s p).tags fun e =>
    match e.2 with
    | some t =>
      if t.remote then do
        match trackerOf (← get) p e.1 with
        | some tr =>
          dropTracker p e.1
          if !tr.timedOut then sendEcanx p e.1 t.tenant (agentOf s p) t.aa 2
        | none => pure ()
        incF R.PAIR_HOME_LOST_CNT_CNT
        sendMsg p ⟨0x37, e.1, t.tenant, agentOf s p, t.aa, 0x40, 0, []⟩
      else pure ()
    | none => pure ()

/-- The wait edges of this hub's own chains: the graph that hub 1 builds (R550). -/
def ownWaits (s : State) : List Wait :=
  s.chain.filterMap fun r =>
    match r.src, lockOn s r.line with
    | .port _, some (_, l) => some ⟨r.agent, l.holder, r.line, r.tag, r.op == .lkRd, r.stampTick, r.stampOff, false⟩
    | _, _ => none

/-- The partner's agents. -/
def partnerAgents (s : State) : List Nat := (List.range 16).map fun p => p + 16 * (1 - hubNo s)

/-- The RECLAIM table of R550. -/
def reclaimPartner : M Unit := do
  let s ← get
  -- Mantis: the master drops nodes 16-31; hub 1 builds a graph of its own chains.
  if isMaster s then
    modify fun s => { s with
      waits := s.waits.filter fun w => decide (w.waiter < 16) && decide (w.holder < 16),
      evq := s.evq.filter fun w => decide (w.waiter < 16) && decide (w.holder < 16), breaks := [] }
  else modify fun s => { s with waits := ownWaits s }
  -- Partner's requests leave chains, heads and allocation queues.
  modify fun s => { s with
    arb := { s.arb with waiting := s.arb.waiting.filter fun r => decide (reqNo r ≠ 16) && decide (reqNo r ≠ 17) },
    chain := s.chain.filter fun r => decide (reqNo r ≠ 16) && decide (reqNo r ≠ 17) }
  each (partnerAgents s) fun a => declareDead a false
  each (List.range 16) failForwarded
  each (List.range 16) fun p => setPort p fun pt => { pt with farLocks := [] }
  -- A pending decision on hub 1 is abandoned as SKIP; it goes on with its own edges.
  modify fun s => { s with fv := { s.fv with partnerBound := none, partnerRelBound := none } }
  if !isMaster s then
    match s.fv.commit with
    | some w => onlyIf (!w.flipped) tickSkip
    | none => pure ()
    match s.fv.release with
    | some w => onlyIf (!w.flipped) releaseSkip
    | none => pure ()

/-- Declare pair-link loss (R548): HALT or RECLAIM follows. Posted SPI writes to the partner are discarded, each noted
(17 R803), and the partner's paths go. -/
def pairLoss : M Unit := do
  let s ← get
  if isLost s then pure ()
  else
    wrF R.PAIR_STAT_LSTATE 8
    wrF R.PAIR_STAT_LOST 1
    incF R.PAIR_LOSS_CNT_CNT
    raise pgPair 2
    errCapFree pgPair 2
    modify fun s => { s with
      pair := { s.pair with link := Link.empty, txq := [], sent := [], echoes := [], mirrorQ := [] },
      partnerDead := 0,
      paths := s.paths.filter fun e => decide (e.1 < 19) }
    if s.svc.posted > 0 then
      wrF R.GLOBAL_SVC_STAT_PARTNER_ERR 1
      modify fun s => { s with svc := { s.svc with posted := 0 } }
    wrF R.PAIR_MIRROR_PEND_N 0
    if isJoined s then
      if getF s R.GLOBAL_FAIL_CTL_DEAD_POL = 1 then reclaimPartner else haltHub 2

/-! ### What arrives from the partner -/

/-- The credits that each hub advertises on the pair link (R521). -/
def pairAdvertised : List Nat := [96, 64, 64, 128, 64, 32, 64, 32]

/-- Note `n` accepted flits of a channel of the pair link; false when one had no credit (04 R166, R167). Flits that came ahead of their
message (04 R182) are accepted already: the receiver delivers all channels in SEQ order (12 R523). -/
def takePairFlits (c n : Nat) : M Bool := do
  let s ← get
  let l := s.pair.link
  let cnt := kvGet (fun _ => 0) l.rxCount c
  let early := min n l.part
  setPair fun ps => { ps with link := { ps.link with
    rxCount := kvSet (fun _ => 0) ps.link.rxCount c (cnt + n), lastAcc := (ps.link.lastAcc + (n - early)) % 256,
    part := ps.link.part - early, goodAt := s.now, rejecting := false } }
  pure (decide (cnt + n - kvGet (fun _ => 0) l.rxReported c ≤ pairAdvertised.getD c 0))

/-- A message of the partner on channel `c` with `n` data flits, which use DAT buffers: it arrives while the pair link is
in ACTIVE; a flit without a credit is a protocol error of the pair link, which loses it (R548). -/
def fromPair (c n : Nat) (m : M Unit) : M Unit := do
  if pairLstate (← get) = 6 then
    let a ← takePairFlits c 1
    let b ← takePairFlits 3 n
    if a && b then m else pairLoss

end Sys2Proof.Machine
end

