-- ==== Sys2Proof/Machine/Request.lean ====
section
/-! DEFINITION. Agent requests as they arrive (04 R158-R167, R197, R198; 03 R137-R143; 05 R220, R249): flit checks,
admission, and entry into arbitration or onto the pair link. -/

namespace Sys2Proof.Machine

/-! ### Receiving flits -/

/-- The flit buffers the hub advertises: REQ, SNP, RSP, DAT, CMP, MSG (R165). -/
def advertised : Nat → Nat
  | 0 => 64 | 2 => 32 | 3 => 40 | 5 => 16 | _ => 0

/-- Note `n` accepted flits of channel `c`; true when each had a credit (R166, R167). The hub frees a buffer as soon as
its flit is taken, and the sender learns of it by the next STATUS or NAK (log 11). The flits of a data message that came ahead of it
(R182) are accepted already. -/
def takeFlits (p c n : Nat) (ofData : Bool) : M Bool := do
  let s ← get
  let l := (portOf s p).link
  let cnt := kvGet (fun _ => 0) l.rxCount c
  let rep := kvGet (fun _ => 0) l.rxReported c
  let early := if ofData then min n l.part else 0
  setPort p fun pt => { pt with link :=
    { pt.link with rxCount := kvSet (fun _ => 0) pt.link.rxCount c (cnt + n), lastAcc := (pt.link.lastAcc + (n - early)) % 256,
                   part := pt.link.part - early, goodAt := s.now, rejecting := false } }
  pure (decide (cnt + n - rep ≤ advertised c))

/-- The poison and bits of received data flits. -/
def quadsOf (fs : List DFlit) : LineData := fs.map fun f => ⟨f.word, f.poison⟩

/-- LAST on the final flit and on no other (R159). -/
def lastOk : List DFlit → Bool
  | [] => true
  | [f] => f.last
  | f :: t => !f.last && lastOk t

/-- Is a data message framed as the data-flit count of its opcode asks (R197, R209)? -/
def framed (n : Nat) (fs : List DFlit) : Bool := fs.length == n && lastOk fs

/-- Does the port take protocol flits now: running, and in ACTIVE or PROTO_ERR? -/
def receives (s : State) (p : Nat) : Bool := isRunning s && portSends s p

/-- What R197 finds wrong in a message: the PROTO code, with the opcode to record. A framing fault of a data flit with
no open message records opcode 0. Of several violations in one message the first in this order is recorded: FT, VC and direction, no
credit, the opcode's channel, framing (DESIGN CHOICE, log 120). -/
def violation (ft vc chan opcode : Nat) (creditOk framedOk : Bool) : Option (Nat × Nat) :=
  if ft = 2 then some (2, 0)
  else if ft ≠ 0 then some (2, opcode)
  else if vc = 1 ∨ vc = 4 ∨ vc ≥ 6 then some (2, opcode)
  else if !creditOk then some (3, opcode)
  else if vc ≠ chan then some (4, opcode)
  else if !framedOk then some (2, opcode)
  else none

/-- Take a message of an agent at a port: account for its flits and check it. False when it goes no further. A header with FT=0b01 is a
control flit and no message (R158): it counts as a good flit and does nothing else here (log 120). -/
def acceptMsg (p ft vc chan opcode tag : Nat) (fs : List DFlit) (n : Option Nat) : M Bool := do
  let s ← get
  if !receives s p then pure false
  else if ft = 1 then
    setPort p fun pt => { pt with link := { pt.link with goodAt := s.now } }
    pure false
  else
    trace p (hdrBits ft vc (((portOf s p).link.lastAcc + 1) % 256) false false) opcode tag false
    let a ← takeFlits p (if vc < 6 then vc else chan) 1 (!fs.isEmpty)
    let b ← takeFlits p 3 fs.length true
    let b := b || fs.isEmpty
    let framedOk := match n with | some k => framed k fs | none => true
    match violation ft vc chan opcode (a && b) framedOk with
    | some (c, o) => protoErr p c o; pure false
    | none => pure true

/-! ### Tags (R163) -/

/-- Open a tag: its ledger class, opcode and first HOLD due (R188). -/
def openTag (p tag cls op tenant aa ha req : Nat) (remote flag : Bool) : M Unit := do
  let s ← get
  setTag p tag (some ⟨cls, op, tenant, ha / 64, aa, ha, s.now, 0, s.now + holdH s p, req, remote, 3, flag⟩)

/-- A refusal at the port: `CmpErr`, with the tag's wait ended and measured (03 R139, 02 R61). -/
def refuseAt (p tag tenant aa code cls : Nat) : M Unit := do
  let s ← get
  setTag p tag (some ⟨cls, 0, tenant, 0, aa, 0, s.now, 0, 0, 0, false, 0, false⟩)
  sendMsg p ⟨0x37, tag, tenant, agentOf s p, aa, code, 0, []⟩

/-! ### Admission (03 R131-R141) -/

/-- Needs of R140: read, write, cache right. -/
def needs : ReqOp → Bool × Bool × Bool
  | .rdS => (true, false, true)
  | .rdU | .upg => (true, true, true)
  | .rdOnce => (true, false, false)
  | .wrFull | .wrPartial => (false, true, false)
  | .fetchAdd | .swap | .cmpSwap | .lkRd => (true, true, false)
  | _ => (false, false, false)

/-- What the policy says of a request (R140): allowed, POLICY, or "—". Policies: 3 UC, 4 FV. -/
inductive PolicySays where | allowed | policy | dash
  deriving DecidableEq, Repr

def policyTable (op : ReqOp) (policy : Nat) : PolicySays :=
  if policy = 3 then
    match op with
    | .rdS | .rdU | .upg => .policy
    | .wrBack | .evClean => .dash
    | _ => .allowed
  else if policy = 4 then
    match op with
    | .rdS | .rdOnce | .wrFull | .wrPartial | .evClean => .allowed
    | .wrBack | .ulWr => .dash
    | _ => .policy
  else .allowed

/-- The outcome of admission: the HA, a `CmpErr` code of R137, a protocol error (R140 "—"), or after step 4 a line of a partner that
is not there (12 R550). -/
inductive Admission where | ok (ha : Nat) | err (code : Nat) | proto | lost (ha : Nat)
  deriving DecidableEq, Repr

/-- Step 1 of R137: TEN_MASK and TENANT.CTL.EN (R131). -/
def tenantOk (s : State) (p t : Nat) : Bool :=
  (getF s (R.APORT_TEN_MASK_T p)).testBit t && getF s (R.TENANT_CTL_EN t) == 1

def tenantResetting (s : State) (t : Nat) : Bool := getF s (R.TENANT_STAT_RESETTING t) == 1

/-- `WrBack`, `EvClean` and `UlWr` are checked only in steps 1, 3 and 4 (R141). -/
def returnsLine (op : ReqOp) : Bool := op == .wrBack || op == .evClean || op == .ulWr

/-- The right of a tenant in a mask. -/
def right (need : Bool) (mask t : Nat) : Bool := !need || mask.testBit t

/-- A write to an FV region that has no second copy is refused at step 5 (11 R475). -/
def fvWriteBlocked (s : State) (op : ReqOp) (r : Nat) : Bool :=
  (op == .wrFull || op == .wrPartial) && isFv (descOf s.active r) && !copyPlaced s r && shareLines s (descOf s.active r) != 0

/-- The admission checks in the order of R137. -/
def admission (s : State) (p t aa : Nat) (op : ReqOp) : Admission :=
  if !tenantOk s p t then .err 0x01
  else if !returnsLine op && tenantResetting s t then .err 0x02
  else
    match transAa s p aa with
    | none => .err 0x03
    | some ha =>
      match regionAt s ha with
      | none => .err 0x04
      | some r =>
        if s.retiring.contains r then .err 0x04
        else if !isHome s ha && !hasPartner s then .lost ha
        else
          let d := descOf s.active r
          match policyTable op d.policy with
          | .dash => .proto
          | .policy => if returnsLine op then .ok ha else .err 0x05
          | .allowed =>
            if returnsLine op then .ok ha
            else if fvWriteBlocked s op r then .err 0x05
            else
              let (nr, nw, nc) := needs op
              if right nr d.rd t && right nw d.wr t && right nc d.cache t then .ok ha else .err 0x06

/-- Record an admission failure (R139); TENANT is also a security event (15 R699). -/
def admissionFail (p t aa code : Nat) : M Unit := do
  let s ← get
  incF (R.TENANT_ACC_ERR_CNT_CNT t)
  wrF (R.TENANT_LAST_ERR_CODE t) code
  wrF (R.TENANT_LAST_ERR_PORT t) (agentOf s p)
  errCap (pgAport p) code (aa % 2 ^ 32) (aa / 2 ^ 32 % 65536 + agentOf s p * 65536)
  raise (pgAport p) 8
  if code = 0x01 then secEvent 2 t (agentOf s p)

/-! ### Entering arbitration -/

/-- The request of a header. -/
def mkReq (s : State) (src : ReqSrc) (agent : Nat) (op : ReqOp) (tag tenant aa ha : Nat) (flag : Bool) (be : Nat)
    (data : LineData) : Req :=
  { id := s.nextId, src := src, op := op, tag := tag, tenant := tenant, agent := agent, aa := aa, line := ha / 64,
    word := ha / 16 % 4, flag := flag, be := be, data := data, arrived := s.now, granted := s.now, stampTick := 0,
    stampOff := 0, rounds := 0, starved := false, fwd := (match src with | .port p => capFwd s p | _ => false), gone := false,
    void := false }

/-- Put a request before the home arbiter (03 R137, 10 R433). -/
def enqueue (r : Req) : M Unit := modify fun s =>
  { s with arb := { s.arb with waiting := s.arb.waiting ++ [r] }, nextId := s.nextId + 1 }

/-- A write back of an agent that a flow snooped and that answered RspIWbp: the writeback crossing (05 R237, R238). -/
def crossing (s : State) (a line : Nat) : Bool :=
  match flowOf s line with | some f => f.wbp.contains a | none => false

/-- Take a WrBack as the data of a snoop: answered with CmpWb, its data goes to the flow (R237). -/
def takeCrossing (r : Req) : M Unit := do
  incF R.GLOBAL_COH_WB_CROSS_CNT
  answer r 0x35 0 []
  flowAnswer r.line r.agent false (some r.data) false

/-- A request homed here enters arbitration, or is matched at once as a writeback crossing. -/
def present (r : Req) : M Unit := do
  let s ← get
  if r.op = .wrBack && crossing s r.agent r.line then
    modify fun s => { s with nextId := s.nextId + 1 }
    takeCrossing r
  else enqueue r

/-- Ledger class of a request (02, table of R65). -/
def classOf : ReqOp → Nat
  | .rdS => 0 | .rdU => 1 | .upg => 2 | .rdOnce => 3 | .wrBack => 4 | .evClean => 5 | .wrFull => 6 | .wrPartial => 7
  | .fetchAdd | .swap | .cmpSwap => 8
  | .lkRd => 9 | .ulWr => 10
  | _ => 15

/-- A line has a request of this port outstanding, or is locked by its agent and the request is no UlWr (05 R220,
R221). -/
def lineTaken (s : State) (p : Nat) (op : ReqOp) (ha : Nat) : Bool :=
  ((portOf s p).tags.any fun e => match e.2 with | some t => t.op < 0x40 && t.line == ha / 64 && t.op != 0 | none => false) ||
  (op != .ulWr && ((portOf s p).farLocks.contains (ha / 64) ||
    match lockOn s (ha / 64) with | some (_, l) => l.holder == agentOf s p | none => false))

/-- A WrBack of a port has arrived: a snoop of its line that the port answered with RspIWbp is over, its deadline with it
(R238, R239). -/
def endCrossings (p line : Nat) : M Unit := do
  each ((portOf (← get) p).snoops) fun e =>
    match e.2 with
    | some sn => if sn.wbp && sn.line == line then retireSnoop p e.1 else pure ()
    | none => pure ()

/-- Has the port a WrBack of the line outstanding? -/
def wrBackHere (s : State) (p line : Nat) : Bool :=
  (portOf s p).tags.any fun e => match e.2 with | some t => t.op == 0x10 && t.line == line | none => false

/-- OP of `HAtom` (05 R212). -/
def atomBits : ReqOp → Nat
  | .swap => 1
  | .cmpSwap => 2
  | _ => 0

/-- The specific bits of a forwarded request, whose layout on the pair link is the model's own (log 66): the request's flag in bit
0, OP of `HAtom` in bits 2:1, whether its agent may be made forwarder in bit 3, BYTE_EN from bit 16 on. -/
def forwardBits (op : ReqOp) (flag fwd : Bool) (be : Nat) : Nat := flag.toNat + 2 * atomBits op + 8 * fwd.toNat + 65536 * be

/-- A request at a local port, after the flit checks: tag, admission, R220, and then arbitration here or the pair link
(12 R540). -/
def localRequest (p tag t aa : Nat) (opcode : Nat) (op : ReqOp) (flag : Bool) (be : Nat) (data : LineData) : M Unit := do
  let s ← get
  let cls := classOf op
  if lstate s p = 6 && op != .wrBack then pure ()
  else if discards s then pure ()
  else if (tagOf (portOf s p) tag).isSome then protoErr p 5 opcode
  else if op = .evClean && getF s (R.APORT_CAP_EVCLEAN p) != 1 then protoErr p 7 opcode
  else
    match admission s p t aa op with
    | .err code =>
      admissionFail p t aa code
      refuseAt p tag t aa code cls
    | .proto => protoErr p 7 opcode
    | .lost _ =>
      incF R.PAIR_HOME_LOST_CNT_CNT
      refuseAt p tag t aa 0x40 cls
    | .ok ha =>
      if lineTaken s p op ha then protoErr p 7 opcode
      else
      if op = .wrBack then endCrossings p (ha / 64)
      if isHome s ha then
        openTag p tag cls opcode t aa ha s.nextId false flag
        -- 05 R215: a WrPartial that enables no byte changes nothing.
        if op = .wrPartial && be = 0 then
          sendMsg p ⟨0x35, tag, t, agentOf s p, aa, 0, 0, []⟩
        else present (mkReq s (.port p) (agentOf s p) op tag t aa ha flag be data)
      else
        openTag p tag cls opcode t aa ha s.nextId true flag
        toPartner (.request opcode (agentOf s p) tag t ha (forwardBits op flag (capFwd s p) be) data)

/-- The region of a line, as a write to it meets it here: without a second copy of this hub's share it is refused (11 R475). -/
def shareBlocked (s : State) (op : ReqOp) (ha : Nat) : Bool :=
  match regionAt s ha with
  | some r => fvWriteBlocked s op r
  | none => false

/-- A request that the partner forwards for one of its agents; its port has admitted it (03 R112, 12 R540). `fwd` says whether the
agent may be made forwarder (05 R232). A WrPartial that enables no byte changes nothing (05 R215). -/
def remoteRequest (a tag t ha : Nat) (op : ReqOp) (flag fwd : Bool) (be : Nat) (data : LineData) : M Unit := do
  let s ← get
  if !hasPartner s || discards s || !isHome s ha then pure ()
  else
    let r := { mkReq s (.pair a) a op tag t ha ha flag be data with fwd := fwd }
    if shareBlocked s op ha then answerErr r 0x05
    else if op = .wrPartial && be = 0 then answer r 0x35 0 []
    else present r

/-- A request of an engine of the partner for a line homed here, at requester input PAIR_ENG (12 R540). -/
def engineRequest (q t ha : Nat) (op : ReqOp) (be : Nat) (data : LineData) : M Unit := do
  let s ← get
  if !hasPartner s || discards s || !isHome s ha || shareBlocked s op ha then pure ()
  else present (mkReq s (.pairEng q) 32 op 0 t ha ha false be data)

/-- A request of a header, from either side. `n` is its number of data flits, `chan` its channel. -/
def request (h : Hdr) (opcode chan : Nat) (op : ReqOp) (flag : Bool) (be : Nat) (fs : List DFlit) (n : Option Nat) :
    M Unit := do
  match h.src with
  | .agent p =>
    if ← acceptMsg p.val h.ft.val h.vc.val chan opcode h.tag.val fs n then
      localRequest p.val h.tag.val h.tenant.val h.addr.toNat opcode op flag be (quadsOf fs)
  | .partner a =>
    fromPair (bif fs.isEmpty then 0 else 3) fs.length <|
      remoteRequest a.val h.tag.val h.tenant.val (h.addr.toNat % 2 ^ 30) op flag (h.addr.getLsbD 47) be (quadsOf fs)
  | .engine q => fromPair 6 fs.length (engineRequest q.val h.tenant.val (h.addr.toNat % 2 ^ 30) op be (quadsOf fs))

/-- `HAtom` with the reserved OP (05 R249): its data flits are taken and discarded, and the port enters PROTO_ERR. -/
def reservedAtom (h : Hdr) (fs : List DFlit) : M Unit := do
  match h.src with
  | .agent p =>
    if ← acceptMsg p.val h.ft.val h.vc.val 3 0x13 h.tag.val fs none then protoErr p.val 7 0x13
  | _ => pure ()

/-! ### Snoop responses (04 R196, 05 R225, R226) -/

/-- May a response answer a snoop (R225)? Opcodes 0x60 RspI, 0x61 RspS, 0x62 RspIWb, 0x63 RspSWb, 0x64 RspFwd, 0x65
RspIWbp. -/
def allowed (k : SnpKind) (noData : Bool) (opcode : Nat) : Bool :=
  match k with
  | .snpS => [0x60, 0x61, 0x62, 0x63, 0x65].contains opcode
  | .snpInv => [0x60, 0x62, 0x65].contains opcode
  | .snpFwdS => opcode == 0x64 || opcode == 0x60 || (opcode == 0x61 && noData)
  | .snpFwdU => opcode == 0x64 || opcode == 0x60
  | .snpFlushSet => opcode == 0x60

/-- Does the responder keep the line in S: RspS, RspSWb, or RspFwd to a SnpFwdS? -/
def keeps (k : SnpKind) (opcode : Nat) : Bool :=
  opcode == 0x61 || opcode == 0x63 || (opcode == 0x64 && k == .snpFwdS)

/-- A flushed agent has answered (08 R369, R372). -/
def flushAnswer (a : Nat) : M Unit := modify fun s =>
  { s with recov := s.recov.map fun r => { r with pend := r.pend.filter (· != a) } }

/-- A WrBack of the agent for the line that is already here: in arbitration or in the chain. -/
def waitingWb (s : State) (a line : Nat) : Option Req :=
  (s.arb.waiting ++ s.chain).find? fun r => r.op == .wrBack && r.agent == a && r.line == line

/-- RspIWbp at home: the crossing WrBack is taken if it is here, else awaited (R237, R238). -/
def awaitWb (a line : Nat) : M Unit := do
  let s ← get
  match flowOf s line with
  | none => pure ()
  | some f =>
    putFlow { f with pend := f.pend.filter (· != a), wbp := f.wbp ++ [a] }
    match waitingWb s a line with
    | some r =>
      leaveChain r
      modify fun s => { s with arb := { s.arb with waiting := s.arb.waiting.filter fun x => x.id != r.id } }
      takeCrossing r
    | none => pure ()

/-- What a response means to the flow of its line, on its home hub. -/
def homeAnswer (k : SnpKind) (a line opcode : Nat) (data : LineData) : M Unit := do
  if k = .snpFlushSet then flushAnswer a
  else if opcode = 0x65 then awaitWb a line
  else
    if opcode = 0x60 then countStale k line
    flowAnswer line a (keeps k opcode) (if data.isEmpty then none else some data) (opcode == 0x64)

/-- A response at a local port. -/
def localResponse (p sid opcode : Nat) (data : LineData) : M Unit := do
  let s ← get
  let pt := portOf s p
  if !(kvGet (fun _ => false) pt.issued sid) then protoErr p 6 opcode
  else
    match snoopOf pt sid with
    | none => pure ()
    | some sn =>
      if sn.wbp then pure ()
      else if !allowed sn.kind sn.noData opcode ||
          (opcode = 0x64 && (!profileF s || getF s (R.APORT_CAP_VER p) == 1)) then protoErr p 7 opcode
      else
        measure 14 p 0 (s.now - sn.first)
        if opcode = 0x65 && !wrBackHere s p sn.line then setSnoop p sid (some { sn with wbp := true, sent := s.now })
        else retireSnoop p sid
        let a := agentOf s p
        if sn.remote then toPartner (.response a opcode (if sn.kind = .snpFlushSet then sn.set else sn.line * 64) data)
        else homeAnswer sn.kind a sn.line opcode data

/-- The kind of snoop that a flow sent to a remote agent. -/
def remoteKind (s : State) (line a : Nat) : SnpKind :=
  match flowOf s line with
  | some f => ((snoopsFor s f).find? fun x => x.1 == a).map (fun x => x.2.1) |>.getD .snpInv
  | none => .snpInv

/-- A response of a header with its data flits; the partner's carries the HA of the line, or for SnpFlushSet its set
with no flow waiting on it. -/
def response (r : RspHdr) (opcode chan : Nat) (fs : List DFlit) (n : Nat) : M Unit := do
  match r.src with
  | .agent p =>
    if ← acceptMsg p.val r.ft.val r.vc.val chan opcode r.sid.val fs (some n) then
      localResponse p.val r.sid.val opcode (quadsOf fs)
  | .partner a => fromPair (bif fs.isEmpty then 2 else 3) fs.length do
    let s ← get
    if hasPartner s then
      let line := r.addr.toNat / 64
      match flowOf s line with
      | some f =>
        if f.pend.contains a.val then homeAnswer (remoteKind s line a.val) a.val line opcode (quadsOf fs)
        else if opcode = 0x60 then flushAnswer a.val
      | none => if opcode = 0x60 then flushAnswer a.val
  | .engine _ => pure ()

end Sys2Proof.Machine
end

