-- ==== Sys2Proof/Machine/Arb.lean ====
section
/-! DEFINITION. The home arbiter (10 R433-R446) and what follows a grant: chains and allocation queues (07 R299-R306), the
commands ARBITER_GRANT, CHAIN_HEAD_START, ALLOC_QUEUE_RETRY, ROUND_END and STARVE_CLEAR. -/

namespace Sys2Proof.Machine

/-! ### Readiness -/

/-- Does a syndrome search run on the slot of the line (09 R412)? -/
def searchBusyFor (s : State) (line : Line) : Bool :=
  match s.search with | some x => x.index == slotIx (curLoc s line) || x.index == slotIx (nextLoc s line) | none => false

/-- Is the line Busy for a new grant: Busy, or with a request in its chain (R299)? The commit engine's own invalidation
is part of the window that holds the line (R303). -/
def busyFor (s : State) (r : Req) : Bool :=
  if r.op == .commitInv then (flowOf s r.line).isSome
  else if passesAlloc s r then false
  else lineBusy s r.line || s.chain.any fun x => x.line == r.line

/-- May the arbiter grant the request (R301, R434)? -/
def readyReq (s : State) (r : Req) : Bool :=
  !searchBusyFor s r.line && !(s.search.isSome && needsSearch s (slotIx (curLoc s r.line))) && !(busyFor s r && decide (1024 ≤ s.chain.length) &&
    !(r.op == .ulWr && match lockOn s r.line with | some (_, l) => l.holder == r.agent | none => true))

/-- The requests that a requester presents to the arbiter. -/
def waitingAt (s : State) (q : Nat) : List Req := s.arb.waiting.filter fun r => reqNo r == q && !awaitsMatch s r

/-- The oldest request of a tenant at a port. -/
def headOf (s : State) (q t : Nat) : Option Req := (waitingAt s q).find? fun r => r.tenant == t

/-- Has the tenant a request ready at the port? -/
def tenantReady (s : State) (q t : Nat) : Bool := match headOf s q t with | some r => readyReq s r | none => false

/-- The tenant a port offers next (R440). -/
def pickTenant (s : State) (q : Nat) : Option Nat :=
  let pt := portOf s q
  let others := ((List.range 32).map fun i => (pt.selTenant + 1 + i) % 32).find? fun t => t != pt.selTenant && tenantReady s q t
  if tenantReady s q pt.selTenant &&
      (decide (pt.selUsed < getF s (R.TENANT_QOS_WEIGHT pt.selTenant)) || others.isNone) then some pt.selTenant
  else others

/-- The request a requester presents, when it is ready. -/
def offer (s : State) (q : Nat) : Option Req :=
  if q < 16 then match pickTenant s q with | some t => headOf s q t | none => none
  else match (waitingAt s q).head? with | some r => if readyReq s r then some r else none | none => none

def isReady (s : State) (q : Nat) : Bool := (offer s q).isSome

/-! ### The choice (R435-R437) -/

/-- May the requester at the pointer keep the grant: Ibex hold, weight left, or Park with no other ready? -/
def keepsGrant (s : State) (ready : Nat → Bool) (q : Nat) : Bool :=
  s.arb.holder == some q && (ibex s q || decide (s.arb.used < reqWeight s q) ||
    !((List.range 22).any fun x => x != q && ready x))

/-- The requester granted next among those that `ready` names: the one at the pointer while it keeps the grant, or when no
requester holds it, else the next ready one. -/
def grantAmong (s : State) (ready : Nat → Bool) : Option Nat :=
  if ready s.arb.ptr && (s.arb.holder.isNone || keepsGrant s ready s.arb.ptr) then some s.arb.ptr
  else ((List.range 22).map fun i => (s.arb.ptr + 1 + i) % 22).find? ready

def nextGrant (s : State) : Option Nat := grantAmong s (isReady s)

/-- The requester that holds the grant is no longer ready: it passes the pointer on, and its Ibex hold ends (R435, R437). -/
def passPointer : M Unit := do
  dropHold
  modify fun s => { s with arb := { s.arb with
    ptr := (s.arb.ptr + 1) % 22, rotated := s.arb.rotated || s.arb.ptr == 21 } }

/-- A core cycle passes with the holder of the grant not ready. -/
def holderCycle : M Unit := do
  let s ← get
  match s.arb.holder with
  | some q => onlyIf (!isReady s q) passPointer
  | none => pure ()

/-- Advance the tenant selection of a port (R440). -/
def useTenant (q t : Nat) : M Unit :=
  onlyIf (decide (q < 16)) (setPort q fun pt =>
    if pt.selTenant = t then { pt with selUsed := pt.selUsed + 1 } else { pt with selTenant := t, selUsed := 1 })

/-! ### The grant -/

/-- The reason while a flow runs: an eviction (07 R312), the pair link, else its snoops. -/
def flowReason (s : State) (f : Flow) : Nat :=
  if f.phase == .evict then 5 else if (f.pend ++ f.wbp).any fun a => (portOfAgent s a).isNone then 3 else 1

/-- The reason a waiting request would be sent in a `HOLD` (04 R189, 07 R301-R312). -/
def holdReason (s : State) (id : Nat) : Nat :=
  match s.arb.waiting.find? fun r => r.id == id with
  | some r => if searchBusyFor s r.line then 5 else 0
  | none =>
    match s.chain.find? fun r => r.id == id with
    | some r =>
      match flowOf s r.line with
      | some f =>
        if f.busy == .lock then 2 else if f.busy == .commit then 4
        else if (f.pend ++ f.wbp).any fun a => (portOfAgent s a).isNone then 3 else 1
      | none => if heldBy s s.fv.commit r.line || heldBy s s.fv.release r.line then 4 else 1
    | none =>
      match s.flows.find? fun f => f.req.id == id with
      | some f => if f.phase == .alloc then 0 else flowReason s f
      | none => 0

/-- Report the reason of a forwarded request to its hub (12 R541). -/
def reportReason (r : Req) : M Unit := do
  let s ← get
  match r.src with
  | .pair a => toPartner (.holdReason a r.tag (holdReason s r.id))
  | _ => pure ()

/-- A granted request at its line: a lock's release, the chain, or its flow (07 R299, 05 R227). -/
def serveGrant (r : Req) : M Unit := do
  let s ← get
  if r.op = .ulWr then unlockWrite r
  else if beforeWindow s r && (flowOf s r.line).isNone && !searchBusyFor s r.line then windowWrite r
  else if busyFor s r then joinChain r
  else startFlow r
  reportReason r

/-- Grant a request of a requester (R434). A damaged dirty tag met at the slot of its line starts a search, and the
request waits (09 R408, R412). One search runs at a time. -/
def grant (q : Nat) (r : Req) : M Unit := do
  let s ← get
  if needsSearch s (slotIx (curLoc s r.line)) then startSearch (slotIx (curLoc s r.line))
  else
    countGrant q r.tenant
    useTenant q r.tenant
    modify fun s => { s with arb := { s.arb with waiting := s.arb.waiting.filter fun x => x.id != r.id } }
    serveGrant { r with granted := s.now, stampTick := tickNum s, stampOff := s.tick.offset }

/-- ARBITER_GRANT: the arbiter grants the next ready request. In an Ibex hold whose requester is no longer ready the hold
ends (R437). -/
def doArbiterGrant : M Unit := do
  let s ← get
  if !isRunning s || discards s then pure ()
  else
    match nextGrant s with
    | none => holderCycle
    | some q =>
      match offer s q with
      | some r => grant q r
      | none => pure ()

def execArbiterGrant (s : State) : Host.Outcome State Fault Refusal := finish doArbiterGrant s

/-- CHAIN_HEAD_START: the line left its Busy state, and the next request of its chain starts (07 R300). -/
def doChainHeadStart (line : Line) : M Unit := do
  let s ← get
  match chainHead s line with
  | some r =>
    if searchBusyFor s line then pure ()
    else if needsSearch s (slotIx (curLoc s line)) then startSearch (slotIx (curLoc s line))
    else
      startChainHead line
      reportReason r
  | none => pure ()

def execChainHeadStart (line : BitVec 24) (s : State) : Host.Outcome State Fault Refusal :=
  finish (doChainHeadStart line.toNat) s

/-- ALLOC_QUEUE_RETRY: the flow at the head of a set's allocation queue tries again (08 R353). -/
def execAllocQueueRetry (set : Fin 32768) (s : State) : Host.Outcome State Fault Refusal := finish (retryAlloc set.val) s

/-! ### Rounds and starvation (R441-R445) -/

/-- WAITq.CUR against THR: a requester whose CUR has become greater is flagged, once while it stays so (R443). -/
def checkStarve (q : Nat) : M Unit := do
  let s ← get
  let thr := getF s R.ARB_STARVE_THR_THR
  let above := thr != 0 && decide (thr < getF s (R.ARB_WAIT_CUR q))
  if above && !s.arb.starving.contains q then
    wrF R.ARB_STARVE_FLAG (getF s R.ARB_STARVE_FLAG ||| 2 ^ q)
    raise pgArb 0
  modify fun s => { s with arb := { s.arb with
    starving := s.arb.starving.filter (· != q) ++ if above then [q] else [] } }

/-- The wait counter of a requester at the end of a round. -/
def roundRequester (q : Nat) : M Unit := do
  let s ← get
  if (waitingAt s q).isEmpty then pure ()
  else
    incF (R.ARB_WAIT_CUR q)
    maxF (R.ARB_WAIT_MAX q) (getF (← get) (R.ARB_WAIT_CUR q))
  checkStarve q

/-- The rounds of each waiting request, and STARVE_CNT of its tenant when it crosses THR (R444). -/
def roundRequests : M Unit := do
  let s ← get
  let thr := getF s R.ARB_STARVE_THR_THR
  each (s.arb.waiting.filter fun r => thr != 0 && !r.starved && decide (r.rounds + 1 > thr) && ofAgent r) fun r =>
    incF (R.TENANT_STARVE_CNT_CNT r.tenant)
  modify fun s => { s with arb := { s.arb with waiting := s.arb.waiting.map fun r =>
    { r with rounds := r.rounds + 1, starved := r.starved || (thr != 0 && decide (r.rounds + 1 > thr)) } } }

/-- ROUND_END: a rotation is complete, or 64 core cycles have passed since the last round ended (R441). -/
def doRoundEnd : M Unit := do
  let s ← get
  if !s.arb.rotated && s.arb.cycles < 64 then pure ()
  else
    if !s.arb.waiting.isEmpty then
      each (List.range 22) roundRequester
      roundRequests
      if s.arb.hold.isSome then
        maxF R.ARB_HOLD_MAX_ROUNDS (min (s.arb.holdRounds + 1) 65535)
        modify fun s => { s with arb := { s.arb with holdRounds := s.arb.holdRounds + 1 } }
    modify fun s => { s with arb := { s.arb with
      rotated := false, cycles := if s.arb.rotated then 0 else s.arb.cycles - 64 } }

def execRoundEnd (s : State) : Host.Outcome State Fault Refusal := finish doRoundEnd s

end Sys2Proof.Machine
end

