-- ==== Sys2Proof/Machine/Engine.lean ====
section
/-! DEFINITION. Accesses of the hub's own engines to lines (10 R433, 11 R478): the station engine and event unit write FV lines and
read them; each access counts as one grant of its requester input (log 18). -/

namespace Sys2Proof.Machine

/-- Write a line, or the enabled bytes of one of its words, for an engine: the write goes before the home arbiter at the engine's
input, or to the partner that homes the line (12 R540). A region without a second copy takes no write (R475). A capture ring outside
every region, in the cargo area or where no memory is backed is written all the same (DESIGN CHOICE, log 117). -/
def engWrite (q : Nat) (line : Line) (op : ReqOp) (word be : Nat) (data : LineData) : M Unit := do
  let s ← get
  if !isHome s (line * 64) then toPartner (.engineWrite (line * 64 + 16 * word) be data)
  else if shareBlocked s op (line * 64) then pure ()
  else enqueue (engineReq s q op line word be data)

/-- The copy of an FV line that readers meet once its carry is done. -/
def engRead (q : Nat) (line : Line) : M LineData := do
  let s ← get
  engineTurn q
  let inCarry := fun (w : Option Window) => match w with | some x => x.flipped && x.carry.contains line | none => false
  if inCarry s.fv.commit || inCarry s.fv.release then readLoc (nextLoc s line) 4 q 0 else readHome line q 0

/-- Words read over the pair link as line data. -/
def flitWords (fs : List DFlit) : LineData := fs.map fun f => ⟨f.word, f.poison⟩

/-- Four words that the spec leaves open (log 3). -/
def drawLine : Nat → M LineData
  | 0 => pure []
  | n + 1 => do
    let a ← drawWord
    let b ← drawWord
    let c ← drawWord
    let d ← drawWord
    let r ← drawLine n
    pure (⟨a ++ b ++ c ++ d, false⟩ :: r)

/-- Read a partner's line for an engine: the read goes out on ENG, and its four words `fs` come back on DAT (12 R540). What
an engine reads of a lost partner's line the spec does not say. -/
def pairRead (line : Line) (fs : List DFlit) : M LineData := do
  if hasPartner (← get) then
    toPartner (.engineRead (line * 64))
    fromPair 3 fs.length (pure ())
    pure (flitWords fs)
  else drawLine 4

/-- The 64 bytes of a line. -/
def lineBytes (d : LineData) : List Nat := (d.map fun x => natToBytes 16 x.bits.toNat).flatten

/-- A line made of bytes, with its words' POISON clear. -/
def bytesLine (bs : List Nat) : LineData :=
  (List.range 4).map fun j => ⟨BitVec.ofNat 128 (bytesToNat ((bs.drop (16 * j)).take 16)), false⟩

/-- A list of numbers made `n` long with zeros. -/
def padTo (n : Nat) (l : List Nat) : List Nat := (l ++ List.replicate n 0).take n

end Sys2Proof.Machine
end

