-- ==== Sys2Proof/Machine/Station.lean ====
section
/-! DEFINITION. The station engine (13 R600-R613): entries and their checks, inputs, the quality line, station states, outputs,
binding. -/

namespace Sys2Proof.Machine

def stnOf (s : State) (e : Nat) : Stn := kvGet (fun _ => Stn.empty) s.stns e

def setStn (e : Nat) (f : Stn → Stn) : M Unit := fun s =>
  ((), { s with stns := kvSet (fun _ => Stn.empty) s.stns e (f (stnOf s e)) })

def stnState (s : State) (e : Nat) : Nat := getF s (R.STATION_STATUS_STATE e)

def stnUid (s : State) (e : Nat) : Nat :=
  getF s (R.STATION_ENTRY_UID_LO_UID e) + getF s (R.STATION_ENTRY_UID_HI_UID e) * 2 ^ 32

/-- Does the station engine run now: EN, stage RUN, no STANDBY (R622)? -/
def stationOn (s : State) : Bool := getF s R.STATION_CTL_EN == 1 && isRunning s && !inStandby s

/-- The entries in order. -/
def entries : List Nat := List.range 48

/-! ### Checks (R605, R609) -/

/-- An FV region of a direction that holds the bytes from an HA on. -/
def fvHolds (s : State) (ha len : Nat) (out : Bool) : Bool :=
  match regionAt s ha with
  | some r =>
    let d := descOf s.active r
    isFv d && d.fvDir == out && !s.retiring.contains r && decide (ha + len ≤ d.base + 2 ^ d.size)
  | none => false

/-- Is an entry usable (R605)? -/
def entryUsable (s : State) (e : Nat) : Bool :=
  let inHa := getF s (R.STATION_ENTRY_IN_HA_LINE e) * 64
  let outHa := getF s (R.STATION_ENTRY_OUT_HA_LINE e) * 64
  inHa % 256 == 0 && fvHolds s inHa 256 false &&
    fvHolds s outHa (max 1 (getF s (R.STATION_ENTRY_CTL_OUT_LEN e))) true &&
    decide (getF s (R.STATION_ENTRY_CTL_IN_LEN e) ≤ 240) && decide (getF s (R.STATION_ENTRY_CTL_OUT_LEN e) ≤ 240)

/-- The node of an entry's UID, when the hub knows one (R606): its routing generation resolves it. -/
def entryNode (s : State) (e : Nat) : Option Nat :=
  (s.fabric.nodes.find? fun x => x.1 == stnUid s e).map (·.2)

/-- Is a node reachable by the routing table? -/
def reachable (s : State) (d : Nat) : Bool := decide (getF s (R.FABRIC_ROUTE_PORT d) < 4)

def setStnState (e n : Nat) : M Unit := wrF (R.STATION_STATUS_STATE e) n

/-- A configuration error of the station page: entry number, or 0xFF for the quality line (R605, R609, R619). -/
def stnCfgErr (n : Nat) : M Unit := do
  wrF R.STATION_STAT_CFG_ERR 1
  raise 0x21 5
  let code ← drawCode
  errCap1 0x21 code n

/-- Send BIND to an entry (R602, R603). -/
def sendBind (e : Nat) : M Unit := do
  let s ← get
  match entryNode s e with
  | some d =>
    setStn e fun x => { x with sends := x.sends + 1, bindAt := s.now, waiting := true }
    let _ ← fOriginate 5 d [1, nodeId s, getF s (R.STATION_ENTRY_CTL_IN_LEN e), getF s (R.STATION_ENTRY_CTL_OUT_LEN e),
      getF s (R.STATION_ENTRY_OUT_TMO_N e)]
  | none => pure ()

/-- Start binding an entry: enabled and reachable (R603). -/
def startBind (e : Nat) : M Unit := do
  let s ← get
  if getF s (R.STATION_ENTRY_CTL_EN e) = 1 then
    match entryNode s e with
    | some d =>
      if reachable s d then
        setStn e fun x => { x with sends := 0 }
        wrF (R.STATION_STATUS_BOUND e) 0
        sendBind e
    | none => pure ()

/-- Enter DROPPED (R610). -/
def dropEntry (e : Nat) : M Unit := do
  setStnState e 4
  incF (R.STATION_MISS_DROP_CNT e)
  raise 0x21 0

/-- Check an entry at a write of 1 to its EN, or when a region set takes effect (R605, R610). -/
def checkEntry (e : Nat) : M Unit := do
  let s ← get
  if getF s (R.STATION_ENTRY_CTL_EN e) = 0 then setStnState e 0
  else if entryUsable s e then onlyIf (stnState s e == 0) (setStnState e 1)
  else
    setStnState e 0
    stnCfgErr e

/-- Check the quality line (R609). -/
def checkQual : M Unit := do
  let s ← get
  if getF s R.STATION_CTL_EN = 1 then
    let ok := fvHolds s (getF s R.STATION_QUAL_HA_LINE * 64) 64 false
    modify fun s => { s with qualOk := ok }
    if !ok then stnCfgErr 0xFF

/-- The checks at a region set that takes effect. -/
def checkStations : M Unit := do
  each entries fun e => do
    if getF (← get) (R.STATION_ENTRY_CTL_EN e) = 1 then checkEntry e
  checkQual

/-! ### Inputs (R607, R608) -/

def ovrPol (s : State) : Nat := getF s R.TICK_CTL_OVR_POL

/-- Is the stretch of this tick still to be fixed: an overrun under STRETCH whose window has not closed (02 R53)? The phase points
of the tick wait for it. -/
def stretchOpen (s : State) : Bool := s.tick.overrun && ovrPol s == 1 && s.fv.commit.isSome

/-- The block that an accepted STN_IN writes: data, zeros, the subheader with SEQ in bytes 8-9. -/
def inputBlock (f : Frame) (len : Nat) : List Nat :=
  let bs := pbytes f
  padTo 240 ((bs.drop 16).take len) ++ bs.take 8 ++ natToBytes 2 f.seq.toNat ++ padTo 6 ((bs.drop 10).take 6)

/-- Write an entry's block into the next copy, line by line. -/
def writeBlock (line : Line) (bs : List Nat) : M Unit :=
  each (List.range 4) fun i =>
    engWrite qStation (line + i) .wrFull 0 0xFFFF (bytesLine ((bs.drop (64 * i)).take 64))

/-- A frame accepted for the tick in progress. -/
def acceptInput (e : Nat) (f : Frame) (tick : Nat) : M Unit := do
  let s ← get
  let len := min (pfield f 4 1) 240
  writeBlock (getF s (R.STATION_ENTRY_IN_HA_LINE e)) (inputBlock f len)
  setStn e fun x => { x with got := true }
  wrF (R.STATION_LAST_SAMPLE_NUM e) tick
  if stnState s e = 1 || stnState s e = 4 then
    setStnState e 2
    wrF (R.STATION_RECONNECT_TICK_NUM e) tick

/-- The first late frame of a tick (R502, R610): a tick that MISS_CNT took at the cut-off goes into LATE_CNT instead. -/
def lateInput (e : Nat) : M Unit := do
  if (stnOf (← get) e).missed then
    let n ← rdF (R.STATION_MISS_CNT_CNT e)
    onlyIf (decide (n < 2 ^ 32 - 1)) (wrF (R.STATION_MISS_CNT_CNT e) (n - 1))
    incF (R.STATION_LATE_CNT_CNT e)
  setStn e fun x => { x with late := true, missed := false }

/-- An STN_IN frame at the entry of its node (R607); no tick is in progress while the tick does not run. While the stretch of the tick is open the cut-off has not come (02 R53). -/
def takeInput (e : Nat) (f : Frame) : M Unit := do
  let s ← get
  let tick := pfield f 0 4
  if tick ≠ tickNum s || !s.tick.running then
    incF (R.STATION_STEP_ERR_CNT_CNT e)
    raise 0x21 3
  else if (stnOf s e).got then pure ()
  else if (decide (s.tick.cutoff + s.tick.stretch < s.tick.offset) && !stretchOpen s) || s.tick.cutDone then
    lateInput e
    incF R.COMMIT_LATE_IN_CNT_CNT
    errCap1 pgCommit 2 f.src.toNat
    raise pgCommit 1
    raise 0x21 2
  else acceptInput e f tick

/-- The station engine takes an STN_IN delivered here. -/
def stnIn (f : Frame) : M Unit := do
  let s ← get
  if stationOn s then
    match entries.find? fun e => stnState s e != 0 && entryNode s e == some f.src.toNat with
    | some e => takeInput e f
    | none => pure ()

/-- Q, miss counts and dropout of one entry at the cut-off (R610). -/
def cutEntry (e : Nat) : M Unit := do
  let s ← get
  if stnState s e ≠ 0 then
    let x := stnOf s e
    wrF (R.STATION_STATUS_Q e) x.got.toNat
    if x.got then wrF (R.STATION_MISS_CUR e) 0
    else
      if x.late then incF (R.STATION_LATE_CNT_CNT e) else incF (R.STATION_MISS_CNT_CNT e)
      setStn e fun y => { y with missed := !x.late }
      incF (R.STATION_MISS_CUR e)
      let n := getF (← get) (R.STATION_MISS_CUR e)
      onlyIf ((stnState s e == 2 || stnState s e == 3) && decide (getF s (R.STATION_ENTRY_CTL_MISS_LIM e) ≤ n)) (dropEntry e)

/-- The quality line (R608). -/
def qualityLine (s : State) : LineData :=
  let q := entries.foldl (fun a e => a + (if (stnOf s e).got then 2 ^ e else 0)) 0
  let d := entries.foldl (fun a e => a + (if stnState s e = 4 ∨ stnState s e = 2 then 2 ^ e else 0)) 0
  [⟨BitVec.ofNat 128 q, false⟩, ⟨BitVec.ofNat 128 d, false⟩, ⟨BitVec.ofNat 128 (tickNum s), false⟩, Quad.zero]

/-- IN_CUTOFF: at tk+IN_CUTOFF, S later in a stretched tick (02 R53), the quality line and the miss counts. -/
def doInCutoff : M Unit := do
  let s ← get
  if s.tick.running && !s.tick.cutDone && decide (s.tick.cutoff + s.tick.stretch ≤ s.tick.offset) &&
      !stretchOpen s then
    modify fun s => { s with tick := { s.tick with cutDone := true } }
    if stationOn s then
      each entries cutEntry
      let s ← get
      onlyIf s.qualOk (engWrite qStation (getF s R.STATION_QUAL_HA_LINE) .wrFull 0 0xFFFF (qualityLine s))

/-! ### Outputs (R611-R613) -/

/-- The bytes and poison bits of an output block: local lines from memory, a partner's from `remote`, the words of the
block read over the pair link (12 R540). -/
def outputLines (ha : Nat) (remote : List DFlit) : Nat → Nat → M (List Nat × List Bool)
  | _, 0 => pure ([], [])
  | i, n + 1 => do
    let s ← get
    let line := ha / 64 + i
    let (bs, po) ← if isHome s (line * 64) then do
        let d ← engRead qStation line
        pure (lineBytes d, d.map (·.poison))
      else do
        let d ← pairRead line ((remote.drop (4 * i)).take 4)
        pure (padTo 64 (lineBytes d), (List.range 4).map fun j => (d.getD j Quad.zero).poison)
    let (rest, po') ← outputLines ha remote (i + 1) n
    pure (bs ++ rest, po ++ po')

/-- The POISON mask of `len` bytes from word offset `w` (15 R694). -/
def poisonMask (po : List Bool) (w len : Nat) : Nat :=
  (List.range 15).foldl (fun a i => a + (if 16 * i < len ∧ po.getD (w + i) false then 2 ^ i else 0)) 0

/-- Subheader of an STN_OUT (R601). -/
def outHeader (stamp apply_ len flags mask : Nat) : List Nat :=
  natToBytes 4 stamp ++ natToBytes 4 apply_ ++ [len, flags] ++ natToBytes 2 mask ++ [0, 0, 0, 0]

/-- Byte i of an entry's safe pattern (R618). -/
def safeBytes (s : State) (e len : Nat) : List Nat :=
  (((List.range 60).map fun w => natToBytes 4 (getF s (R.STATION_SAFE_BYTES (e / 16) (60 * (e % 16) + w)))).flatten).take len

/-- Send the frame of one entry (R611). -/
def sendOutput (remote : List (List DFlit)) (e : Nat) : M Unit := do
  let s ← get
  let len := getF s (R.STATION_ENTRY_CTL_OUT_LEN e)
  let ha := getF s (R.STATION_ENTRY_OUT_HA_LINE e) * 64
  let pol := match regionAt s ha with | some r => (descOf s.active r).dropout | none => 0
  let stamp := getF s R.COMMIT_OUT_STAMP_NUM
  let at_ := (tickNum s + 1) % 2 ^ 32
  match entryNode s e with
  | none => pure ()
  | some d =>
    if len = 0 then pure ()
    else if stnState s e = 3 then
      let (bs, po) ← outputLines ha (remote.getD e []) 0 ((len + 63) / 64)
      let _ ← fOriginate 4 d (outHeader stamp at_ len 0 (poisonMask po 0 len) ++ bs.take len)
    else if stnState s e = 4 || stnState s e = 2 then
      if pol = 1 then
        let _ ← fOriginate 4 d (outHeader stamp at_ len 1 0 ++ safeBytes s e len)
      else if pol = 2 then
        let _ ← fOriginate 4 d (outHeader stamp at_ 0 2 0)

/-- RETURNING becomes PRESENT at a release flip whose OUT_STAMP is not earlier than RECONNECT_TICK (R610). -/
def evalReturn (e : Nat) : M Unit := do
  let s ← get
  if stnState s e = 2 && !later 32 (getF s (R.STATION_RECONNECT_TICK_NUM e)) (getF s R.COMMIT_OUT_STAMP_NUM) then
    setStnState e 3
    raise 0x21 1

/-- The frames of a release, flipped or skipped (R611, R612). -/
def sendOutputs (remote : List (List DFlit)) : M Unit := do
  let s ← get
  if stationOn s then each entries (sendOutput remote)

/-! ### Binding -/

/-- BIND_SEND: a BIND not answered within 1 ms is sent again; BIND_FAIL comes when 16 sends have had no answer (R603). -/
def doBindSend (e : Nat) : M Unit := do
  let s ← get
  let x := stnOf s e
  if x.waiting && getF s (R.STATION_ENTRY_CTL_EN e) == 1 && decide (x.bindAt + 1000000 ≤ s.now) then
    if x.sends = 16 then
      setStn e fun x => { x with sends := 17 }
      raise 0x21 4
    match entryNode s e with
    | some d => onlyIf (reachable s d) (sendBind e)
    | none => pure ()

/-- A BIND_ACK delivered here (R602, R603). -/
def bindAck (f : Frame) : M Unit := do
  let s ← get
  each entries fun e => do
    if (stnOf s e).waiting && entryNode s e == some f.src.toNat then
      setStn e fun x => { x with waiting := false }
      wrF (R.STATION_STATUS_BOUND e) 1

/-- A new routing table is in force (R603, R606, R610): nodes are resolved, unreachable stations are dropped, BIND goes out. -/
def newRoutes : M Unit :=
  each entries fun e => do
    let s ← get
    let node := entryNode s e
    wrF (R.STATION_STATUS_NODE e) (node.getD 0)
    let ok := match node with | some d => reachable s d | none => false
    if !ok && (stnState s e = 2 || stnState s e = 3) then dropEntry e
    startBind e

end Sys2Proof.Machine
end

