-- ==== Sys2Proof/Machine/Commit.lean ====
section
/-! DEFINITION. The commit engine (11): the lines a flip changes, bounds, visits before the edge, the commit and release windows,
flips and carry, and the overrun policies (02 R48-R57). -/

namespace Sys2Proof.Machine

/-! ### Lines that need work (R481, R482) -/

/-- Is FV region r placed, live and of the direction: input false, output true? -/
def fvPart (s : State) (r : Nat) (out : Bool) : Bool :=
  let d := descOf s.active r
  isFv d && d.fvDir == out && copyPlaced s r && !s.retiring.contains r && !s.fv.joinsNext.contains r

/-- The FV regions that take part in a commit (input) or a release (output). -/
def partRegions (s : State) (out : Bool) : List Nat := (List.range 64).filter fun r => fvPart s r out

/-- Lines of region r homed here with NV or DIFF set, in ascending order. -/
def markedLines (s : State) (r : Nat) : List Line :=
  let d := descOf s.active r
  if s.fv.diffAll.contains r then
    ((List.range (shareLines s d)).map (shareLine s d)).filter fun l => nvOf s l || diffOf s l
  else
    let here := fun (l : Nat) => fvRegion s l == some r
    let a := (s.fv.nv.map (·.1)).filter here
    let b := ((s.fv.diff.map (·.1)).filter here).filter fun l => !(a.contains l)
    (a ++ b).mergeSort

/-- Presence vector of a line: a running flow's view, else the directory. -/
def cachers (s : State) (line : Line) : List Nat :=
  match flowOf s line with
  | some f => members f.before
  | none => members (dirState s line)

/-- Does a line need invalidation (R481)? -/
def needsInv (s : State) (line : Line) : Bool := lineChanges s line && cachers s line != []

def linesOf (s : State) (rs : List Nat) (p : State → Line → Bool) : List Line :=
  (rs.map fun r => (markedLines s r).filter (p s)).flatten

/-- The live counts NV_LINES and DUE_LINES. -/
def nvLines (s : State) : Nat := (linesOf s (List.range 64) nvOf).length
def dueLines (s : State) : Nat := (linesOf s (List.range 64) needsCarry).length

/-- T = 1.2 µs + 32 ns × INV + 16 ns × CARRY, rounded up, in 10 ns units (R483). -/
def boundOf (inv carry : Nat) : Nat := (1200 + 32 * inv + 16 * carry + 9) / 10

/-! ### Before the edge (R485-R488) -/

/-- Are commits and releases stopped: by FAULT, a halt, a domain reset (02 R55, 15 R677, 16 R721), or in STANDBY (R513)? -/
def commitsStopped (s : State) : Bool := s.tick.stopped || isHalted s || s.dreset || inStandby s

/-- The offset of an instant of the tick, moved by the S of a stretch (02 R53). -/
def phaseAt (s : State) (x : Nat) : Nat := x + s.tick.stretch

/-- Visit the lines of regions that need invalidation now and were not yet visited in this tick, in ascending HA: a request of the
COMMIT input for each. -/
def visitLines (rs : List Nat) : M Unit := do
  let s ← get
  each (((linesOf s rs needsInv).filter fun l => !s.fv.visited.contains l).mergeSort) fun l => do
    enqueue (engineReq (← get) qCommit .preInv l 0 0 [])
    setFv fun v => { v with visited := v.visited ++ [l] }

/-- PRE_COMMIT_START: from tk-PRECOMMIT on (R485). Each such command visits the lines that have come to need it. -/
def doPreCommit : M Unit := do
  let s ← get
  if s.tick.running && isRunning s && !commitsStopped s && decide (0 < s.tick.precommit) &&
      decide (s.tick.len ≤ s.tick.offset + s.tick.precommit) && s.fv.commit.isNone then
    visitLines (partRegions s false)

/-- PRE_RELEASE_START: from tk+RELEASE-PRECOMMIT or the close of the commit window, until the release point (R487). -/
def doPreRelease : M Unit := do
  let s ← get
  if s.tick.running && isRunning s && !commitsStopped s && decide (0 < s.tick.precommit) && !s.tick.relDone &&
      decide (phaseAt s s.tick.release ≤ s.tick.offset + s.tick.precommit) && s.fv.commit.isNone then
    visitLines (partRegions s true)

/-- The storage address at which a carry of a line reads its LA copy, for the order "ascending SA". -/
def bySa (s : State) (ls : List Line) : List Line := ls.mergeSort fun a b => decide (laLoc s a ≤ laLoc s b)

/-- PRE_CARRY_COPY: the next line that needs carry, at most PRECARRY per µs, while no window is open (R488). -/
def doPreCarry : M Unit := do
  let s ← get
  let rate := getF s R.COMMIT_CTL_PRECARRY
  if isRunning s && !inStandby s && !discards s && s.fv.commit.isNone && s.fv.release.isNone && decide (0 < rate) then
    let fresh := decide (s.fv.carryAt + 1000 ≤ s.now)
    let n := if fresh then 0 else s.fv.carryN
    let waits := fun (l : Line) => s.arb.waiting.any (fun r => r.op == .preCarry && r.line == l) ||
      s.chain.any (fun r => r.op == .preCarry && r.line == l)
    if n < rate then
      match (bySa s (linesOf s (List.range 64) needsCarry)).find? fun l => !waits l with
      | some l =>
        setFv fun v => { v with carryAt := if fresh then s.now else v.carryAt, carryN := n + 1 }
        enqueue (engineReq s qCommit .preCarry l 0 0 [])
      | none => pure ()

/-! ### Windows -/

/-- Ask for the invalidation of lines of a window (R489 step 3). -/
def askInv (ls : List Line) : M Unit :=
  each ls fun l => do enqueue (engineReq (← get) qCommit .commitInv l 0 0 [])

/-- Visits end at the edge or the release point (R485, R487): one that the arbiter has not granted is not made. -/
def dropVisits : M Unit := modify fun s =>
  { s with arb := { s.arb with waiting := s.arb.waiting.filter fun r => r.op != .preInv } }

/-- The changed lines of a window's regions that an agent caches or a flow still holds, in ascending HA: the latter are
invalidated when the flow leaves (R491). -/
def windowLines (s : State) (rs : List Nat) : List Line :=
  (linesOf s rs fun s l => lineChanges s l && (cachers s l != [] || (flowOf s l).isSome)).mergeSort

/-- Does this hub's own bound alone exceed the budget, so that the master's check stops the window (02 R51, R498)? -/
def ownOver (s : State) (rel : Bool) : Bool :=
  if rel then decide (getF s R.COMMIT_REL_BUDGET_NS10 < getF s R.COMMIT_REL_BOUND_NS10)
  else ovrPol s != 1 && decide (s.tick.budget < getF s R.COMMIT_LAST_BOUND_NS10)

/-- Have the bounds been checked, so that the window makes its invalidations (02 R45 steps 3 and 4, R51)? The master of a pair
waits for hub 1's bound; hub 1 goes on unless its own bound stops the window (log 113). -/
def boundsChecked (s : State) (rel : Bool) : Bool :=
  if !hasPartner s then true
  else if isMaster s then (if rel then s.fv.partnerRelBound else s.fv.partnerBound).isSome
  else !ownOver s rel

/-- Change the open window of a kind. -/
def setWindow (rel : Bool) (f : Window → Window) : M Unit :=
  setFv fun v => if rel then { v with release := v.release.map f } else { v with commit := v.commit.map f }

def windowOf (s : State) (rel : Bool) : Option Window := if rel then s.fv.release else s.fv.commit

/-- Ask for the invalidations of the open window (R489 step 3), once the bounds are checked. -/
def askWindow (rel : Bool) : M Unit := do
  let s ← get
  match windowOf s rel with
  | some w =>
    if boundsChecked s rel then
      let inv := windowLines s w.regions
      setWindow rel fun w => { w with inv := inv }
      askInv inv
  | none => pure ()

/-- Open a window over regions: its lines are held from now (R489 steps 1 and 3). -/
def openWindow (rs : List Nat) (rel : Bool) : M Unit := do
  dropVisits
  let s ← get
  let w : Window := ⟨rs, s.now, s.nextId, [], [], false, false, false⟩
  if rel then
    wrF R.COMMIT_STAT_RELEASE 1
    setFv fun v => { v with release := some w }
  else
    wrF R.COMMIT_STAT_WINDOW 1
    setFv fun v => { v with commit := some w }
  askWindow rel

/-- The carry of one line after the flip: the copy that was current before is copied into the new current copy (R489 step
6). -/
def carryLine (line : Line) : M Unit := do
  engineTurn qCommit
  let s ← get
  let d ← readLoc (nextLoc s line) 4 qCommit 0
  writeLoc (curLoc (← get) line) 4 qCommit 0 d
  setDiff line false

/-- Is the window ready to flip (R489 step 4): every invalidation answered, no flow or request granted before it opened
left on its lines, no capture record or earlier engine write due for it (02 R81)? -/
def windowQuiet (s : State) (w : Window) : Bool :=
  w.inv == [] && !((s.arb.waiting ++ s.chain).any (beforeWindow s)) && !(s.flows.any fun f => match fvRegion s f.line with | some r => w.regions.contains r | none => false) &&
    !(s.chain.any fun r => decide (r.granted < w.openAt) && match fvRegion s r.line with | some g => w.regions.contains g | none => false)

/-- Toggle VER of the regions, and update NV and DIFF (R489 step 5, R493). -/
def flipRegions (rs : List Nat) : M Unit := do
  let s ← get
  each (linesOf s rs nvOf) fun l => do
    setNv l false
    setDiff l true
  each rs fun r => do
    let v ← rdF (R.COMMIT_COPY_VER r)
    wrF (R.COMMIT_COPY_VER r) (1 - v)

/-! ### Outputs of the event unit (02 R56, R75, R90, R94) -/

/-- Is a pin in output mode? -/
def isOutput (s : State) (n : Nat) : Bool := getF s (R.EVT_PIN_MODE n) == 2

/-- Drive a pin: its level, or high impedance; EVT.LEVEL shows it. -/
def drivePin (n : Nat) (level : Option Bool) : M Unit := do
  let s ← get
  if kvGet (fun _ => none) s.evt.drive n != level then
    modify fun s => { s with evt := { s.evt with drive := kvSet (fun _ => none) s.evt.drive n level } }
    emitLand (.pin n level)
  match level with
  | some b =>
    let v := getF s R.EVT_LEVEL_PINS
    wrF R.EVT_LEVEL_PINS (if b then Nat.lor v (2 ^ n) else v - (if v.testBit n then 2 ^ n else 0))
  | none => pure ()

/-- An output drives its FAULT_ST: hold, low, high, high impedance. -/
def drivePinFault (n : Nat) : M Unit := do
  let s ← get
  if isOutput s n && stage s == 4 then
    modify fun s => { s with evt := { s.evt with pulses := kvDel s.evt.pulses n } }
    match getF s (R.EVT_PIN_FAULT_ST n) with
    | 1 => drivePin n (some false)
    | 2 => drivePin n (some true)
    | 3 => drivePin n none
    | _ => pure ()

def driveFault : M Unit := each (List.range 16) drivePinFault

/-- Are commits and releases stopped under FAULT, so that the outputs drive FAULT_ST (02 R56)? -/
def isFaulted (s : State) : Bool := getF s R.TICK_STAT_FAULTED == 1

/-! ### Overrun policies (02 R51-R57) -/

/-- The FAULT of 02 R55: commits and releases stop in the domain. Windows that have not flipped are abandoned. -/
def tickFault : M Unit := do
  incF R.TICK_FAULT_CNT_CNT
  wrF R.TICK_STAT_FAULTED 1
  raise pgTick 2
  modify fun s => { s with tick := { s.tick with stopped := true, resumeAtEdge := false } }
  let s ← get
  match s.fv.commit with
  | some w => onlyIf (!w.flipped) closeCommit
  | none => pure ()
  match s.fv.release with
  | some w => onlyIf (!w.flipped) closeRelease
  | none => pure ()
  driveFault

/-- Tell hub 1 the decision (12 R536): 0 FLIP, 1 SKIP, 2 FAULT. -/
def decide_ (rel : Bool) (d : Nat) : M Unit := do
  let s ← get
  if isMaster s then toPartner (.decision rel d)

/-- Act on an overrun under SKIP or FAULT for the whole domain (02 R49). -/
def overrunStop (policy : Nat) : M Unit := do
  if policy = 0 then
    decide_ false 1
    tickSkip
  else
    decide_ false 2
    tickFault

/-- The domain bound of a commit exceeds COMMIT_BUDGET (02 R48, first check). -/
def edgeOver (s : State) (bound : Nat) : Bool := decide (s.tick.budget < bound)

/-- A detected overrun at the edge (02 R51). Under STRETCH the window runs. -/
def edgeOverrun : M Unit := do
  wrF R.TICK_STAT_PRED_OVER 1
  modify fun s => { s with tick := { s.tick with overrun := true } }
  let p := ovrPol (← get)
  onlyIf (p != 1) (overrunStop p)

def skipRelease : M Unit := do
  let p := ovrPol (← get)
  decide_ true (if p = 2 then 2 else 1)
  releaseSkip
  onlyIf (p == 2) tickFault

/-- Is the pair link out of ACTIVE at a decision (12 R538)? -/
def linkOut (s : State) : Bool := isMaster s && hasPartner s && pairLstate s != 6

/-! ### The commit at the edge -/

/-- Steps 3 and 4 of 02 R45: counts, bounds, the check, the window (R482, R483, R489). -/
def commitAtEdge : M Unit := do
  let s ← get
  let rs := partRegions s false
  let inv := (linesOf s rs needsInv).length
  let car := (linesOf s rs needsCarry).length
  let b := boundOf inv car
  wrF R.COMMIT_INV_LINES_N inv
  wrF R.COMMIT_CARRY_LINES_N car
  wrF R.COMMIT_LAST_BOUND_NS10 b
  maxF R.COMMIT_MAX_BOUND_NS10 b
  wrF R.TICK_STAT_SKIPPED 0
  wrF R.TICK_STAT_PRED_OVER 0
  setFv fun v => { v with partnerBound := none }
  if !commitsStopped s && s.fv.commit.isNone && !s.tick.noMark then
    if isMirror s && hasPartner s then
      toPartner (.bound false b)
      -- Hub 1 knows of the domain's check what its own bound shows, or what the master's shows it (log 113).
      let x ← if edgeOver s b then pure true else drawBool
      wrF R.TICK_STAT_PRED_OVER x.toNat
      modify fun s => { s with tick := { s.tick with overrun := x && ovrPol s == 1 } }
      openWindow rs false
    else if linkOut s then
      incF R.PAIR_LINK_SKIP_CNT_CNT
      overrunStop (if ovrPol s = 2 then 2 else 0)
    else
      if edgeOver s b then edgeOverrun
      let s ← get
      if !edgeOver s b || ovrPol s == 1 then openWindow rs false
  setFv fun v => { v with visited := [] }

/-- BOUND_REPORT: hub 1's bound joins the domain bound (12 R536), and the master's window, if the check lets it run, makes its
invalidations. -/
def doBoundReport (rel : Bool) (bound : Nat) : M Unit := do
  let s ← get
  if isMaster s && hasPartner s then
    if rel then
      setFv fun v => { v with partnerRelBound := some bound }
      if s.fv.release.isSome && s.fv.partnerRelBound.isNone then
        if getF s R.COMMIT_REL_BUDGET_NS10 < bound then skipRelease else askWindow true
    else
      setFv fun v => { v with partnerBound := some bound }
      if s.fv.commit.isSome && s.fv.partnerBound.isNone then
        if edgeOver s bound then edgeOverrun
        askWindow false

/-- A capture record stamped before the tick in progress waits for the edge's commit (R494). -/
def edgeRecord (s : State) (c : Capture) : Bool := c.tick != tickNum s

/-- Does the capture ring lie in a region of the window? -/
def ringIn (s : State) (w : Window) : Bool :=
  match fvRegion s (getF s R.EVT_RING_BASE_LINE) with
  | some r => w.regions.contains r && getF s R.EVT_CTL_EN == 1
  | none => false

/-- COMMIT_READY for one window. Lines that came to need invalidation after it opened are asked for first. -/
def readyWindow (rel : Bool) (w : Window) : M Unit := do
  let s ← get
  if !w.ready && !w.flipped && boundsChecked s rel && windowQuiet s w && !(!rel && ringIn s w && s.evt.fifo.any (edgeRecord s)) then
    let more := (linesOf s w.regions needsInv).mergeSort
    if more != [] then
      setWindow rel fun w => { w with inv := more }
      askInv more
    else
      setWindow rel fun w => { w with ready := true }
      if isMirror s then toPartner (.ready rel)

def doCommitReady : M Unit := do
  let s ← get
  match s.fv.commit with
  | some w => readyWindow false w
  | none => pure ()
  match s.fv.release with
  | some w => readyWindow true w
  | none => pure ()

/-- READY_REPORT: hub 1 is ready (12 R536). -/
def doReadyReport (rel : Bool) : M Unit := do
  let s ← get
  if isMaster s && hasPartner s then
    setWindow rel fun w => { w with partnerReady := true }

/-- May the window flip here now (R492): ready, and hub 1 ready where there is one; hub 1 itself waits for the master. -/
def mayFlip (s : State) (w : Window) : Bool :=
  w.ready && !w.flipped && !commitsStopped s && !((s.arb.waiting ++ s.chain).any (beforeWindow s)) &&
    (if hasPartner s then isMaster s && w.partnerReady && pairLstate s == 6 else true)

/-- Send the decision FLIP and the three copies of the flip marker (12 R535, R536). -/
def sendFlip (rel : Bool) : M Unit := do
  let s ← get
  if isMaster s && hasPartner s then
    toPartner (.decision rel 0)
    sendMarks ([0, 1, 2].map fun k => .flipMark k (tickNum s) rel)

/-- Records of the partner's event unit that the flip marker has overtaken before their grant are written first (02 R81). -/
def takeRecords : M Unit := do
  each ((← get).arb.waiting.filter (beforeWindow (← get))) fun r => grant (reqNo r) r

/-- The flip of the commit (R492, R493, R496). -/
def commitFlip : M Unit := do
  takeRecords
  let s ← get
  match s.fv.commit with
  | some w =>
    let carry := bySa s (linesOf s w.regions needsCarry)
    flipRegions w.regions
    setFv fun v => { v with commit := some { w with flipped := true, carry := carry } }
    wrF R.COMMIT_IN_STAMP_NUM (tickNum s + 2 ^ 32 - 1)
    incF R.COMMIT_FLIP_CNT_CNT
    raise pgCommit 3
  | none => pure ()

def doCommitFlip : M Unit := do
  let s ← get
  match s.fv.commit with
  | some w =>
    if mayFlip s w then
      sendFlip false
      commitFlip
  | none => pure ()

/-- Fix the stretch of the tick when the window closes (02 R53): S = W - COMMIT_BUDGET. `LAST_STRETCH` has 14 bits; how a
larger S shows is left open (log 19). A coordinator sends SYNC STRETCH (13 R590). -/
def fixStretch : M Unit := do
  let s ← get
  let w := s.tick.offset
  if s.tick.overrun && ovrPol s == 1 && decide (s.tick.budget < w) then
    let d := w - s.tick.budget
    modify fun s => { s with tick := { s.tick with stretch := d, len := s.tick.len + d } }
    incF R.TICK_STRETCH_CNT_CNT
    if d < 16384 then wrF R.TICK_LAST_STRETCH_NS10 d
    else
      let x ← drawWord
      wrF R.TICK_LAST_STRETCH_NS10 x.toNat
    raise pgTick 1
    if getF s R.FABRIC_STAT_COORD = 1 then
      each ((List.range 4).filter fun p => s.fabric.syncDown.testBit p) fun p =>
        fSend p (mkFrame s 0 0 (tickNum s % 65536) ([2] ++ natToBytes 4 (tickNum s) ++ natToBytes 3 d ++ [0, 0, 0, 0]))

/-- COMMIT_WINDOW_CLOSE: the remaining carries of a flipped window, and its close (R489 steps 6 and 7). -/
def doWindowClose : M Unit := do
  let s ← get
  match s.fv.commit with
  | some w =>
    if w.flipped then
      each w.carry carryLine
      closeCommit
      fixStretch
  | none => pure ()
  match s.fv.release with
  | some w =>
    if w.flipped then
      each w.carry carryLine
      closeRelease
  | none => pure ()

/-- COMMIT_BUDGET_CHECK at tk+COMMIT_BUDGET (02 R48, R50). -/
def doBudgetCheck : M Unit := do
  let s ← get
  if s.tick.running && !s.tick.budgetDone && decide (s.tick.budget ≤ s.tick.offset) then
    modify fun s => { s with tick := { s.tick with budgetDone := true } }
    match s.fv.commit with
    | none => pure ()
    | some w =>
      if w.flipped then
        if !s.tick.overrun then
          incF R.TICK_CARRY_LATE_CNT_CNT
          raise pgTick 6
      else
        modify fun s => { s with tick := { s.tick with overrun := true } }
        onlyIf (ovrPol s != 1 && !(isMirror s && hasPartner s)) (overrunStop (ovrPol s))

/-- STRETCH_MAX_EXPIRY at tk+COMMIT_BUDGET+STRETCH_MAX (02 R54). -/
def doStretchExpiry : M Unit := do
  let s ← get
  match s.fv.commit with
  | some w =>
    if s.tick.running && !w.flipped && ovrPol s == 1 && !(isMirror s && hasPartner s) &&
        decide (s.tick.budget + getF s R.TICK_STRETCH_MAX_NS10 ≤ s.tick.offset) then
      decide_ false 2
      tickFault
  | none => pure ()

/-! ### The release (R497-R501) -/

/-- RELEASE_POINT at tk+RELEASE, S later in a stretched tick; a tick whose stretch is not yet fixed waits for it. -/
def doReleasePoint : M Unit := do
  let s ← get
  if s.tick.running && !s.tick.relDone && decide (phaseAt s s.tick.release ≤ s.tick.offset) &&
      !stretchOpen s then
    modify fun s => { s with tick := { s.tick with relDone := true } }
    setFv fun v => { v with partnerRelBound := none }
    let rs := partRegions s true
    let inv := (linesOf s rs needsInv).length
    let car := (linesOf s rs needsCarry).length
    let b := boundOf inv car
    wrF R.COMMIT_REL_INV_LINES_N inv
    wrF R.COMMIT_REL_CARRY_LINES_N car
    wrF R.COMMIT_REL_BOUND_NS10 b
    if !commitsStopped s && s.fv.release.isNone && !s.tick.noMark then
      if isMirror s && hasPartner s then
        toPartner (.bound true b)
        openWindow rs true
      else if linkOut s then
        incF R.PAIR_LINK_SKIP_CNT_CNT
        skipRelease
      else if getF s R.COMMIT_REL_BUDGET_NS10 < b then skipRelease
      else openWindow rs true

/-- The flip of a release (R500): OUT_STAMP takes IN_STAMP, returning stations are evaluated, the schedule is due. -/
def releaseFlip : M Unit := do
  let s ← get
  match s.fv.release with
  | some w =>
    let carry := bySa s (linesOf s w.regions needsCarry)
    flipRegions w.regions
    setFv fun v => { v with release := some { w with flipped := true, carry := carry } }
    wrF R.COMMIT_OUT_STAMP_NUM (getF s R.COMMIT_IN_STAMP_NUM)
    modify fun s => { s with tick := { s.tick with relFlipped := true }, evt := { s.evt with loadDue := true } }
    each entries evalReturn
  | none => pure ()

/-- Send the STN_OUT frames of this tick's release once (R611, R612). -/
def sendReleased (remote : List (List DFlit)) : M Unit := do
  let s ← get
  if !s.tick.relSent then
    modify fun s => { s with tick := { s.tick with relSent := true } }
    sendOutputs remote

/-- RELEASE_FLIP. On hub 1 the flip comes by the master's marker or decision, and this command sends its frames. -/
def doReleaseFlip (remote : List (List DFlit)) : M Unit := do
  let s ← get
  match s.fv.release with
  | some w =>
    if mayFlip s w then
      sendFlip true
      releaseFlip
  | none => pure ()
  if (← get).tick.relFlipped then sendReleased remote

/-- RELEASE_BUDGET_CHECK at tk+RELEASE+REL_BUDGET (R498): an unflipped release is skipped; after a skip the stations get
their frames from the current copy (R612). -/
def doReleaseCheck (remote : List (List DFlit)) : M Unit := do
  let s ← get
  if s.tick.running && s.tick.relDone &&
      decide (phaseAt s s.tick.release + getF s R.COMMIT_REL_BUDGET_NS10 ≤ s.tick.offset) then
    match s.fv.release with
    | some w => onlyIf (!w.flipped && !(isMirror s && hasPartner s)) skipRelease
    | none => pure ()
    let s ← get
    if s.fv.release.isNone && !s.tick.relFlipped && !commitsStopped s then sendReleased remote

/-! ### Hub 1 (12 R535-R539) -/

/-- FLIP_MARK: hub 1 flips at the first good copy. -/
def doFlipMark (rel : Bool) : M Unit := do
  let s ← get
  if isMirror s && hasPartner s && pairLstate s = 6 then
    match (if rel then s.fv.release else s.fv.commit) with
    | some w => onlyIf (!w.flipped) (if rel then releaseFlip else commitFlip)
    | none => pure ()

/-- A flip whose marker was missing (R537). -/
def lateFlip (rel : Bool) : M Unit := do
  incF R.PAIR_FLIP_LATE_CNT_CNT
  incF R.PAIR_MARKER_MISS_CNT_CNT
  raise pgPair 4
  errCapFree pgPair 4
  errCapFree pgPair 3
  if rel then releaseFlip else commitFlip

/-- DECISION: hub 1 acts on FLIP, SKIP or FAULT. -/
def doDecision (rel : Bool) (d : Nat) : M Unit := do
  let s ← get
  if isMirror s && hasPartner s then
    match (if rel then s.fv.release else s.fv.commit) with
    | some w =>
      if w.flipped then pure ()
      else if d = 0 then lateFlip rel
      else
        if rel then releaseSkip else onlyIf (d == 1) tickSkip
        onlyIf (d == 2) tickFault
    | none =>
      -- R538: hub 1 opened no window; it counts the outcome.
      onlyIf (d == 1) (if rel then releaseSkip else tickSkip)
      onlyIf (d == 2) tickFault

end Sys2Proof.Machine
end

