-- ==== Sys2Proof/Machine/Event.lean ====
section
/-! DEFINITION. The event unit (02 R74-R93): captures and their ring, schedules, pulses. -/

namespace Sys2Proof.Machine

def setEvt (f : Evt → Evt) : M Unit := modify fun s => { s with evt := f s.evt }

def evtOn (s : State) : Bool := getF s R.EVT_CTL_EN == 1 && stage s == 4

/-! ### Capture (R76-R83) -/

/-- Does this hub generate its edges: the master, the single hub, hub 1 after a pair-link loss (R28, 12 R550)? -/
def ownEdges (s : State) : Bool := isMaster s || isLost s

/-- May the next edge come: the commit window of the tick has flipped, and one whose stretch is not yet fixed has closed. -/
def edgeDue (s : State) : Bool :=
  decide (s.tick.len ≤ s.tick.offset) &&
    match s.fv.commit with
    | some w => w.flipped && !(s.tick.overrun && ovrPol s == 1)
    | none => true

/-- Tick number and offset of a capture made now: a tick edge that is due in this 10 ns unit counts as made (R46). -/
def captureStamp (s : State) : Nat × Nat :=
  if s.tick.running && ownEdges s && edgeDue s then ((tickNum s + 1) % 2 ^ 32, s.tick.offset - s.tick.len)
  else (tickNum s, s.tick.offset)

/-- EVT_INPUT_EDGE: a selected edge is stamped and queued, or dropped when the FIFO is full. The record carries the number
of stamped edges before it (log 20). -/
def doInputEdge (pin : Nat) (rising : Bool) : M Unit := do
  let s ← get
  if getF s (R.EVT_PIN_MODE pin) = 1 && stage s == 4 && !landsOff s then
    let v := getF s R.EVT_LEVEL_PINS
    wrF R.EVT_LEVEL_PINS (if rising then Nat.lor v (2 ^ pin) else v - (if v.testBit pin then 2 ^ pin else 0))
    let sel := getF s (R.EVT_PIN_EDGE pin)
    if evtOn s && (if rising then sel.testBit 0 else sel.testBit 1) then
      let q := getF s R.EVT_SEQ_NUM
      wrF R.EVT_SEQ_NUM (q + 1)
      if s.evt.fifo.length < 32 then
        setEvt fun e => { e with fifo := e.fifo ++ [⟨(captureStamp s).1, (captureStamp s).2, pin, rising, q⟩] }
      else
        incF R.EVT_LOST_CNT_CNT
        raise 0x6C 0
        setEvt fun e => { e with lost := true }

/-- The 128-bit capture record (R79). -/
def captureWord (c : Capture) (lost : Bool) : Quad :=
  ⟨BitVec.ofNat 128 (c.tick % 2 ^ 32 + c.off % 2 ^ 20 * 2 ^ 32 + c.pin % 16 * 2 ^ 52 + c.rising.toNat * 2 ^ 56 +
    lost.toNat * 2 ^ 57 + c.seq % 2 ^ 32 * 2 ^ 64), false⟩

/-- The ring's line and word of a record number (R80). -/
def ringPlace (s : State) (i : Nat) : Line × Nat := (getF s R.EVT_RING_BASE_LINE + i / 4, i % 4)

/-- Write a due record into the copy about to become current, inside the commit window (R494). -/
def writeEdgeRecord (line : Line) (word : Nat) (q : Quad) : M Unit := do
  let s ← get
  match fvRegion s line with
  | some rg =>
    engineTurn qStation
    writeNext rg (newFlow (engineReq s qStation .wrPartial line word 0xFFFF [q]) .own .snoop none .untracked .untracked)
    incF R.COMMIT_EDGE_CAPT_CNT_CNT
  | none => pure ()

/-- CAPTURE_RECORD_WRITE: the next queued record, at most 8 in a microsecond (R78). In an open commit window a record of the
new tick waits for the window's close (R81, R494). A record already stamped for the edge that is due waits for that edge. RING_WP wraps
after the record that it names has been written, also when it lies beyond a ring made shorter (DESIGN CHOICE, log 117). -/
def doCaptureWrite : M Unit := do
  let s ← get
  let fresh := decide (s.evt.wroteAt + 1000 ≤ s.now)
  let n := if fresh then 0 else s.evt.wroteN
  match s.evt.fifo with
  | [] => pure ()
  | c :: rest =>
    let (line, word) := ringPlace s (getF s R.EVT_RING_WP_WP)
    let held := heldBy s s.fv.commit line
    if evtOn s && !s.evt.stopped && !inStandby s && decide (n < 8) && (!held || edgeRecord s c) &&
        !(s.tick.running && c.tick == (tickNum s + 1) % 2 ^ 32) then
      setEvt fun e => { e with fifo := rest, lost := false, wroteAt := if fresh then s.now else e.wroteAt, wroteN := n + 1 }
      wrF R.EVT_RING_WP_WP ((getF s R.EVT_RING_WP_WP + 1) % 2 ^ getF s R.EVT_RING_LEN_LOG2)
      if held && isHome s (line * 64) then writeEdgeRecord line word (captureWord c s.evt.lost)
      else engWrite qStation line .wrPartial word 0xFFFF [captureWord c s.evt.lost]

/-! ### Schedules (R84-R91) -/

/-- Offset, pin and action of an entry. -/
def entOff (e : BitVec 32) : Nat := e.toNat % 2 ^ 20
def entPin (e : BitVec 32) : Nat := e.toNat / 2 ^ 20 % 16
def entAct (e : BitVec 32) : Nat := e.toNat / 2 ^ 24 % 4

/-- The list that the entries form: up to the first end action, and, cut with an error, to an entry whose offset falls (R86,
R87). A poisoned entry is no entry and stays in place (15 R696). -/
def cutSchedule : Nat → List (Option (BitVec 32)) → List (Option (BitVec 32)) × Bool
  | _, [] => ([], false)
  | p, none :: t => let (l, e) := cutSchedule p t; (none :: l, e)
  | p, some x :: t =>
    if entAct x = 0 then ([], false)
    else if entOff x < p then ([], true)
    else let (l, e) := cutSchedule (entOff x) t; (some x :: l, e)

/-- The four entries of a word. -/
def wordEntries (q : Quad) : List (Option (BitVec 32)) :=
  (List.range 4).map fun i => if q.poison then none else some (BitVec.ofNat 32 (q.bits.toNat / 2 ^ (32 * i)))

/-- Lines of the schedule block: local ones read, a partner's from `remote`, in line order. -/
def readSchedule (base : Line) (remote : List (List DFlit)) : Nat → Nat → M (List (Option (BitVec 32)))
  | _, 0 => pure []
  | i, n + 1 => do
    let s ← get
    let d ← if isHome s ((base + i) * 64) then engRead qStation (base + i) else pairRead (base + i) (remote.getD i [])
    let rest ← readSchedule base remote (i + 1) n
    pure ((d.map wordEntries).flatten ++ rest)

/-- SCHEDULE_LOAD: after a release, once the schedule's lines are released (R85, R501; 11 R501). A base that the region set in force no
longer has in an output FV region loads nothing (DESIGN CHOICE, log 118). -/
def doScheduleLoad (remote : List (List DFlit)) : M Unit := do
  let s ← get
  let base := getF s R.EVT_SCHED_BASE_LINE
  if evtOn s && s.evt.loadDue && !((List.range 16).any fun i => heldBy s s.fv.release (base + i)) then
    setEvt fun e => { e with loadDue := false }
    if fvHolds s (base * 64) 1024 true then
      let es ← readSchedule base remote 0 16
      let (l, bad) := cutSchedule 0 es
      if bad then
        wrF R.EVT_STAT_SCHED_ERR 1
        raise 0x6C 1
      setEvt fun e => { e with nextSched := some l }

/-- An entry that is ignored (R88). -/
def ignoreEntry : M Unit := do
  incF R.EVT_SCHED_IGN_CNT_CNT
  raise 0x6C 2

/-- Apply a set, clear or pulse (R89, R90). A pulse for a pin whose pulse still runs starts its width anew (DESIGN CHOICE, log 116). -/
def applyEntry (x : BitVec 32) : M Unit := do
  let s ← get
  let p := entPin x
  setEvt fun e => { e with pulses := if entAct x = 3 then kvSet (fun _ => 0) e.pulses p (s.now + ns10 (getF s (R.EVT_PIN_PULSE_W p)))
                                     else kvDel e.pulses p }
  drivePin p (some (entAct x != 2))

/-- SCHEDULE_ENTRY_APPLY: entry i of the schedule in force, in list order, at its offset. The period of the tick is its length
before any stretch (R34, R88, R100). Reserved bits 31:26 of an entry have no effect (DESIGN CHOICE, log 118). -/
def doEntryApply (i : Nat) : M Unit := do
  let s ← get
  if s.tick.running && evtOn s && s.evt.took && i == s.evt.applied && !isFaulted s then
    match s.evt.sched[i]? with
    | none => pure ()
    | some none =>
      setEvt fun e => { e with applied := i + 1 }
      ignoreEntry
    | some (some x) =>
      if s.tick.base ≤ entOff x then
        setEvt fun e => { e with applied := i + 1 }
        ignoreEntry
      else if entOff x ≤ s.tick.offset then
        setEvt fun e => { e with applied := i + 1 }
        if isOutput s (entPin x) then applyEntry x else ignoreEntry

/-- PULSE_END (R90). -/
def doPulseEnd (p : Nat) : M Unit := do
  let s ← get
  match (s.evt.pulses.find? fun e => e.1 == p) with
  | some e =>
    if e.2 ≤ s.now && isOutput s p then
      setEvt fun e => { e with pulses := kvDel e.pulses p }
      drivePin p (some false)
  | none => pure ()

/-- A pin placed in a mode: an output drives INIT until the first schedule since RUN takes effect (R75), under FAULT its FAULT_ST
(R56), where "hold" is the INIT it would drive; any other mode is high impedance (R74, R97; log 115). -/
def placePin (n : Nat) : M Unit := do
  let s ← get
  if stage s = 4 then
    if isOutput s n then
      if kvGet (fun _ => none) s.evt.drive n == none then drivePin n (some (getF s (R.EVT_PIN_INIT n) == 1))
      onlyIf (isFaulted s) (drivePinFault n)
    else
      setEvt fun e => { e with pulses := kvDel e.pulses n }
      drivePin n none

/-- The schedule at the edge: a released one takes effect, and the list starts over (R47, R85). -/
def scheduleAtEdge : M Unit :=
  setEvt fun e => { e with
    sched := match e.nextSched with | some l => l | none => e.sched,
    took := e.took || e.nextSched.isSome, nextSched := none, applied := 0, stopped := false }

/-! ### The commands -/

def execEvtInputEdge (pin : Fin 16) (rising : Bool) (s : State) : Host.Outcome State Fault Refusal :=
  finish (doInputEdge pin.val rising) s

def execCaptureRecordWrite (s : State) : Host.Outcome State Fault Refusal := finish doCaptureWrite s

def execScheduleLoad (remote : List (List DFlit)) (s : State) : Host.Outcome State Fault Refusal :=
  finish (doScheduleLoad remote) s

def execScheduleEntryApply (i : Fin 256) (s : State) : Host.Outcome State Fault Refusal := finish (doEntryApply i.val) s

def execPulseEnd (pin : Fin 16) (s : State) : Host.Outcome State Fault Refusal := finish (doPulseEnd pin.val) s

end Sys2Proof.Machine
end

