-- ==== Sys2Proof/Machine/Lock.lean ====
section
/-! DEFINITION. The Mantis (10 R453-R462): cycle search, victims and break orders; LOCK_FORCE, MANTIS_EDGE_EVENT,
MANTIS_BREAK. -/

namespace Sys2Proof.Machine

/-- The edges a search follows: those whose request is not already ordered broken. -/
def openWaits (s : State) : List Wait := s.waits.filter fun w => !s.breaks.contains w

/-- The nodes that node `n` waits on, in ascending order. -/
def succs (ws : List Wait) (n : Nat) : List Nat :=
  (List.range 32).filter fun m => ws.any fun w => w.waiter == n && w.holder == m

/-- Depth-first search for node `a`; each stack entry is a path, newest node first (log 14). -/
def dfs (ws : List Wait) (a : Nat) : Nat → List (List Nat) → List Nat → Option (List Nat)
  | 0, _, _ => none
  | _, [], _ => none
  | n + 1, path :: rest, seen =>
    match path with
    | [] => dfs ws a n rest seen
    | x :: _ =>
      if x = a then some path.reverse
      else if seen.contains x then dfs ws a n rest seen
      else dfs ws a n ((succs ws x).map (fun y => y :: path) ++ rest) (x :: seen)

/-- Is the edge between consecutive nodes of a path? -/
def onPath : List Nat → Nat → Nat → Bool
  | x :: y :: t, a, b => (x == a && y == b) || onPath (y :: t) a b
  | _, _, _ => false

/-- Is wait `x` younger than `y` (R458)? -/
def younger (x y : Wait) : Bool :=
  if x.tick != y.tick then later 32 x.tick y.tick
  else if x.off != y.off then decide (y.off < x.off)
  else if x.waiter != y.waiter then decide (y.waiter < x.waiter)
  else decide (y.tag < x.tag)

def youngest : List Wait → Option Wait
  | [] => none
  | w :: t => match youngest t with | none => some w | some y => if younger w y then some w else some y

/-- The victim of a cycle: the youngest `LkRd`, else the youngest request. -/
def victim (reqs : List Wait) : Option Wait :=
  match youngest (reqs.filter (·.lk)) with | some w => some w | none => youngest reqs

/-- At the victim's home hub: the request leaves its chain and is answered (R459). -/
def breakHere (agent tag line : Nat) : M Unit := do
  match (← get).chain.find? fun r => r.agent == agent && r.tag == tag && r.line == line with
  | none => pure ()
  | some r =>
    leaveChain r
    incF (R.TENANT_LOCKBRK_CNT_CNT r.tenant)
    if r.op = .lkRd then
      incF R.LOCK_LOCKBROKEN_CNT_CNT
      answer r 0x39 0 []
    else
      incF R.LOCK_CYCLE_ERR_CNT_CNT
      answerErr r 0x22

/-- Break a cycle of `len` nodes at a victim (R459). `src` is 0 for an edge check, 1 for a tick check. -/
def breakCycle (w : Wait) (len src : Nat) : M Unit := do
  let s ← get
  incF R.LOCK_BREAK_CNT_CNT
  wrF R.LOCK_LAST_BREAK_VICTIM w.waiter
  wrF R.LOCK_LAST_BREAK_CYCLE_LEN len
  wrF R.LOCK_LAST_BREAK_KIND (!w.lk).toNat
  wrF R.LOCK_LAST_BREAK_SRC src
  wrF R.LOCK_LAST_BREAK_TICK_NUM (tickNum s)
  raise pgLock 0
  if w.remote then
    modify fun s => { s with breaks := s.breaks ++ [w] }
    toPartner (.mantisBreak w.waiter w.tag w.line)
  else
    modify fun s => { s with breaks := s.breaks ++ [w] }
    breakHere w.waiter w.tag w.line

/-- check(a, b) of R458; `n` bounds the repetitions for further cycles through the edge. -/
def checkEdge (a b src : Nat) : Nat → M Unit
  | 0 => pure ()
  | n + 1 => do
    let ws := openWaits (← get)
    if ws.any fun w => w.waiter == a && w.holder == b then
      match dfs ws a 1100 [[b]] [] with
      | none => pure ()
      | some path =>
        match victim (ws.filter fun w => onPath (a :: path) w.waiter w.holder) with
        | none => pure ()
        | some v =>
          breakCycle v path.length src
          checkEdge a b src n

/-- Complete the queued checks (R456); with MANTIS_EN=0 none runs (R461). -/
def runChecks : Nat → M Unit
  | 0 => pure ()
  | n + 1 => do
    if (← rdF R.LOCK_CTL_MANTIS_EN) = 0 then pure ()
    else
    match (← get).evq with
    | [] => pure ()
    | w :: t =>
      modify fun s => { s with evq := t }
      checkEdge w.waiter w.holder 0 64
      runChecks n

/-- The check of the whole graph at a tick edge (R457). -/
def checkGraph : M Unit := do
  let s ← get
  if graphHere s && getF s R.LOCK_CTL_MANTIS_EN = 1 then
    each s.waits fun w => checkEdge w.waiter w.holder 1 64

/-- MANTIS_EDGE_EVENT: hub 1 reports an edge for a line that it homes (R455, R456). -/
def doMantisEdge (add : Bool) (waiter holder tag : Nat) (lk : Bool) (tick off line : Nat) : M Unit := do
  let s ← get
  if !hasPartner s || !isMaster s then pure ()
  else if add then
    applyEdge ⟨waiter, holder, line, tag, lk, tick, off, true⟩
    runChecks 17
  else unapplyEdge waiter tag line

def execMantisEdgeEvent (add : Bool) (waiter holder : Fin 32) (tag : Fin 64) (lk : Bool) (tick : Word)
    (offset : BitVec 20) (line : BitVec 24) (s : State) : Host.Outcome State Fault Refusal :=
  finish (fromPair 7 0 (doMantisEdge add waiter.val holder.val tag.val lk tick.toNat offset.toNat line.toNat)) s

/-- MANTIS_BREAK: a break order of the master reaches the victim's home hub (R459). -/
def execMantisBreak (victim : Fin 32) (tag : Fin 64) (line : BitVec 24) (s : State) :
    Host.Outcome State Fault Refusal :=
  finish (fromPair 7 0 (onlyIf (hasPartner s) (breakHere victim.val tag.val line.toNat))) s

/-- Release the lock of a registry entry on a FORCE write (R451, R452). -/
def forceLock (i : Nat) : M Unit := do
  match kvGet (fun _ => (none : Option Lock)) (← get).locks i with
  | some l =>
    releaseLock i l
    incF R.LOCK_FORCED_CNT_CNT
    raise pgLock 3
  | none => pure ()

end Sys2Proof.Machine
end

