-- ==== Sys2Proof/Machine/Regions.lean ====
section
/-! DEFINITION. Region sets (03 R119-R130, 11 R474-R476, R512): APPLY with its checks, REVERT, a set that takes effect, retires. -/

namespace Sys2Proof.Machine

/-! ### The shadow set -/

/-- Descriptor r of the shadow set. -/
def shadowDesc (s : State) (r : Nat) : Desc :=
  { valid := getF s (R.REGION_DESC_CTL_VALID r) == 1, base := getF s (R.REGION_DESC_BASE_HA4K r) * 4096,
    size := getF s (R.REGION_DESC_CTL_SIZE_LOG2 r), policy := getF s (R.REGION_DESC_CTL_POLICY r),
    owner := getF s (R.REGION_DESC_CTL_OWNER r), scrub := getF s (R.REGION_DESC_CTL_SCRUB_PRI r),
    fvDir := getF s (R.REGION_DESC_CTL_FV_DIR r) == 1, carry := getF s (R.REGION_DESC_CTL_FV_CARRY r) == 1,
    dropout := getF s (R.REGION_DESC_CTL_DROPOUT r), rd := getF s (R.REGION_DESC_RD_MASK_T r),
    wr := getF s (R.REGION_DESC_WR_MASK_T r), cache := getF s (R.REGION_DESC_CACHE_MASK_T r) }

/-- A set of descriptors as a list; a descriptor of zeros is unlisted. -/
def shadowSet (s : State) : KV Desc :=
  (List.range 64).filterMap fun r => if shadowDesc s r != Desc.invalid then some (r, shadowDesc s r) else none

/-! ### The checks of APPLY (R120) -/

def descEnd (d : Desc) : Nat := d.base + 2 ^ d.size

def overlaps (a b : Desc) : Bool := decide (a.base < descEnd b) && decide (b.base < descEnd a)

/-- The active region r, in use and not being retired. -/
def liveRegion (s : State) (r : Nat) : Bool := (descOf s.active r).valid && !s.retiring.contains r

/-- Total bytes of the valid FV regions of a set numbered up to r. -/
def fvBytes (set : KV Desc) (r : Nat) : Nat :=
  ((List.range (r + 1)).map fun x => if isFv (descOf set x) then 2 ^ (descOf set x).size else 0).sum

/-- The rows of the table of R120 in order: the code, and the regions that fail it. -/
def applyRows (s : State) (set : KV Desc) : List (Nat × (Nat → Bool)) :=
  let d := descOf set
  let v := fun r => (d r).valid
  [ (0x8, fun r => v r && (decide (4 < (d r).policy) || (d r).scrub == 3 || (d r).dropout == 3)),
    (0x2, fun r => v r && !decide (12 ≤ (d r).size ∧ (d r).size ≤ if pairOn s then 29 else 28)),
    (0x1, fun r => v r && (d r).base % 2 ^ (d r).size != 0),
    (0x2, fun r => v r && decide (backedHa s < descEnd (d r))),
    (0x4, fun r => v r && decide (cargoHa s < descEnd (d r))),
    (0x3, fun r => v r && (((List.range r).any fun q => v q && overlaps (d q) (d r)) ||
      (List.range 64).any fun q => liveRegion s q && !v q && overlaps (descOf s.active q) (d r))),
    (0x5, fun r => isFv (d r) && decide (0x800000 < fvBytes set r)),
    (0x6, fun r =>
      let a := descOf s.active r
      v r && liveRegion s r && (a.base != (d r).base || a.size != (d r).size || a.policy != (d r).policy ||
        (a.policy == 4 && (d r).policy == 4 && (a.fvDir != (d r).fvDir || a.carry != (d r).carry)))),
    (0x7, fun r => s.retiring.contains r) ]

/-- The first failing row and its first region. -/
def applyFails (s : State) (set : KV Desc) : Option (Nat × Nat) :=
  (applyRows s set).findSome? fun (code, bad) => ((List.range 64).find? bad).map fun r => (code, r)

/-! ### Placing second copies (11 R474, R475) -/

/-- Size in 4 KiB units of the block of a region's share. -/
def blockUnits (s : State) (d : Desc) : Nat := max 1 (shareLines s d * 64 / 4096)

/-- Is the block of `u` units at offset `o` free of the placed blocks? -/
def blockFree (s : State) (o u : Nat) : Bool :=
  (List.range 64).all fun r =>
    !copyPlaced s r ||
      (let x := getF s (R.COMMIT_COPY_OFS r)
       let n := blockUnits s (descOf s.active r)
       decide (o + u ≤ x) || decide (x + n ≤ o))

/-- Place region r's share at the lowest free offset, or note that none fits. -/
def placeRegion (r : Nat) : M Unit := do
  let s ← get
  let d := descOf s.active r
  if shareLines s d = 0 then wrF (R.COMMIT_COPY_PLACED r) 0
  else
    let u := blockUnits s d
    match ((List.range (2048 / u)).map (· * u)).find? fun o => blockFree s o u with
    | some o =>
      wrF (R.COMMIT_COPY_OFS r) o
      wrF (R.COMMIT_COPY_VER r) 0
      wrF (R.COMMIT_COPY_PLACED r) 1
    | none =>
      wrF (R.COMMIT_COPY_VER r) 0
      wrF (R.COMMIT_STAT_COPY_ERR) 1
      wrF (R.COMMIT_STAT_ERR_REGION) r
      errCap1 pgCommit 1 r
      raise pgCommit 0

/-- REGION.FV_TOTAL: the active FV space. -/
def showFvTotal : M Unit := do
  let s ← get
  let n := ((List.range 64).map fun r => if liveRegion s r && isFv (descOf s.active r) then 2 ^ (descOf s.active r).size else 0).sum
  wrF R.REGION_FV_TOTAL_KIB4 (n / 4096)

/-! ### A set takes effect (R121, R125, R127) -/

/-- The tracked lines of a region (R127). -/
def trackedLines (s : State) (r : Nat) : List Line :=
  s.dir.filterMap fun e =>
    match viewWay s (e.1 / 16) (e.1 % 16) with
    | some (.stable tag st) =>
      let l := lineOfEntry (e.1 / 16) tag
      if members st != [] && regionAt s (l * 64) == some r then some l else none
    | _ => none

/-- Ask for the invalidation of every tracked line of a retiring region for which no request waits yet. -/
def askRetire (r : Nat) : M Unit := do
  let s ← get
  let asked := fun (l : Nat) => (s.arb.waiting ++ s.chain).any fun q => q.op == .retire && q.line == l
  each ((trackedLines s r).filter fun l => !asked l) fun l => do
    enqueue (engineReq (← get) qWeevil .retire l 0 0 [])

/-- One region of a set that takes effect. `image` marks the set of the configuration image, whose DIFF bits are 0 (11
R511). -/
def takeRegion (set : KV Desc) (image : Bool) (r : Nat) : M Unit := do
  let s ← get
  let old := descOf s.active r
  let new := descOf set r
  if old.valid && !new.valid then
    if !s.retiring.contains r then
      modify fun s => { s with retiring := s.retiring ++ [r] }
      wrF R.REGION_STAT_RETIRE_BUSY 1
      askRetire r
  else if new.valid then
    modify fun s => { s with active := kvSet (fun _ => Desc.invalid) s.active r new, retiring := s.retiring.filter (· != r) }
    if !old.valid && isFv new then
      placeRegion r
      if !image then setFv fun v => { v with diffAll := v.diffAll ++ [r] }
      onlyIf s.tick.running (setFv fun v => { v with joinsNext := v.joinsNext ++ [r] })

/-- A set takes effect and is the active set from now on: every region in ascending number, then the checks that follow a new set (13 R605, R609). -/
def takeSet (set : KV Desc) (image : Bool) : M Unit := do
  modify fun s => { s with applied := set }
  each (List.range 64) (takeRegion set image)
  showFvTotal
  checkStations

/-- A pending set takes effect; `image` marks an APPLY among the records of an image. -/
def takePendingFrom (image : Bool) : M Unit := do
  match (← get).pendSet with
  | some set =>
    modify fun s => { s with pendSet := none }
    wrF R.REGION_STAT_APPLY_PEND 0
    takeSet set image
  | none => pure ()

/-- The pending set takes effect. -/
def takePending : M Unit := do takePendingFrom (← get).fv.pendImage

/-! ### APPLY and REVERT -/

/-- A set that passed: pending until the edge, or in effect at once while RUN=0 (R121). -/
def acceptSet (image now : Bool) : M Unit := do
  modify fun s => { s with pendSet := some (shadowSet s), fv := { s.fv with pendImage := image } }
  wrF R.REGION_STAT_APPLY_PEND 1
  onlyIf now takePending

def runOff (s : State) : Bool := getF s R.TICK_CTL_RUN == 0

/-- Cancel a pending set. -/
def cancelSet : M Unit := do
  modify fun s => { s with pendSet := none }
  wrF R.REGION_STAT_APPLY_PEND 0

/-- APPLY on the hub that governs the set (R120). -/
def doApply (image : Bool) : M Unit := do
  let s ← get
  match applyFails s (shadowSet s) with
  | some (code, r) =>
    cancelSet
    wrF R.REGION_STAT_APPLY_ERR code
    wrF R.REGION_STAT_ERR_REGION r
    raise pgRegion 0
    mirrorWrite regionCtlKey 0
  | none =>
    wrF R.REGION_STAT_APPLY_ERR 0
    wrF R.REGION_STAT_ERR_REGION 0
    mirrorWrite regionCtlKey (if runOff s then 3 else 1)
    acceptSet image (runOff s)

/-- REVERT: the active set back into the shadow set, with what it holds of regions that are not valid (R123). -/
def revertSet : M Unit := do
  let s ← get
  each (List.range 64) fun r => putShadow r (descOf s.applied r)
  cancelSet

def doRevert : M Unit := do
  mirrorWrite regionCtlKey 2
  revertSet

/-- A record of REGION.CTL that reaches hub 1. The set that the master brings before the join is an image's (11 R511; log 86). -/
def mirrorRegionCtl (v : Nat) : M Unit := do
  let s ← get
  if v = 1 then acceptSet false (runOff s)
  else if v = 2 then revertSet
  else if v = 3 then acceptSet (!isJoined s) true
  else if v = 4 then takePending
  else cancelSet

/-- A write of REGION.CTL on the hub that governs the set. On hub 1 it is ignored and recorded (R126). -/
def writeRegionCtl (image : Bool) (v : Nat) : M (List Nat) := do
  let s ← get
  let a := v.testBit 0
  let b := v.testBit 1
  if !a && !b then pure []
  else if isMirror s then pure [0xF1]
  else if a && b then pure [0xF0]
  else
    if a then doApply image else doRevert
    pure []

/-! ### The end of a retire (R127-R130, 11 R476) -/

/-- Is a line of region r still cached, locked, in a flow or asked for, or in an open window? -/
def retireWaits (s : State) (r : Nat) : Bool :=
  let here := fun (l : Nat) => regionAt s (l * 64) == some r
  let inWin := fun (w : Option Window) => match w with | some x => x.regions.contains r | none => false
  trackedLines s r != [] || (s.flows.any fun f => here f.line) || (s.chain.any fun q => here q.line) ||
    (s.arb.waiting.any fun q => here q.line) || (s.locks.any fun e => match e.2 with | some l => here l.line | none => false) ||
    inWin s.fv.commit || inWin s.fv.release

/-- Write a dirty slot of the region to memory; it stays clean in the cache. -/
def cleanSlot (r i : Nat) : M Unit := do
  checkSlot i
  let s ← get
  let sl := slotOf s i
  let loc := slotLoc sl i
  if slotV sl && slotD0 sl && decide (loc < secondBase) && regionAt s (lineOfLoc s loc * 64) == some r then
    memPutStored loc sl.data
    putSlot i { sl with tagw := tagWord (slotTag sl) true false }

/-- Write the current copy of every line of an FV region into its HA extent (R128). -/
def writeOutFv (r : Nat) : M Unit := do
  let s ← get
  if copyPlaced s r && getF s (R.COMMIT_COPY_VER r) == 1 then
    each (List.range (shareLines s (descOf s.active r))) fun k => do
      let line := shareLine s (descOf s.active r) k
      let d ← readLoc (secondLoc s r line) 2 qCommit 0
      writeLoc (laLoc s line) 2 qCommit 0 d

/-- Zero data with valid check bits in the block of a second copy, and free it (11 R476): COPYr reads 0. -/
def freeBlock (r : Nat) : M Unit := do
  let s ← get
  if copyPlaced s r then
    let lo := secondBase + getF s (R.COMMIT_COPY_OFS r) * 64
    let hi := lo + shareLines s (descOf s.active r)
    let inBlk := fun (loc : Nat) => decide (lo ≤ loc ∧ loc < hi)
    modify fun s => { s with
      mem := s.mem.filter fun e => !inBlk (e.1 / 64), memChk := s.memChk.filter fun e => !inBlk (e.1 / 64),
      slots := s.slots.filter fun e => !inBlk (slotLoc e.2 e.1), ebuf := s.ebuf.filter fun e => !inBlk e.loc }
    wrF (R.COMMIT_COPY_PLACED r) 0
    wrF (R.COMMIT_COPY_VER r) 0
    wrF (R.COMMIT_COPY_OFS r) 0

/-- Drop the NV and DIFF bits of a region's lines. -/
def dropBits (r : Nat) : M Unit := modify fun s =>
  let out := fun (l : Nat) => fvRegion s l != some r
  { s with fv := { s.fv with nv := s.fv.nv.filter fun e => out e.1, diff := s.fv.diff.filter fun e => out e.1,
                             diffAll := s.fv.diffAll.filter (· != r), joinsNext := s.fv.joinsNext.filter (· != r) } }

/-- Everything of a region that is no longer cached goes to memory, and the region is gone. -/
def endRetire (r : Nat) : M Unit := do
  if isFv (descOf (← get).active r) then
    writeOutFv r
  let s ← get
  each s.slots fun e => cleanSlot r e.1
  let s ← get
  each (s.ebuf.filter fun e => decide (e.loc < secondBase) && regionAt s (lineOfLoc s e.loc * 64) == some r) ebComplete
  if isFv (descOf (← get).active r) then
    freeBlock r
    dropBits r
  modify fun s => { s with active := kvSet (fun _ => Desc.invalid) s.active r Desc.invalid, retiring := s.retiring.filter (· != r) }

/-- RETIRE_DONE: lines that have come to be tracked are asked for; when no line of a retiring region is cached or locked its
dirty lines are written out and the retire ends (R130). -/
def doRetireDone : M Unit := do
  let s ← get
  if s.retiring != [] && !s.power.hold && !s.power.held && !s.power.otOff then
    each s.retiring askRetire
    let s ← get
    if !(s.retiring.any (retireWaits s)) then
      each s.retiring endRetire
      wrF R.REGION_STAT_RETIRE_BUSY 0
      raise pgRegion 1

def execRetireDone (s : State) : Host.Outcome State Fault Refusal := finish doRetireDone s

end Sys2Proof.Machine
end

