-- ==== Sys2Proof/Machine/Tick.lean ====
section
/-! DEFINITION. The tick (02 R28-R47, R94; 12 R535-R538): its start and stop, the edge on the hub that generates it and on hub 1,
Firefly's part of the edge (13 R593, R594), publishing of the ledger (02 R67-R72), and the timed commands of the tick. -/

namespace Sys2Proof.Machine

def setTick (f : Tick → Tick) : M Unit := modify fun s => { s with tick := f s.tick }

/-! ### Period and phases (R30, R42) -/

/-- The period and the phase registers, which take effect at an edge. -/
def phaseKeys : List Nat := [0x044, 0x050, 0x054, 0x058, 0x05C, 0x060, 0x064].map (regKey pgTick)

/-- The written values take effect. -/
def loadPhases : M Unit := modify fun s => { s with tick := { s.tick with
  period := getF s R.TICK_PERIOD_NS10, precommit := getF s R.TICK_PRECOMMIT_NS10,
  budget := getF s R.TICK_COMMIT_BUDGET_NS10, release := getF s R.TICK_RELEASE_NS10,
  hkStart := getF s R.TICK_HK_START_NS10, hkLen := getF s R.TICK_HK_LEN_NS10, cutoff := getF s R.TICK_IN_CUTOFF_NS10 } }

/-- Does a record of a register hold an edge's action back (12 R534): on the master, one that hub 1 has not acknowledged; on hub
1, one whose acknowledgement, twice the link delay ago at least, had not reached the master when it sent the marker (log 114)? -/
def edgeHeld (s : State) (k : Nat) : Bool :=
  s.pair.mirrorQ.contains k ||
    (isMirror s && s.pair.acked.any fun e => e.1 == k && decide (s.now < e.2 + 2 * getF s R.TICK_PAIR_DLY_NS))

/-- At an edge they take effect together; in a pair, once hub 1 has acknowledged them (12 R534). -/
def edgePhases : M Unit := do
  let s ← get
  onlyIf (!(phaseKeys.any (edgeHeld s))) loadPhases

/-- Records old enough for the master's acknowledgement are forgotten. -/
def dropAcked : M Unit := setPair fun ps => { ps with acked := [] }

/-! ### Start and stop (R32, R94, R878) -/

/-- The tick starts: the first edge lies one period ahead. Until it there is no phase of a tick. An EVT output keeps the FAULT_ST level of
the stop until INIT is written or a new schedule changes it (DESIGN CHOICE, log 115). -/
def startTick : M Unit := modify fun s => { s with
  tick := { s.tick with
    running := true, started := true, offset := 0, period := getF s R.TICK_PERIOD_NS10, len := getF s R.TICK_PERIOD_NS10,
    base := getF s R.TICK_PERIOD_NS10,
    stretch := 0, overrun := false, budgetDone := true, relDone := true, relFlipped := false, relSent := true,
    hkDone := true, cutDone := true, noMark := true },
  evt := { s.evt with took := false } }

/-- A window of a tick that ends: abandoned before its flip, its carry completed after it. -/
def leaveCommit : M Unit := do
  match (← get).fv.commit with
  | some w => do
    onlyIf w.flipped (each w.carry carryLine)
    closeCommit
  | none => pure ()

def leaveRelease : M Unit := do
  match (← get).fv.release with
  | some w => do
    onlyIf w.flipped (each w.carry carryLine)
    closeRelease
  | none => pure ()

/-- RUN=0: a pending region set takes effect at once (03 R121), on both hubs (R126). -/
def takeStopped : M Unit := do
  onlyIf (← get).pendSet.isSome (mirrorWrite regionCtlKey 4)
  takePending

/-- RUN is cleared: edges stop at once and the tick in progress is abandoned (R94). A pending region set takes effect (03
R121). -/
def stopTick : M Unit := do
  setTick fun t => { t with running := false }
  leaveCommit
  leaveRelease
  setEvt fun e => { e with loadDue := false, nextSched := none }
  driveFault
  takeStopped

/-- Is a RUN of the master held until the join (12 R530)? -/
def awaitsJoin (s : State) : Bool := isMaster s && pairOn s && !isJoined s && !isLost s

/-- RUN=1 may start the tick of this hub now (R878): in stage RUN; on hub 1 of a pair, once it is joined. -/
def mayStart (s : State) : Bool := stage s == 4 && !awaitsJoin s && (!isMirror s || isJoined s || isLost s)

/-- Start the tick when RUN=1 is in force and it does not run. -/
def startIfRun : M Unit := do
  let s ← get
  onlyIf (getF s R.TICK_CTL_RUN == 1 && !s.tick.running && mayStart s) startTick

/-! ### Firefly at the edge (13 R593, R594) -/

/-- A 16-bit or 32-bit two's complement number. -/
def signedOf (n v : Nat) : Int := if v < 2 ^ (n - 1) then (v : Int) else (v : Int) - (2 ^ n : Nat)

def ofSigned (n : Nat) (x : Int) : Nat := (x % (2 ^ n : Nat)).toNat

def trimOf (s : State) : Int := signedOf 16 (getF s R.FABRIC_FF_TRIM_TRIM)

def isCoord (s : State) : Bool := getF s R.FABRIC_STAT_COORD == 1

/-- Does the hub discipline its edges to SYNC frames (02 R33, R590)? -/
def follows (s : State) : Bool := getF s R.TICK_CTL_FOLLOW == 1 && ownEdges s && !isCoord s

/-- FF_STAT.LOCK falls. -/
def loseLock : M Unit := do
  if ← rdB R.FABRIC_FF_STAT_LOCK then
    wrF R.FABRIC_FF_STAT_LOCK 0
    incF R.FABRIC_FF_LOSS_CNT_CNT
    raise 0x20 3

/-- The tick that ends without an accepted SYNC was one of holdover. -/
def endFirefly : M Unit := do
  let s ← get
  if follows s && !s.tick.noMark then
    if s.fabric.accepted then setFabric fun f => { f with accepted := false }
    else
      setFabric fun f => { f with acc := (f.acc + trimOf s) % 256, holdRun := f.holdRun + 1 }
      wrF R.FABRIC_FF_STAT_HOLDOVER 1
      onlyIf (s.fabric.holdRun + 1 == 64) loseLock

/-- The length of a tick that takes no SYNC. -/
def plainLen (s : State) : Nat :=
  if follows s then ((s.tick.period : Int) + (s.fabric.acc + trimOf s) / 256).toNat else s.tick.period

/-! ### The ledger (R67-R71) -/

/-- The bound of a cell, and the port or tenant it belongs to. -/
def cellBound (s : State) (off : Nat) : Nat :=
  if off < 0x500 then getF s (R.LEDGER_CLASS_BOUND_NS (off % 64 / 4))
  else getF s (R.TENANT_LAT_BOUND_NS ((off - 0x500) / 64) ((off - 0x500) % 64 / 4))

/-- Publish one cell. -/
def publishCell (off : Nat) (w : Word) : M Unit := do
  let s ← get
  let b := cellBound s off
  let isOver := b != 0 && decide (b < fieldOf w 0 24)
  wrReg pgLedger off (BitVec.ofNat 32 (w.toNat + (if isOver then 2 ^ 31 else 0)))
  if isOver then
    if 0x100 ≤ off ∧ off < 0x500 then
      wrF R.LEDGER_OVER_PORT_PORTS (Nat.lor (getF s R.LEDGER_OVER_PORT_PORTS) (2 ^ ((off - 0x100) / 64)))
    if 0x500 ≤ off then
      wrF R.LEDGER_OVER_TEN_TENANTS (Nat.lor (getF s R.LEDGER_OVER_TEN_TENANTS) (2 ^ ((off - 0x500) / 64)))
    raise pgLedger 0

/-- The live bank becomes the published bank of the tick `ended`. -/
def publish (ended : Nat) : M Unit := do
  let live := (← get).live
  clearLedger
  wrF R.LEDGER_OVER_PORT_PORTS 0
  wrF R.LEDGER_OVER_TEN_TENANTS 0
  each live fun e => publishCell e.1 e.2
  wrF R.LEDGER_PUB_TICK_NUM ended

/-! ### The edge (R45) -/

/-- Locks held for LONG_TICKS ticks (10 R449). -/
def longLocks : M Unit := do
  let s ← get
  let n := getF s R.LOCK_LONG_TICKS_N
  if n ≠ 0 then
    each s.locks fun e =>
      match e.2 with
      | some l =>
        if !l.long && decide (n ≤ (tickNum s + 2 ^ 32 - l.tick) % 2 ^ 32) then do
          setLock e.1 (some { l with long := true })
          raise pgLock 5
        else pure ()
      | none => pure ()

/-- SYNC EDGE on every SYNC_DOWN port of the coordinator (13 R589, R590). -/
def sendSync : M Unit := do
  let s ← get
  if isCoord s then
    each ((List.range 4).filter fun p => s.fabric.syncDown.testBit p) fun p =>
      fSend p (mkFrame s 0 0 (tickNum s % 65536)
        ([1] ++ natToBytes 4 (tickNum s) ++ natToBytes 3 s.tick.period ++ [0, 0, 0, 0]))

/-- Commits and releases resume at the edge after FAULT_CLR or a restart (R55, 15 R679). Each EVT output keeps its FAULT_ST level until an
entry of a later schedule changes it (DESIGN CHOICE, log 115). -/
def resume : M Unit := do
  let s ← get
  if s.tick.resumeAtEdge && !isHalted s && !s.dreset then
    setTick fun t => { t with stopped := false, resumeAtEdge := false }
    wrF R.TICK_STAT_FAULTED 0

/-- Carry of a flipped commit window that still runs at the edge. An unflipped one, on hub 1, stays (12 R539). -/
def finishCarry : M Unit := do
  match (← get).fv.commit with
  | some w => onlyIf w.flipped leaveCommit
  | none => pure ()

/-- A SYNC STRETCH that came for this tick before its edge here (13 R595). -/
def earlyStretch : M Unit := do
  let s ← get
  match s.fabric.early with
  | some (t, d) =>
    setFabric fun f => { f with early := none }
    if t = tickNum s then setTick fun k => { k with len := k.len + d }
  | none => pure ()

/-- A new tick with number `num`; `mark` is false for an edge that hub 1 makes without a marker. -/
def newTick (num : Nat) (mark : Bool) : M Unit := do
  let s ← get
  let ended := tickNum s
  finishCarry
  endFirefly
  resume
  edgePhases
  modify fun s => { s with weevil := { s.weevil with linesInForce := getF s R.SCRUB_LINES_N, hcInForce := getF s R.SCRUB_HC_LINES_N } }
  setFv fun v => { v with joinsNext := [] }
  wrF R.TICK_NUM_NUM num
  modify fun s => { s with tick := { s.tick with
    running := true, started := true, offset := 0, len := plainLen s, base := plainLen s, stretch := 0, overrun := false, budgetDone := false,
    relDone := false, relFlipped := false, relSent := false, hkDone := false, cutDone := false, noMark := !mark } }
  earlyStretch
  let s ← get
  if isMaster s then sendMarks ([0, 1, 2].map fun k => .tickMark k (tickNum s))
  sendSync
  if !(edgeHeld s regionCtlKey) then takePending
  onlyIf (!(s.pair.acked.any fun e => edgeHeld s e.1)) dropAcked
  publish ended
  each entries fun e => setStn e fun x => { x with got := false, late := false, missed := false }
  scheduleAtEdge
  commitAtEdge
  longLocks
  checkGraph

/-- TICK_EDGE on a hub that generates its edges (R28, R31). -/
def doTickEdge : M Unit := do
  let s ← get
  onlyIf (s.tick.running && ownEdges s && edgeDue s) (newTick ((tickNum s + 1) % 2 ^ 32) true)

def execTickEdge (s : State) : Host.Outcome State Fault Refusal := finish doTickEdge s

/-- The phase error of a marker-timed edge against the own counter (R39). How one outside 16 bits shows is left open (log
19). -/
def pairErr : M Unit := do
  let s ← get
  let e : Int := ((s.tick.offset : Int) - s.tick.len) * 10
  if -32768 ≤ e ∧ e ≤ 32767 then wrF R.TICK_PAIR_ERR_NS (ofSigned 16 e)
  else
    let w ← drawWord
    wrF R.TICK_PAIR_ERR_NS w.toNat

/-- TICK_MARK: hub 1's edge, at the first good copy of a marker (R36, 12 R535). -/
def doTickMark (num : Nat) : M Unit := do
  let s ← get
  if isMirror s && hasPartner s && pairLstate s = 6 && s.tick.running && num != tickNum s then
    pairErr
    newTick num true

def execTickMark (num : Word) (s : State) : Host.Outcome State Fault Refusal := finish (doTickMark num.toNat) s

/-- TICK_MARK_MISSING: hub 1's edge from its own counter (R38, 12 R535, R538). -/
def doTickMarkMissing : M Unit := do
  let s ← get
  if isMirror s && hasPartner s && s.tick.running && decide (s.tick.len ≤ s.tick.offset) then
    wrF R.TICK_STAT_PAIR_SYNC_LOST 1
    incF R.TICK_PAIR_MISS_CNT
    raise pgTick 5
    incF R.PAIR_MARKER_MISS_CNT_CNT
    errCapFree pgPair 4
    newTick ((tickNum s + 1) % 2 ^ 32) false

def execTickMarkMissing (s : State) : Host.Outcome State Fault Refusal := finish doTickMarkMissing s

/-! ### The timed commands of the tick -/

def execCommitBudgetCheck (s : State) : Host.Outcome State Fault Refusal := finish doBudgetCheck s

def execStretchMaxExpiry (s : State) : Host.Outcome State Fault Refusal := finish doStretchExpiry s

def execPreCommitStart (s : State) : Host.Outcome State Fault Refusal := finish doPreCommit s

def execPreReleaseStart (s : State) : Host.Outcome State Fault Refusal := finish doPreRelease s

def execPreCarryCopy (s : State) : Host.Outcome State Fault Refusal := finish doPreCarry s

def execCommitReady (s : State) : Host.Outcome State Fault Refusal := finish doCommitReady s

def execCommitFlip (s : State) : Host.Outcome State Fault Refusal := finish doCommitFlip s

def execCommitWindowClose (s : State) : Host.Outcome State Fault Refusal := finish doWindowClose s

def execReleasePoint (s : State) : Host.Outcome State Fault Refusal := finish doReleasePoint s

def execReleaseBudgetCheck (remote : List (List DFlit)) (s : State) : Host.Outcome State Fault Refusal :=
  finish (doReleaseCheck remote) s

def execReleaseFlip (remote : List (List DFlit)) (s : State) : Host.Outcome State Fault Refusal :=
  finish (doReleaseFlip remote) s

def execFlipMark (release : Bool) (s : State) : Host.Outcome State Fault Refusal := finish (doFlipMark release) s

def execDecision (release : Bool) (d : Fin 3) (s : State) : Host.Outcome State Fault Refusal :=
  finish (fromPair 7 0 (doDecision release d.val)) s

def execBoundReport (release : Bool) (bound : BitVec 20) (s : State) : Host.Outcome State Fault Refusal :=
  finish (fromPair 7 0 (doBoundReport release bound.toNat)) s

def execReadyReport (release : Bool) (s : State) : Host.Outcome State Fault Refusal := 
  finish (fromPair 7 0 (doReadyReport release)) s

def execInCutoff (s : State) : Host.Outcome State Fault Refusal := finish doInCutoff s

def execBindSend (e : Fin 48) (s : State) : Host.Outcome State Fault Refusal := finish (doBindSend e.val) s

end Sys2Proof.Machine
end

