-- ==== Sys2Proof/Machine/Fabric.lean ====
section
/-! DEFINITION. Fabric links, discovery and routes (13 R557-R586). -/

namespace Sys2Proof.Machine

def pgFab : Nat := 0x20

def dstate (s : State) : Nat := getF s R.FABRIC_STAT_DSTATE

def fabPorts : List Nat := List.range 4

/-- A link as a LINKS report shows it up: up, with a neighbour heard whose BUF is in range (R567). -/
def linkUsable (s : State) (p : Nat) : Bool := fRoutes s p

def upPorts (s : State) : List Nat := fabPorts.filter (fLink s)

/-! ### Election (R572, R573) -/

def coordCap (s : State) : Bool := getF s R.FABRIC_CTL_COORD_EN == 1

/-- The candidates that this node and its neighbours' HELLOs name: UID, DIST as received, port (none: this node). -/
def candidates (s : State) : List (Nat × Nat × Nat) :=
  (if coordCap s then [(ownUid s, 0, 15)] else []) ++
    (fabPorts.filter fun p => fLink s p && decide ((fportOf s p).dist < 63)).map fun p => ((fportOf s p).cand, (fportOf s p).dist + 1, p)

/-- Is (uid, dist, port) better: the lower UID, then the lower DIST, then the lower port? -/
def betterCand (a b : Nat × Nat × Nat) : Bool :=
  decide (a.1 < b.1) || (a.1 == b.1 && (decide (a.2.1 < b.2.1) || (a.2.1 == b.2.1 && decide (a.2.2 < b.2.2))))

def bestCand : List (Nat × Nat × Nat) → Option (Nat × Nat × Nat)
  | [] => none
  | c :: t => match bestCand t with | none => some c | some b => if betterCand c b then some c else some b

/-- Update candidate, DIST and parent; a change restarts the 200 µs of R574. -/
def electUpdate : M Unit := do
  let s ← get
  let (c, d, p) := (bestCand (candidates s)).getD (0, 255, 15)
  if s.fabric.cand != c || s.fabric.dist != d || s.fabric.parent != p then
    setFabric fun f => { f with cand := c, dist := d, parent := p, stableAt := s.now }

/-- Enter ELECT with a generation (R583). -/
def enterElect (gen : Nat) : M Unit := do
  let s ← get
  wrF R.FABRIC_STAT_GEN gen
  wrF R.FABRIC_STAT_DSTATE 1
  each fabPorts fun p => setFport p fun fp => { fp with cand := 0, dist := 255 }
  setFabric fun f => { f with stableAt := s.now, stateAt := s.now, links := [], seen := [], owed := [], nodesNext := [] }
  electUpdate

/-- A rediscovery with its record (R583); the kept results of MBX frames go (14 R650). -/
def rediscover (gen : Nat) : M Unit := do
  let s ← get
  if dstate s ≠ 0 then
    incF R.FABRIC_REDISC_CNT_CNT
    wrF R.FABRIC_LAST_REDISC_TICK_NUM (tickNum s)
    raise pgFab 0
    modify fun s => { s with mbxLast := [] }
    enterElect gen

/-- A link of this node changed, or REDISC was written. -/
def linkChange : M Unit := do rediscover ((fabGen (← get) + 1) % 256)

/-! ### Links (R558, R560, R620-R622) -/

/-- May a fabric port be up? -/
def fabricOn (s : State) (p : Nat) : Bool :=
  isRunning s && getF s R.FABRIC_CTL_EN == 1 && getF s (R.FPORT_CTL_EN p) == 1

def fabLinkUp (p : Nat) : M Unit := do
  let s ← get
  if fabricOn s p && !fLink s p then
    wrF (R.FPORT_STAT_LINK p) 1
    wrF (R.FPORT_STAT_AN_MISMATCH p) 0
    wrF (R.FPORT_CREDIT_VC0 p) 0
    wrF (R.FPORT_CREDIT_VC1 p) 0
    incF (R.FPORT_LINK_CHG_CNT_CNT p)
    raise (pgFport p) 0
    setFport p fun _ => { FPort.empty with goodAt := s.now, echoLeft := 16, creditAt := s.now }
    linkChange

/-- The link goes down; routed frames that wait for it have no route (R565). -/
def linkDown (p : Nat) : M Unit := do
  let s ← get
  if fLink s p then
    let q := (fportOf s p).txq.filter usesBuf
    addF (R.FPORT_DROP_NOROUTE_CNT_CNT p) q.length
    onlyIf (q != []) (raise (pgFport p) 3)
    setFport p fun _ => FPort.empty
    wrF (R.FPORT_STAT_LINK p) 0
    wrF (R.FPORT_STAT_USE p) 0
    wrF (R.FPORT_CREDIT_VC0 p) 0
    wrF (R.FPORT_CREDIT_VC1 p) 0
    incF (R.FPORT_LINK_CHG_CNT_CNT p)
    raise (pgFport p) 1
    linkChange

/-- A port that is on and has no link starts auto-negotiation, where it uses it (R558). -/
def startAn (p : Nat) : M Unit := do
  let s ← get
  onlyIf (fabricOn s p && getF s (R.FPORT_CTL_AN_EN p) == 1 && !fLink s p) (emit (.config p))

/-- A link reset of a fabric port (R621): its class-L fields take their reset values. -/
def fportReset (p : Nat) : M Unit := do
  linkDown p
  dropLatches
  wrReg (pgFport p) 0x044 0
  wrReg (pgFport p) 0x048 0
  wrReg (pgFport p) 0x04C 0
  wrReg (pgFport p) 0x050 0
  wrReg (pgFport p) 0x054 0
  wrReg (pgFport p) 0x074 0
  startAn p

/-- FABRIC.CTL.EN takes effect: OFF has its ports down, and a link that goes down in it starts no discovery; discovery starts when EN
is set (R574). -/
def fabricEnable : M Unit := do
  let s ← get
  if getF s R.FABRIC_CTL_EN = 0 then
    wrF R.FABRIC_STAT_DSTATE 0
    wrF R.FABRIC_STAT_COORD 0
    each fabPorts linkDown
  else
    each fabPorts startAn
    if dstate s = 0 && isRunning s then enterElect (fabGen s)

def execAnComplete (p : Fin 4) (matched : Bool) (s : State) : Host.Outcome State Fault Refusal :=
  finish (do
    let s ← get
    if fabricOn s p.val && getF s (R.FPORT_CTL_AN_EN p.val) == 1 && !fLink s p.val then
      if matched then fabLinkUp p.val else wrF (R.FPORT_STAT_AN_MISMATCH p.val) 1) s

def execSyncAcquired (p : Fin 4) (s : State) : Host.Outcome State Fault Refusal :=
  finish (do
    let s ← get
    onlyIf (getF s (R.FPORT_CTL_AN_EN p.val) == 0) (fabLinkUp p.val)) s

def execFabricLinkDown (p : Fin 4) (s : State) : Host.Outcome State Fault Refusal := finish (do linkDown p.val; startAn p.val) s

/-! ### Frames -/

/-- A frame forwarded to a node (R565). -/
def forwardFrame (p : Nat) (f : Frame) : M Unit := do
  if f.hops.val = 15 then
    incF (R.FPORT_DROP_HOPS_CNT_CNT p)
    raise (pgFport p) 3
  else fRoute { f with hops := f.hops + 1 } (some p)

/-- A routed frame that arrived: delivered here by `here`, or forwarded. -/
def routed (p : Nat) (f : Frame) (here : M Unit) : M Unit := do
  if ← fReceive p f then
    let s ← get
    if getF s R.FABRIC_STAT_ID_VALID = 1 && f.dst.toNat = nodeId s then here else forwardFrame p f

/-- FRAME_FORWARD: a routed frame for another node. -/
def doFrameForward (p : Nat) (f : Frame) : M Unit := do
  onlyIf (decide (2 ≤ f.cls.val)) (routed p f (pure ()))

def execFrameForward (p : Fin 4) (f : Frame) (s : State) : Host.Outcome State Fault Refusal :=
  finish (doFrameForward p.val f) s

/-- FRAME_DISCARD (R563). -/
def doFrameDiscard (p : Nat) (why : FrameFault) : M Unit := do
  if fLink (← get) p then
    match why with
    | .crc => do incF (R.FPORT_CRC_ERR_CNT_CNT p); raise (pgFport p) 2
    | _ => do incF (R.FPORT_DROP_FMT_CNT_CNT p); raise (pgFport p) 3

def execFrameDiscard (p : Fin 4) (why : FrameFault) (s : State) : Host.Outcome State Fault Refusal :=
  finish (doFrameDiscard p.val why) s

/-- A DISC frame with KIND k is taken from a port. -/
def takeDisc (p k : Nat) (f : Frame) : M Bool := do
  if ← fReceive p f then pure (f.cls.val == 1 && pfield f 0 1 == k) else pure false

/-- Send a DISC frame on a port. -/
def sendDisc (p dst : Nat) (bs : List Nat) : M Unit := do
  let n ← if [1, 5, 6, 7].contains (bs.headD 0) then pure 0 else nextSeq 1 dst
  fSend p (mkFrame (← get) 1 dst n bs)

/-! ### Credits (R568) -/

/-- CREDIT: counts of freed buffers. -/
def doCredit (p : Nat) (f : Frame) : M Unit := do
  if ← takeDisc p 7 f then
    let s ← get
    let fp := fportOf s p
    let d := fun (new old : Nat) => (new + 256 - old) % 256
    addF (R.FPORT_CREDIT_VC0 p) (d (pfield f 2 1) fp.peer0)
    addF (R.FPORT_CREDIT_VC1 p) (d (pfield f 3 1) fp.peer1)
    setFport p fun fp => { fp with peer0 := pfield f 2 1, peer1 := pfield f 3 1 }
    fPump p

def execCredit (p : Fin 4) (f : Frame) (s : State) : Host.Outcome State Fault Refusal := finish (doCredit p.val f) s

/-- CREDIT_SEND: after two freed buffers, and at least once per 10 µs. -/
def doCreditSend (p : Nat) : M Unit := do
  let s ← get
  let fp := fportOf s p
  let freed := (fp.freed0 + 256 - fp.sent0) % 256 + (fp.freed1 + 256 - fp.sent1) % 256
  if fLink s p && (decide (2 ≤ freed) || decide (fp.creditAt + 10000 ≤ s.now)) then
    setFport p fun fp => { fp with sent0 := fp.freed0, sent1 := fp.freed1, creditAt := s.now }
    sendDisc p 0 [7, fabGen s, fp.freed0, fp.freed1]

def execCreditSend (p : Fin 4) (s : State) : Host.Outcome State Fault Refusal := finish (doCreditSend p.val) s

/-! ### HELLO (R567, R571-R573, R583) -/

/-- A BUF declaration. -/
def helloBuf (p buf : Nat) : M Unit := do
  let s ← get
  if buf < 2 ∨ 64 < buf then
    wrF (R.FPORT_STAT_BUF_ERR p) 1
    raise (pgFport p) 4
  else
    if !(fportOf s p).heard then
      setFport p fun fp => { fp with heard := true }
      wrF (R.FPORT_CREDIT_VC0 p) buf
      wrF (R.FPORT_CREDIT_VC1 p) buf
    if getF s (R.FPORT_STAT_BUF_ERR p) = 1 then
      wrF (R.FPORT_STAT_BUF_ERR p) 0
      linkChange
    fPump p

def doHello (p : Nat) (f : Frame) : M Unit := do
  if ← takeDisc p 1 f then
    let uid := pfield f 2 8
    wrF (R.FPORT_PARTNER_UID_LO_UID p) uid
    wrF (R.FPORT_PARTNER_UID_HI_UID p) (uid / 2 ^ 32)
    wrF (R.FPORT_PARTNER_PORT_PORT p) (pfield f 10 1 / 2)
    let g := pfield f 1 1
    onlyIf (later 8 g (fabGen (← get))) (rediscover g)
    helloBuf p (pfield f 20 1)
    let s ← get
    if g = fabGen s && dstate s = 1 then
      setFport p fun fp => { fp with cand := pfield f 11 8, dist := pfield f 19 1 }
      electUpdate

def execHello (p : Fin 4) (f : Frame) (s : State) : Host.Outcome State Fault Refusal := finish (doHello p.val f) s

/-- HELLO_SEND: once per 10 µs in discovery, once per 1 ms in RUN. -/
def doHelloSend (p : Nat) : M Unit := do
  let s ← get
  let fp := fportOf s p
  if fLink s p && dstate s != 0 && decide (fp.helloAt + (if dstate s = 4 then 1000000 else 10000) ≤ s.now) then
    setFport p fun fp => { fp with helloAt := s.now }
    sendDisc p 0 ([1, fabGen s] ++ natToBytes 8 (ownUid s) ++ [(coordCap s).toNat + 2 * p] ++ natToBytes 8 s.fabric.cand ++
      [s.fabric.dist, 8])

def execHelloSend (p : Fin 4) (s : State) : Host.Outcome State Fault Refusal := finish (doHelloSend p.val) s

/-! ### LINKS (R571, R574) -/

/-- This node's report. -/
def ownLinks (s : State) : LinksRec :=
  { uid := ownUid s,
    prev := if getF s R.FABRIC_STAT_ID_VALID = 1 then some (nodeId s) else none,
    ports := fabPorts.map fun p =>
      { up := linkUsable s p, standby := getF s (R.FPORT_STAT_USE p) == 2,
        uid := getF s (R.FPORT_PARTNER_UID_LO_UID p) + getF s (R.FPORT_PARTNER_UID_HI_UID p) * 2 ^ 32,
        port := getF s (R.FPORT_PARTNER_PORT_PORT p), delay := getF s (R.FPORT_DELAY_NS p) } }

def linksBytes (gen : Nat) (l : LinksRec) : List Nat :=
  [2, gen] ++ natToBytes 8 l.uid ++ [match l.prev with | some n => n + 128 | none => 0] ++
    (l.ports.map fun p => [p.up.toNat + 2 * p.standby.toNat] ++ natToBytes 8 p.uid ++ [p.port] ++ natToBytes 2 p.delay).flatten

def readLinks (f : Frame) : LinksRec :=
  { uid := pfield f 2 8, prev := if pfield f 10 1 / 128 = 1 then some (pfield f 10 1 % 64) else none,
    ports := fabPorts.map fun p =>
      { up := (pfield f (11 + 12 * p) 1).testBit 0, standby := (pfield f (11 + 12 * p) 1).testBit 1,
        uid := pfield f (12 + 12 * p) 8, port := pfield f (20 + 12 * p) 1 % 4, delay := pfield f (21 + 12 * p) 2 } }

/-- Has a LINKS come from every UID that a collected report names as a neighbour? -/
def linksComplete (ls : List LinksRec) : Bool :=
  ls.all fun l => l.ports.all fun p => !p.up || ls.any fun m => m.uid == p.uid

/-! ### Topology (R576, R578-R582) -/

def recOf (ls : List LinksRec) (u : Nat) : Option LinksRec := ls.find? fun l => l.uid == u

/-- The far end of port k of node u, where both ends report the link up. -/
def farEnd (ls : List LinksRec) (u k : Nat) : Option (Nat × Nat) :=
  match recOf ls u with
  | none => none
  | some l =>
    match l.ports[k]? with
    | none => none
    | some x =>
      match recOf ls x.uid with
      | none => none
      | some m =>
        match m.ports[x.port]? with
        | none => none
        | some y => if x.up && y.up && y.uid == u && y.port == k && x.uid != u then some (x.uid, x.port) else none

/-- Breadth-first distances: (UID, hops), by rounds. -/
def bfs (next : Nat → List Nat) : Nat → Nat → List (Nat × Nat) → List (Nat × Nat)
  | 0, _, acc => acc
  | n + 1, d, acc =>
    let new := (((acc.filter fun x => x.2 == d).map fun x => next x.1).flatten.eraseDups).filter fun u => !(acc.any fun x => x.1 == u)
    if new == [] then acc else bfs next n (d + 1) (acc ++ new.map fun u => (u, d + 1))

def hopsTo (ds : List (Nat × Nat)) (u : Nat) : Option Nat := (ds.find? fun x => x.1 == u).map (·.2)

/-- The neighbours of a node over its up links. -/
def allNext (ls : List LinksRec) (u : Nat) : List Nat := fabPorts.filterMap fun k => (farEnd ls u k).map (·.1)

/-- The topology that the coordinator computes: its UID, the reports, distances in the tree, the link that closes the ring. -/
structure Topo where
  root : Nat
  ls : List LinksRec
  ds : List (Nat × Nat)
  ring : Option (Nat × Nat × Nat × Nat)

/-- The port by which a node joins the tree (R579 step 1). -/
def treePort (ls : List LinksRec) (ds : List (Nat × Nat)) (v : Nat) : Option Nat :=
  match hopsTo ds v with
  | some (d + 1) => fabPorts.find? fun k => match farEnd ls v k with | some (u, _) => hopsTo ds u == some d | none => false
  | _ => none

/-- Is the link at port k of u, to port j of v, a tree link? -/
def isTree (ls : List LinksRec) (ds : List (Nat × Nat)) (u k v j : Nat) : Bool :=
  (treePort ls ds u == some k && hopsTo ds u == (hopsTo ds v).map (· + 1)) ||
    (treePort ls ds v == some j && hopsTo ds v == (hopsTo ds u).map (· + 1))

/-- Every link between reached nodes, in ascending order of lower endpoint UID and its port (R579 step 2). -/
def linkOrder (ls : List LinksRec) (ds : List (Nat × Nat)) : List (Nat × Nat × Nat × Nat) :=
  (((ds.map (·.1)).mergeSort).map fun u => fabPorts.filterMap fun k =>
    match farEnd ls u k with | some (v, j) => if u < v then some (u, k, v, j) else none | none => none).flatten

def topoOf (root : Nat) (ls : List LinksRec) : Topo :=
  let ds := bfs (allNext ls) (ls.length + 1) 0 [(root, 0)]
  { root := root, ls := ls, ds := ds, ring := (linkOrder ls ds).find? fun (u, k, v, j) => !isTree ls ds u k v j }

/-- Is the link at port k of u a used one? -/
def usedPort (t : Topo) (u k : Nat) : Bool :=
  match farEnd t.ls u k with
  | some (v, j) => isTree t.ls t.ds u k v j || t.ring == some (u, k, v, j) || t.ring == some (v, j, u, k)
  | none => false

def usedNext (t : Topo) (u : Nat) : List Nat :=
  (fabPorts.filter (usedPort t u)).filterMap fun k => (farEnd t.ls u k).map (·.1)

/-- The route nibble of node u for node d (R571, R580). -/
def nibbleFor (t : Topo) (u d : Nat) : Nat :=
  if u = d then 0xE
  else
    let ds := bfs (usedNext t) (t.ls.length + 1) 0 [(d, 0)]
    match hopsTo ds u with
    | some (n + 1) =>
      (fabPorts.find? fun k => usedPort t u k && match farEnd t.ls u k with | some (v, _) => hopsTo ds v == some n | none => false).getD 0xF
    | _ => 0xF

/-- A node and those above it in the tree. -/
def pathUp (t : Topo) : Nat → Nat → List Nat
  | 0, u => [u]
  | n + 1, u =>
    match treePort t.ls t.ds u with
    | some k => match farEnd t.ls u k with | some (v, _) => u :: pathUp t n v | none => [u]
    | none => [u]

/-- The nodes of the ring. -/
def ringNodes (t : Topo) : List Nat :=
  match t.ring with
  | none => []
  | some (u, _, v, _) =>
    let a := pathUp t t.ls.length u
    let b := pathUp t t.ls.length v
    (a.filter fun x => !(b.contains x)) ++ (b.filter fun x => !(a.contains x)) ++ ((a.find? fun x => b.contains x).toList)

/-- Port of u on the ring, with the far node. -/
def ringPorts (t : Topo) (u : Nat) : List (Nat × Nat × Nat) :=
  (fabPorts.filter (usedPort t u)).filterMap fun k =>
    match farEnd t.ls u k with | some (v, j) => if (ringNodes t).contains v then some (k, v, j) else none | none => none

/-- The element with the lowest key. -/
def lowestBy {α : Type} (key : α → Nat) : List α → Option α
  | [] => none
  | a :: t => match lowestBy key t with | none => some a | some b => if key a ≤ key b then some a else some b

/-- The dateline link (R581): both ends with their ports. -/
def dateline (t : Topo) (ids : List (Nat × Nat)) : Option (Nat × Nat × Nat × Nat) :=
  let idOf := fun (u : Nat) => (hopsTo ids u).getD 64
  match lowestBy idOf (ringNodes t) with
  | none => none
  | some u => (lowestBy (fun (x : Nat × Nat × Nat) => idOf x.2.1) (ringPorts t u)).map fun (k, v, j) => (u, k, v, j)

/-- DATELINE mask of a node. -/
def datelineMask (t : Topo) (ids : List (Nat × Nat)) (u : Nat) : Nat :=
  match dateline t ids with
  | some (a, k, b, j) => (if a = u then 2 ^ k else 0) + (if b = u then 2 ^ j else 0)
  | none => 0

/-- SYNC_DOWN mask of a node: the ports to its children (R582). -/
def downMask (t : Topo) (u : Nat) : Nat :=
  ((fabPorts.filter fun k => match farEnd t.ls u k with
    | some (v, j) => treePort t.ls t.ds v == some j && hopsTo t.ds v == (hopsTo t.ds u).map (· + 1)
    | none => false).map fun k => 2 ^ k).sum

/-! ### Node IDs (R576, R578) -/

/-- Pass 1: enabled ASSIGN entries in ascending order, with the UIDs that earlier ones have named, skipped or not, and the IDs that they
have given: the IDs of the nodes present, and whether an entry was skipped. -/
def assignPass (s : State) (us : List Nat) : List Nat → List Nat → List Nat → List (Nat × Nat) → Bool → List (Nat × Nat) × Bool
  | [], _, _, ids, c => (ids, c)
  | a :: t, named, given, ids, c =>
    if getF s (R.FABRIC_ASSIGN_CTL_EN a) = 0 then assignPass s us t named given ids c
    else
      let u := getF s (R.FABRIC_ASSIGN_UID_LO_UID a) + getF s (R.FABRIC_ASSIGN_UID_HI_UID a) * 2 ^ 32
      let i := getF s (R.FABRIC_ASSIGN_CTL_ID a)
      if u = ownUid s || named.contains u || given.contains i then assignPass s us t (u :: named) given ids true
      else assignPass s us t (u :: named) (i :: given) (if us.contains u then ids ++ [(u, i)] else ids) c

def idFree (ids : List (Nat × Nat)) (i : Nat) : Bool := decide (1 ≤ i ∧ i < 64) && !(ids.any fun x => x.2 == i)

/-- Pass 2: previous IDs that are still free, in ascending UID order. -/
def keepPass (ls : List LinksRec) : List Nat → List (Nat × Nat) → List (Nat × Nat)
  | [], ids => ids
  | u :: t, ids =>
    match (recOf ls u).bind (·.prev) with
    | some i => keepPass ls t (if !(ids.any fun x => x.1 == u) && idFree ids i then ids ++ [(u, i)] else ids)
    | none => keepPass ls t ids

/-- Pass 3: the lowest free IDs in ascending UID order. -/
def restPass : List Nat → List (Nat × Nat) → List (Nat × Nat)
  | [], ids => ids
  | u :: t, ids =>
    if ids.any fun x => x.1 == u then restPass t ids
    else
      match (List.range' 1 63).find? (idFree ids) with
      | some i => restPass t (ids ++ [(u, i)])
      | none => restPass t ids

/-! ### Routes in force (R575, R584, R606) -/

/-- Learn the node ID of a UID. -/
def learnNode (ns : List (Nat × Nat)) (u i : Nat) : List (Nat × Nat) :=
  (ns.filter fun x => x.1 != u && x.2 != i) ++ [(u, i)]

/-- USE, DATELINE and SYNC_DIR of a port. -/
def showPort (p : Nat) : M Unit := do
  let s ← get
  let used := s.fabric.dateline.testBit p || (List.range 64).any fun d => getF s (R.FABRIC_ROUTE_PORT d) == p
  let down := s.fabric.syncDown.testBit p
  let up := s.fabric.syncUp == p
  wrF (R.FPORT_STAT_USE p) (if !fLink s p then 0 else if used || down || up then 1 else 2)
  wrF (R.FPORT_STAT_DATELINE p) (s.fabric.dateline.testBit p).toNat
  wrF (R.FPORT_STAT_SYNC_DIR p) (if up then 1 else if down then 2 else 0)

/-- A routing table takes effect: node ID, nibbles, masks, hops. -/
def applyRoutes (id : Nat) (nib : Nat → Nat) (date down up hops : Nat) (learned : List (Nat × Nat)) : M Unit := do
  wrF R.FABRIC_STAT_NODE_ID id
  wrF R.FABRIC_STAT_ID_VALID 1
  each (List.range 64) fun d => wrF (R.FABRIC_ROUTE_PORT d) (nib d)
  setFabric fun f => { f with dateline := date, syncDown := down, syncUp := up,
                              nodes := learned.foldl (fun ns x => learnNode ns x.1 x.2) f.nodes }
  wrF R.FABRIC_FF_STAT_HOPS hops
  each fabPorts showPort
  let s ← get
  wrF R.FABRIC_TOPO_STANDBY ((fabPorts.map fun p => if getF s (R.FPORT_STAT_USE p) = 2 then 2 ^ p else 0).sum)
  newRoutes

/-- Discovery is complete here. -/
def enterRun : M Unit := do
  wrF R.FABRIC_STAT_DSTATE 4
  raise pgFab 1

/-- The ROUTE payload for a node (R571). -/
def routeBytes (gen : Nat) (t : Topo) (ids : List (Nat × Nat)) (u : Nat) : List Nat :=
  let nib := fun d => match ids.find? (fun x => x.2 == d) with | some x => nibbleFor t u x.1 | none => 0xF
  [3, gen] ++ natToBytes 8 u ++ [(hopsTo ids u).getD 0] ++
    ((List.range 32).map fun i => nib (2 * i) + 16 * nib (2 * i + 1)) ++
    [datelineMask t ids u + 16 * downMask t u, (treePort t.ls t.ds u).getD 0xF, (hopsTo t.ds u).getD 0]

/-- The coordinator computes IDs and routes and floods ROUTE (R574, R576). -/
def computeRoutes : M Unit := do
  let s ← get
  let own := ownUid s
  let t := topoOf own s.fabric.links
  let others := ((t.ds.filter fun x => x.1 != own).map (·.1)).mergeSort
  let far := fun (u : Nat) => match hopsTo t.ds u with | some d => decide (15 < d) | none => true
  let us := others.filter fun u => !far u
  let (ids1, conflict) := assignPass s us (List.range 16) [] [] [] false
  let ids := (own, 0) :: restPass us (keepPass s.fabric.links us ids1)
  let overflow := us.any fun u => !(ids.any fun x => x.1 == u)
  let unreach := others.any far
  wrF R.FABRIC_TOPO_NODES ids.length
  wrF R.FABRIC_TOPO_MAX_HOPS ((ids.map fun x => (hopsTo t.ds x.1).getD 0).foldl max 0)
  wrF R.FABRIC_TOPO_UNREACH unreach.toNat
  wrF R.FABRIC_TOPO_OVERFLOW overflow.toNat
  wrF R.FABRIC_TOPO_ASSIGN_CONFLICT conflict.toNat
  onlyIf (conflict || overflow || unreach) (raise pgFab 4)
  let targets := (ids.map (·.1)).filter (· != own)
  wrF R.FABRIC_STAT_DSTATE 3
  setFabric fun f => { f with stateAt := s.now, owed := targets }
  applyRoutes 0 (fun d => match ids.find? (fun x => x.2 == d) with | some x => nibbleFor t own x.1 | none => 0xF)
    (datelineMask t ids own) (downMask t own) 0xF 0 ids
  each targets fun u => each (upPorts s) fun p => sendDisc p ((hopsTo ids u).getD 0) (routeBytes (fabGen s) t ids u)
  onlyIf (targets == []) enterRun

/-- The coordinator leaves REPORT when every report is in. -/
def checkLinks : M Unit := do
  let s ← get
  onlyIf (dstate s == 2 && isCoord s && linksComplete s.fabric.links) computeRoutes

/-- ELECT_STABLE (R574). -/
def doElectStable : M Unit := do
  let s ← get
  if dstate s == 1 && decide (s.fabric.stableAt + 200000 ≤ s.now) then
    let me := s.fabric.dist == 0
    let old := getF s R.FABRIC_COORD_UID_LO_UID + getF s R.FABRIC_COORD_UID_HI_UID * 2 ^ 32
    wrF R.FABRIC_STAT_DSTATE 2
    wrF R.FABRIC_STAT_COORD me.toNat
    wrF R.FABRIC_COORD_UID_LO_UID s.fabric.cand
    wrF R.FABRIC_COORD_UID_HI_UID (s.fabric.cand / 2 ^ 32)
    onlyIf (old != s.fabric.cand) (raise pgFab 2)
    setFabric fun f => { f with stateAt := s.now }
    if me then
      setFabric fun f => { f with links := ownLinks s :: f.links.filter fun l => l.uid != ownUid s }
      checkLinks
    else if s.fabric.parent < 4 then sendDisc s.fabric.parent 0 (linksBytes (fabGen s) (ownLinks s))

def execElectStable (s : State) : Host.Outcome State Fault Refusal := finish doElectStable s

/-- Pass a DISC frame on toward the coordinator. -/
def toParent (p : Nat) (f : Frame) : M Unit := do
  let s ← get
  if f.hops.val = 15 then
    incF (R.FPORT_DROP_HOPS_CNT_CNT p)
    raise (pgFport p) 3
  else if s.fabric.parent < 4 then fSend s.fabric.parent { f with hops := f.hops + 1 }

/-- LINKS. -/
def doLinks (p : Nat) (f : Frame) : M Unit := do
  if ← takeDisc p 2 f then
    let s ← get
    if pfield f 1 1 = fabGen s then
      if s.fabric.dist = 0 then
        if dstate s ≤ 2 then
          let l := readLinks f
          setFabric fun f => { f with links := (f.links.filter fun m => m.uid != l.uid) ++ [l] }
          checkLinks
      else toParent p f

def execLinks (p : Fin 4) (f : Frame) (s : State) : Host.Outcome State Fault Refusal := finish (doLinks p.val f) s

def execReportTimeout (s : State) : Host.Outcome State Fault Refusal :=
  finish (onlyIf (dstate s == 2 && isCoord s && decide (s.fabric.stateAt + 500000 ≤ s.now)) computeRoutes) s

/-- A ROUTE that names another node: its ID is learned, at once in force in RUN (R606). -/
def learnRoute (u i : Nat) : M Unit := do
  let s ← get
  if dstate s = 4 then
    if !(s.fabric.nodes.any fun x => x.1 == u && x.2 == i) then
      setFabric fun f => { f with nodes := learnNode f.nodes u i }
      each entries fun e => do
        let s ← get
        if stnUid s e == u then
          wrF (R.STATION_STATUS_NODE e) i
          startBind e
  else setFabric fun f => { f with nodesNext := learnNode f.nodesNext u i }

/-- ROUTE: forwarded from the parent port once, applied when it names this node (R575). -/
def doRoute (p : Nat) (f : Frame) : M Unit := do
  if ← takeDisc p 3 f then
    let s ← get
    let g := pfield f 1 1
    let u := pfield f 2 8
    if g = fabGen s && !isCoord s then
      if p = s.fabric.parent && !(s.fabric.seen.contains (g, u)) then
        setFabric fun fb => { fb with seen := fb.seen ++ [(g, u)] }
        if f.hops.val = 15 then
          onlyIf (u != ownUid s) (do incF (R.FPORT_DROP_HOPS_CNT_CNT p); raise (pgFport p) 3)
        else each ((upPorts s).filter (· != p)) fun q => fSend q { f with hops := f.hops + 1 }
      if u = ownUid s then
        if 1 ≤ dstate s ∧ dstate s ≤ 3 then
          let b := pfield f 43 1
          applyRoutes (pfield f 10 1 % 64) (fun d => pfield f (11 + d / 2) 1 / 16 ^ (d % 2) % 16) (b % 16) (b / 16)
            (pfield f 44 1) (pfield f 45 1 % 16) (learnNode s.fabric.nodesNext u (pfield f 10 1 % 64))
          setFabric fun fb => { fb with nodesNext := [] }
          enterRun
          let s ← get
          onlyIf (decide (s.fabric.parent < 4)) (sendDisc s.fabric.parent 0 ([4, fabGen s] ++ natToBytes 8 (ownUid s)))
      else learnRoute u (pfield f 10 1 % 64)

def execRoute (p : Fin 4) (f : Frame) (s : State) : Host.Outcome State Fault Refusal := finish (doRoute p.val f) s

/-- ROUTE_ACK. -/
def doRouteAck (p : Nat) (f : Frame) : M Unit := do
  if ← takeDisc p 4 f then
    let s ← get
    if pfield f 1 1 = fabGen s then
      if isCoord s then
        let u := pfield f 2 8
        setFabric fun fb => { fb with owed := fb.owed.filter (· != u) }
        let s ← get
        onlyIf (dstate s == 3 && s.fabric.owed == []) enterRun
      else toParent p f

def execRouteAck (p : Fin 4) (f : Frame) (s : State) : Host.Outcome State Fault Refusal := finish (doRouteAck p.val f) s

def execRouteTimeout (s : State) : Host.Outcome State Fault Refusal :=
  finish (onlyIf (dstate s == 3 && isCoord s && decide (s.fabric.stateAt + 500000 ≤ s.now)) enterRun) s

/-! ### Link delay (R587) -/

/-- ECHO: answered with the turnaround. -/
def doFabricEcho (p : Nat) (f : Frame) (turn : Nat) : M Unit := do
  if ← takeDisc p 5 f then
    sendDisc p 0 ([6, fabGen (← get), pfield f 2 1] ++ natToBytes 4 turn)

def execFabricEcho (p : Fin 4) (f : Frame) (turn : BitVec 32) (s : State) : Host.Outcome State Fault Refusal :=
  finish (doFabricEcho p.val f turn.toNat) s

/-- ECHO_RSP: one result R - TA; DELAY is half the mean of the last 16, rounded up. How a delay beyond 16 bits shows is left
open (log 19). -/
def doFabricEchoRsp (p : Nat) (f : Frame) (rtt : Nat) : M Unit := do
  if ← takeDisc p 6 f then
    let s ← get
    if pfield f 2 1 = (fportOf s p).echoNo then
      setFport p fun fp => { fp with delays := (fp.delays ++ [rtt - pfield f 3 4]).drop ((fp.delays.length + 1) - 16) }
      let ds := (fportOf (← get) p).delays
      let n := 2 * ds.length
      let d := (ds.sum + n - 1) / n
      if d < 65536 then wrF (R.FPORT_DELAY_NS p) d
      else
        let w ← drawWord
        wrF (R.FPORT_DELAY_NS p) w.toNat

def execFabricEchoRsp (p : Fin 4) (f : Frame) (rtt : BitVec 32) (s : State) : Host.Outcome State Fault Refusal :=
  finish (doFabricEchoRsp p.val f rtt.toNat) s

/-- FABRIC_ECHO_SEND: 16 at link-up, then one every 1,024 ticks. -/
def doFabricEchoSend (p : Nat) : M Unit := do
  let s ← get
  let fp := fportOf s p
  if fLink s p && (decide (0 < fp.echoLeft) || decide (1024 ≤ (tickNum s + 2 ^ 32 - fp.echoTick) % 2 ^ 32)) then
    let n := (fp.echoNo + 1) % 256
    setFport p fun fp => { fp with echoNo := n, echoLeft := fp.echoLeft - 1, echoTick := tickNum s }
    sendDisc p 0 [5, fabGen s, n]

def execFabricEchoSend (p : Fin 4) (s : State) : Host.Outcome State Fault Refusal := finish (doFabricEchoSend p.val) s

/-! ### Stations -/

/-- STN_IN. -/
def execStnIn (p : Fin 4) (f : Frame) (s : State) : Host.Outcome State Fault Refusal :=
  finish (onlyIf (f.cls.val == 3) (routed p.val f (stnIn f))) s

/-- BIND_ACK: a MGMT frame of type 0x02 (R602). -/
def execBindAck (p : Fin 4) (f : Frame) (s : State) : Host.Outcome State Fault Refusal :=
  finish (onlyIf (f.cls.val == 5) (routed p.val f (onlyIf (pfield f 0 1 == 2) (bindAck f)))) s

end Sys2Proof.Machine
end

