-- ==== Sys2Proof/Machine/Lane.lean ====
section
/-! DEFINITION. The lanes: the 8b/10b code groups and the running-disparity rules that 04 R151 and 13 R557 take from IEEE
802.3 Clause 36 (the code itself is PRESUMED from that standard, log 125), and what a receiver makes of the twenty code groups of a
flit (04 R153-R157, R174; on the pair link 12 R518). -/

namespace Sys2Proof.Machine

/-- One octet of a lane: a data octet, sent as Dx.y, or a control octet, sent as Kx.y. -/
structure Octet where
  k : Bool
  byte : Nat
  deriving DecidableEq, Repr

def dataOctet (b : Nat) : Octet := ⟨false, b % 256⟩

/-- Kx.y. -/
def kOctet (x y : Nat) : Octet := ⟨true, 32 * y + x⟩

/-- K28.5, K28.0 (a SKIP unit, R154), and the delimiters /S/, /T/ and /R/ of a fabric frame (13 R559). -/
def comma : Octet := kOctet 28 5
def skipOctet : Octet := kOctet 28 0
def startOctet : Octet := kOctet 27 7
def endOctet : Octet := kOctet 29 7
def extendOctet : Octet := kOctet 23 7

/-! ### The code -/

/-- The six bits abcdei of D0 to D31 at negative running disparity. -/
def sixTable : List Nat :=
  [0b100111, 0b011101, 0b101101, 0b110001, 0b110101, 0b101001, 0b011001, 0b111000,
   0b111001, 0b100101, 0b010101, 0b110100, 0b001101, 0b101100, 0b011100, 0b010111] ++
  [0b011011, 0b100011, 0b010011, 0b110010, 0b001011, 0b101010, 0b011010, 0b111010,
   0b110011, 0b100110, 0b010110, 0b110110, 0b001110, 0b101110, 0b011110, 0b101011]

/-- The four bits fghj of y at negative running disparity, for a data octet and for a control octet. -/
def fourTable : List Nat := [0b1011, 0b1001, 0b0101, 0b1100, 0b1101, 0b1010, 0b0110, 0b1110]
def fourTableK : List Nat := [0b1011, 0b0110, 0b1010, 0b1100, 0b1101, 0b0101, 0b1001, 0b0111]

/-- The ones among the low `n` bits. -/
def onesOf (x : Nat) : Nat → Nat
  | 0 => 0
  | n + 1 => (x.testBit n).toNat + onesOf x n

/-- Disparity after a sub-block of `n` bits: it turns when the sub-block has more ones than zeros, or fewer. -/
def rdAfter (rd : Bool) (x n : Nat) : Bool := rd != (2 * onesOf x n != n)

/-- abcdei of an octet at a running disparity (`true` positive). -/
def sixBits (rd : Bool) (o : Octet) : Nat :=
  let x := o.byte % 32
  let v := if o.k && x == 28 then 0b001111 else sixTable.getD x 0
  if rd && (2 * onesOf v 6 != 6 || x == 7) then 63 - v else v

/-- fghj of an octet at the running disparity after its first six bits; D.x.A7 replaces D.x.7 where five equal bits would follow one
another. -/
def fourBits (rd : Bool) (o : Octet) : Nat :=
  let x := o.byte % 32
  let y := o.byte / 32
  if o.k then (if rd then 15 - fourTableK.getD y 0 else fourTableK.getD y 0)
  else
    let v := if y == 7 && ((!rd && [17, 18, 20].contains x) || (rd && [11, 13, 14].contains x)) then 0b0111 else fourTable.getD y 0
    if rd && (2 * onesOf v 4 != 4 || y == 3) then 15 - v else v

/-- The code group of an octet, bit 9 (a) sent first, and the running disparity after it. -/
def codeGroup (rd : Bool) (o : Octet) : BitVec 10 × Bool :=
  let six := sixBits rd o
  let mid := rdAfter rd six 6
  let four := fourBits mid o
  (BitVec.ofNat 10 (16 * six + four), rdAfter mid four 4)

/-- The octets that have a code group: the 256 data octets and K28.0-K28.7, K23.7, K27.7, K29.7, K30.7. -/
def octets : List Octet :=
  (List.range 256).map dataOctet ++ ((List.range 8).map (kOctet 28) ++ [23, 27, 29, 30].map fun x => kOctet x 7)

/-- The octet of a received code group and the disparity after it; none for an invalid code group and for one that breaks the running
disparity (R155). -/
def decodeGroup (rd : Bool) (g : BitVec 10) : Option (Octet × Bool) :=
  (octets.find? fun o => (codeGroup rd o).1 == g).map fun o => (o, (codeGroup rd o).2)

/-- Octets sent in order on one lane: their code groups and the running disparity after them. -/
def codeLane : Bool → List Octet → List (BitVec 10) × Bool
  | rd, [] => ([], rd)
  | rd, o :: t =>
    let (g, rd') := codeGroup rd o
    let (gs, rd'') := codeLane rd' t
    (g :: gs, rd'')

/-! ### Flits as octets -/

/-- The twenty octets of a flit: its eighteen bytes and the CRC, high byte first (R156, R157). -/
def withCrc (bs : List Octet) : List Octet :=
  let c := crc16 (bs.map (·.byte))
  bs ++ [dataOctet (c / 256), dataOctet c]

/-- A sequenced or control flit on the lane: twenty data code groups (R152, R153). -/
def flitOctets (hdr payload : Nat) : List Octet :=
  withCrc ((natToBytes 2 hdr ++ natToBytes 16 payload).map dataOctet)

/-- A training flit: its first `n` bytes are K28.5 and its other header bits 0 (R174, R525). -/
def trainingOctets (n payload : Nat) : List Octet :=
  withCrc (List.replicate n comma ++ (((natToBytes 2 0 ++ natToBytes 16 payload).drop n).map dataOctet))

/-- A SKIP unit: twenty K28.0, with no SEQ and no CRC (R154). -/
def skipOctets : List Octet := List.replicate 20 skipOctet

/-- Lane `k` of four: byte i of a flit travels on lane i mod 4 (12 R518). -/
def laneShare (k : Nat) (os : List Octet) : List Octet :=
  (List.range 5).map fun j => os.getD (4 * j + k) comma

/-! ### What a receiver makes of a flit (R155) -/

/-- A flit as received: bad, a SKIP unit, a training flit, or its eighteen bytes under a good CRC. -/
inductive Received where
  | bad
  | skip
  | training (bytes : List Nat)
  | good (bytes : List Nat)
  deriving DecidableEq, Repr

/-- The octets of received code groups; group i arrives on lane i mod `n`, whose running disparity is bit (i mod n) of `rd`. -/
def decodeGroups (n : Nat) : Nat → Nat → List (BitVec 10) → Option (List Octet)
  | _, _, [] => some []
  | i, rd, g :: t =>
    match decodeGroup (rd.testBit (i % n)) g with
    | none => none
    | some (o, b) =>
      let rd' := if b == rd.testBit (i % n) then rd else Nat.xor rd (2 ^ (i % n))
      (decodeGroups n (i + 1) rd' t).map (o :: ·)

/-- A flit whose octets are good code groups: a K code group stands only in a SKIP unit and at the head of a training flit, where the
lane (`n` = 1) or each of the four lanes has its K28.5; the CRC is that of the first eighteen bytes. -/
def readOctets (n : Nat) (os : List Octet) : Received :=
  let bs := os.map (·.byte)
  let head := os.takeWhile (· == comma)
  if os.all (· == skipOctet) then .skip
  else if crc16 (bs.take 18) != bs.getD 18 0 * 256 + bs.getD 19 0 then .bad
  else if os.all (fun o => !o.k) then .good (bs.take 18)
  else if (head.length == 1 || head.length == n) && (os.drop head.length).all (fun o => !o.k) then .training (bs.take 18)
  else .bad

/-- A flit of twenty code groups on a link of `n` lanes. -/
def readFlit (n rd : Nat) (gs : List (BitVec 10)) : Received :=
  if gs.length != 20 then .bad
  else match decodeGroups n 0 rd gs with
    | none => .bad
    | some os => readOctets n os

/-- The header of eighteen received bytes, and its payload (R156, R158). -/
def headerOf (bs : List Nat) : Nat := bytesToNat (bs.take 2)
def rxFt (bs : List Nat) : Nat := headerOf bs / 2 ^ 14 % 4
def rxVc (bs : List Nat) : Nat := headerOf bs / 2 ^ 11 % 8
def rxSeq (bs : List Nat) : Nat := headerOf bs / 8 % 256
def rxByte (bs : List Nat) (i : Nat) : Nat := bs.getD (2 + i) 0

end Sys2Proof.Machine
end

