-- ==== Sys2Proof/Machine/Link.lean ====
section
/-! DEFINITION. The link layer of the agent ports and of the pair link (04 R170-R187, 12 R517-R528): acknowledgement,
credits, NAK and replay, training, retrain. -/

namespace Sys2Proof.Machine

/-! ### Acknowledgement and credits -/

/-- Flits of a replay buffer up to and including SEQ `ack`; none when it holds no such flit. -/
def ackedCount (ack : Nat) : List Flit → Nat → Nat
  | [], _ => 0
  | f :: t, n => if f.seq = ack then n + 1 else ackedCount ack t (n + 1)

/-- Credits returned by freed-buffer counters: the difference to the last counters used (R166). -/
def takeFreed (l : Link) (freed : List Nat) : Link :=
  (List.range freed.length).foldl (fun l c =>
    let n := freed.getD c 0
    let old := kvGet (fun _ => 0) l.peerFreed c
    { l with credits := kvSet (fun _ => 0) l.credits c (creditOf l c + (n + 256 - old) % 256),
             peerFreed := kvSet (fun _ => 0) l.peerFreed c n }) l

/-- A good STATUS or NAK at a link (R183): acknowledged flits are freed. -/
def takeAck (now ack : Nat) (l : Link) : Link :=
  let n := ackedCount ack l.replay 0
  { l with replay := l.replay.drop n, lastAck := if n > 0 then ack else l.lastAck,
           ackAt := if n > 0 then now else l.ackAt, goodAt := now,
           peerNaks := if n > 0 then 0 else l.peerNaks }

/-- The six counters of freed buffers that the hub reports (R166). -/
def freedCounts (l : Link) (n : Nat) : List Nat := (List.range n).map fun c => kvGet (fun _ => 0) l.rxCount c % 256

/-- Send a control flit at an agent port. -/
def sendCtl (p : Nat) (c : Ctl) : M Unit := sendFlits (.aport (Fin.ofNat 16 p)) [.ctl (.aport (Fin.ofNat 16 p)) c]

/-- Header of a training flit as the trace shows it: K28.5 as its octet 0xBC, the other header bits 0 (R174, log 125). -/
def trainingHdr : Nat := 0x00BC

/-- Send a training flit, the first of the stream of its state (log 125). -/
def sendTraining (p : Nat) (c : Ctl) : M Unit := do
  sendCtl p c
  trace p trainingHdr (match c with | .ts1 _ => 0x10 | _ => 0x11) 0 true

/-- Send STATUS or NAK: it reports every buffer freed so far. -/
def reportLink (nak : Bool) (p : Nat) : M Unit := do
  let s ← get
  let l := (portOf s p).link
  sendCtl p (if nak then .nak l.lastAcc (freedCounts l 6) else .status l.lastAcc (freedCounts l 6))
  if nak then trace p (hdrBits 1 0 0 false false) 0x02 0 true
  setPort p fun pt => { pt with link := { pt.link with rxReported := pt.link.rxCount, sentStatusAt := s.now } }

/-- Resend the replay buffer in order (R183, R185). -/
def resend (p : Nat) : M Unit := do
  let s ← get
  let l := (portOf s p).link
  if !l.replay.isEmpty then
    sendFlits (.aport (Fin.ofNat 16 p)) (l.replay.map (.flit p))
    incF (R.APORT_REPLAY_CNT_CNT p)

/-! ### Retrain (R184-R187) -/

/-- Enter RETRAIN, sending RETRAIN control flits, then TS1 (R173). -/
def startRetrain (p : Nat) : M Unit := do
  let s ← get
  if lstate s p = 4 then
    wrF (R.APORT_STAT_LSTATE p) 5
    incF (R.APORT_RETRAIN_CNT_CNT p)
    raise (pgAport p) 2
    setPort p fun pt => { pt with pausedAt := s.now, link :=
      { pt.link with since := s.now, peerNaks := 0, phase := 0, tsCount := 0, tsCaps := none } }
    sendCtl p .retrain
    trace p (hdrBits 1 0 0 false false) 0x20 0 true
    sendTraining p (.ts1 5)

/-- Leave RETRAIN: the paused snoop deadlines, HOLD schedule and tracker timers go on (R187, 07 R327), and both sides
resend from the last ACK_SEQ. The time without an advance of ACK_SEQ counts anew (log 121). -/
def endRetrain (p ack : Nat) (freed : List Nat) : M Unit := do
  let s ← get
  let d := s.now - (portOf s p).pausedAt
  wrF (R.APORT_STAT_LSTATE p) 4
  setPort p fun pt => { pt with
    link := takeFreed { takeAck s.now ack pt.link with ackAt := s.now, rejecting := false } freed,
    snoops := pt.snoops.map fun e => (e.1, e.2.map fun sn => { sn with sent := sn.sent + d }),
    tags := pt.tags.map fun e => (e.1, e.2.map fun t => { t with due := t.due + d }) }
  modify fun s => { s with trackers := s.trackers.map fun t => if t.port == p then { t with start := t.start + d } else t }
  resend p
  pump p

/-! ### Training of an agent port (R173-R180) -/

/-- May the port leave DOWN: stage RUN, EN, not held, no STANDBY, the pair joined (12 R516, R530)? -/
def mayTrain (s : State) (p : Nat) : Bool :=
  isRunning s && !inStandby s && getF s (R.APORT_CTL_EN p) == 1 && !(portOf s p).heldDown && lstate s p == 0 &&
    (if pairOn s then isJoined s else !isHub1 s)

/-- Enter ALIGN: the RSP_DL in force from now, the AGENT_ID (R180). -/
def enterAlign (p : Nat) : M Unit := do
  let s ← get
  wrF (R.APORT_STAT_LSTATE p) 1
  wrF (R.APORT_CAP_AGENT_ID p) (agentOf s p)
  setPort p fun pt => { pt with rspDl := getF s (R.APORT_RSP_DL_NS10 p), link := { Link.empty with since := s.now } }
  sendTraining p (.ts1 1)

/-- A training failure: DOWN, TRAIN_ERR, and a retry after 1 ms (R175). -/
def trainFail (p code : Nat) : M Unit := do
  let s ← get
  wrF (R.APORT_STAT_LSTATE p) 0
  wrF (R.APORT_STAT_TRAIN_ERR p) code
  raise (pgAport p) 9
  setPort p fun pt => { pt with link := { Link.empty with since := s.now, failed := true } }

/-- Is EDATA enabled for an agent with these declarations (R177)? -/
def edataOn (s : State) (p : Nat) (c : Ts2) : Bool := c.edataCap && c.ver.val == 2 && getF s (R.APORT_CTL_EDATA_EN p) == 1

/-- EDATA as the hub declares it: from the agent's declarations as last received, 0 before its first TS2; in a retrain as latched
(R177). -/
def edataBit (s : State) (p : Nat) : Nat :=
  if lstate s p = 5 then getF s (R.APORT_CAP_EDATA p)
  else match (portOf s p).link.tsCaps with | some c => (edataOn s p c).toNat | none => 0

/-- The payload of the hub's TS2 (bits 127:8): capability fields of the hub. -/
def hubTs2 (s : State) (p : Nat) : Nat :=
  2 + (!profileF s).toNat * 4 + (profileF s).toNat * 8 + edataBit s p * 16 + agentOf s p * 2 ^ 8 +
    (portOf s p).rspDl * 2 ^ 14 +
    (64 + 32 * 2 ^ 16 + 40 * 2 ^ 24 + 16 * 2 ^ 40) * 2 ^ 24

/-- Advertised credits of channel c. -/
def capCredit (c : Ts2) (i : Nat) : Nat := (c.credits.getD i 0).toNat

/-- The credits meet the minimums of R165 and are at most 127. -/
def creditsOk (c : Ts2) : Bool :=
  decide (8 ≤ capCredit c 1) && decide (10 ≤ capCredit c 3) && decide (8 ≤ capCredit c 4) && decide (2 ≤ capCredit c 5) &&
    (List.range 6).all fun i => decide (capCredit c i ≤ 127)

/-- The checks of R176: the failure code, 0 when all pass. -/
def capCheck (s : State) (c : Ts2) : Nat :=
  if c.ver.val != 1 && c.ver.val != 2 then 2
  else if !(if profileF s then c.profF else c.profE) then 3
  else if !creditsOk c then 4
  else 0

/-- The checks pass: CAP, AGENT_CRED and the credits are recorded, and the port enters CREDIT (R177, R178). -/
def enterCredit (p : Nat) (c : Ts2) : M Unit := do
  let s ← get
  wrF (R.APORT_STAT_LSTATE p) 3
  wrF (R.APORT_CAP_VER p) c.ver.val
  wrF (R.APORT_CAP_PROF_E p) c.profE.toNat
  wrF (R.APORT_CAP_PROF_F p) c.profF.toNat
  wrF (R.APORT_CAP_EDATA p) (edataOn s p c).toNat
  wrF (R.APORT_CAP_EVCLEAN p) c.evClean.toNat
  wrF (R.APORT_CAP_FWD p) c.fwd.toNat
  wrReg (pgAport p) 0x070 (BitVec.ofNat 32 (capCredit c 1 + capCredit c 4 * 2 ^ 8 + capCredit c 3 * 2 ^ 16 + capCredit c 5 * 2 ^ 24))
  setPort p fun pt => { pt with link := { Link.empty with
    since := s.now, goodAt := s.now, ackAt := s.now,
    credits := (List.range 6).foldl (fun m i => kvSet (fun _ => 0) m i (capCredit c i)) [] } }
  sendCtl p (.status 255 [0, 0, 0, 0, 0, 0])

/-- A good training flit in ALIGN: the 64th takes the port to CAP. -/
def countAlign (p : Nat) : M Unit := do
  let s ← get
  if (portOf s p).link.tsCount + 1 ≥ 64 then
    wrF (R.APORT_STAT_LSTATE p) 2
    setPort p fun pt => { pt with link := { pt.link with tsCount := 0, tsCaps := none, since := s.now } }
    sendTraining p (.ts2 (hubTs2 (← get) p))
  else setPort p fun pt => { pt with link := { pt.link with tsCount := pt.link.tsCount + 1 } }

/-- The count of identical good TS2 with this one (R173). -/
def sameTs2 (l : Link) (c : Ts2) : Nat := if l.tsCaps = some c then l.tsCount + 1 else 1

/-- A good TS2 in CAP: the 16th identical one is checked. When the agent's declarations turn EDATA on or off, the TS2 that the hub sends
says so from now. -/
def countCap (p : Nat) (c : Ts2) : M Unit := do
  let s ← get
  let n := sameTs2 (portOf s p).link c
  if n ≥ 16 then
    let e := capCheck s c
    if e = 0 then enterCredit p c else trainFail p e
  else
    setPort p fun pt => { pt with link := { pt.link with tsCount := n, tsCaps := some c } }
    let t ← get
    if edataBit t p ≠ edataBit s p then sendTraining p (.ts2 (hubTs2 t p))

/-- A good training flit in RETRAIN: after 64 of them the hub sends TS2, after 16 identical TS2 STATUS (R173). -/
def countRetrain (p : Nat) (c : Option Ts2) : M Unit := do
  let l := (portOf (← get) p).link
  match l.phase, c with
  | 0, _ =>
    if l.tsCount + 1 ≥ 64 then
      setPort p fun pt => { pt with link := { pt.link with phase := 1, tsCount := 0, tsCaps := none } }
      sendTraining p (.ts2 (hubTs2 (← get) p))
    else setPort p fun pt => { pt with link := { pt.link with tsCount := pt.link.tsCount + 1 } }
  | 1, some c =>
    setPort p fun pt => { pt with link := { pt.link with tsCount := sameTs2 pt.link c, tsCaps := some c } }
    if sameTs2 l c ≥ 16 then
      setPort p fun pt => { pt with link := { pt.link with phase := 2 } }
      reportLink false p
  | 1, none => setPort p fun pt => { pt with link := { pt.link with tsCount := 0, tsCaps := none } }
  | _, _ => pure ()

/-- A bad flit, or a TS1 among TS2, breaks the run of training flits (R173). -/
def breakRun (lk : LinkSel) : M Unit := setLink lk fun l => { l with tsCount := 0, tsCaps := none }

/-- A good STATUS takes CREDIT to ACTIVE (R173) and a RETRAIN back to ACTIVE (R185). -/
def goActive (p ack : Nat) (freed : List Nat) : M Unit := do
  let s ← get
  if lstate s p = 3 then
    wrF (R.APORT_STAT_LSTATE p) 4
    raise (pgAport p) 0
    setPort p fun pt => { pt with link := { pt.link with goodAt := s.now, ackAt := s.now } }
    pump p
  else if lstate s p = 5 then endRetrain p ack freed

/-! ### The pair link (12) -/

/-- Flits acknowledged up to SEQ `ack` on the pair link. -/
def pairAcked (ack : Nat) : List PairSent → Nat → Nat
  | [], _ => 0
  | x :: t, n => if x.last = ack then n + 1 else pairAcked ack t (n + 1)

def pairAck (ack : Nat) (freed : List Nat) : M Unit := do
  let s ← get
  let n := pairAcked ack s.pair.sent 0
  setPair fun ps => { ps with
    sent := ps.sent.drop n,
    link := takeFreed { ps.link with
      goodAt := s.now, lastAck := if n > 0 then ack else ps.link.lastAck,
      ackAt := if n > 0 then s.now else ps.link.ackAt, peerNaks := if n > 0 then 0 else ps.link.peerNaks } freed }

def sendPairCtl (c : Ctl) : M Unit := sendFlits .pair [.ctl .pair c]

def pairResend : M Unit := do
  let s ← get
  if !s.pair.sent.isEmpty then
    sendFlits .pair (s.pair.sent.map fun x => .pair ((x.last + 257 - x.flits) % 256) x.msg)
    incF R.PAIR_REPLAY_CNT_CNT

def pairReport (nak : Bool) : M Unit := do
  let s ← get
  let l := s.pair.link
  sendPairCtl (if nak then .nak l.lastAcc (freedCounts l 8) else .status l.lastAcc (freedCounts l 8))
  setPair fun ps => { ps with link := { ps.link with rxReported := ps.link.rxCount, sentStatusAt := s.now } }

/-- The state of R525 that the pair link stands in: in RETRAIN the one of its phases. -/
def pairPhase (s : State) : Nat := if pairLstate s = 7 then s.pair.link.phase else pairLstate s

/-- Go to a training state; a retrain passes through it within RETRAIN. -/
def setPairState (n : Nat) : M Unit := do
  let s ← get
  if pairLstate s = 7 && decide (1 ≤ n ∧ n ≤ 5) then
    setPair fun ps => { ps with link := { ps.link with phase := n, tsCount := 0, tsCaps := none } }
  else
    wrF R.PAIR_STAT_LSTATE n
    setPair fun ps => { ps with link := { ps.link with since := s.now, tsCount := 0, tsCaps := none } }

/-- A training failure of the pair link (R526, R527). -/
def pairTrainFail (code : Nat) : M Unit := do
  wrF R.PAIR_STAT_TRAIN_ERR code
  raise pgPair 3
  errCapFree pgPair 1
  let s ← get
  wrF R.PAIR_STAT_LSTATE 0
  setPair fun ps => { ps with link := { Link.empty with since := s.now, failed := true }, echoes := [] }

/-- Enter RETRAIN: RETRAIN control flits, then states 1 to 5 in order with the replay state kept (R525). -/
def pairRetrain : M Unit := do
  let s ← get
  if pairLstate s = 6 then
    incF R.PAIR_RETRAIN_CNT_CNT
    raise pgPair 1
    sendPairCtl .retrain
    setPairState 7
    setPairState 1
    sendPairCtl (.ts1 1)

/-- May the pair link leave DOWN? -/
def pairMayTrain (s : State) : Bool := isRunning s && pairOn s && pairLstate s == 0

/-- The checks of R526 on the partner's TS2: the failure code, 0 when all pass. -/
def pairCapCheck (s : State) (c : Ts2) : Nat :=
  if c.role == isHub1 s then 3 else if c.rev != 0x10 then 4 else if !c.en then 7 else 0

/-- The payload of this hub's TS2 on the pair link (bits 127:8): ROLE, EN, REV and the unique ID (R526). -/
def pairTs2Bits (s : State) : Nat :=
  (isHub1 s).toNat + (pairOn s).toNat * 2 + 0x10 * 2 ^ 8 + s.otp.uid.toNat * 2 ^ 56

/-- CAP passes: the partner's UID is kept and the delay is measured (R528). -/
def pairEnterDelay (c : Ts2) : M Unit := do
  wrF R.PAIR_PARTNER_UID_LO_UID c.uid.toNat
  wrF R.PAIR_PARTNER_UID_HI_UID (c.uid.toNat / 2 ^ 32)
  setPairState 4
  setPair fun ps => { ps with echoes := [] }
  if isMaster (← get) then sendFlits .pair [.pair 0 (.echo 0)]

/-- Enter CREDIT: sequence reset to 0x00, STATUS with zero counters; in a retrain STATUS as it stands. -/
def pairEnterCredit : M Unit := do
  setPairState 5
  if pairLstate (← get) = 7 then pairReport false
  else
    setPair fun ps => { ps with link := { Link.empty with
      since := ps.link.since, goodAt := ps.link.since, ackAt := ps.link.since,
      credits := (List.range 8).foldl (fun m i => kvSet (fun _ => 0) m i (pairAdvertised.getD i 0)) [] } }
    sendPairCtl (.status 255 [0, 0, 0, 0, 0, 0, 0, 0])

/-- One TS1 on the pair link: ALIGN counts 64, DESKEW 16 and takes the lanes as corrected (R517, R519); in CAP it breaks the run. -/
def pairTs1 (lanes : Nat) : M Unit := do
  let s ← get
  let n := s.pair.link.tsCount + 1
  if pairPhase s = 1 then
    if n ≥ 64 then
      setPairState 2
      sendPairCtl (.ts1 2)
    else setPair fun ps => { ps with link := { ps.link with tsCount := n } }
  else if pairPhase s = 2 then
    if n ≥ 16 then
      wrReg pgPair 0x050 (BitVec.ofNat 32 lanes)
      setPairState 3
      sendPairCtl (.ts2 (pairTs2Bits s))
    else setPair fun ps => { ps with link := { ps.link with tsCount := n } }
  else if pairPhase s = 3 then breakRun .pair

/-- One TS2 on the pair link: the 16th identical one in CAP is checked (R526); a retrain that fails a check is lost (R548). -/
def pairTs2 (c : Ts2) : M Unit := do
  let s ← get
  if pairPhase s = 3 then
    let n := sameTs2 s.pair.link c
    if n ≥ 16 then
      let e := pairCapCheck s c
      if e = 0 then pairEnterDelay c
      else if pairLstate s = 7 then pairLoss
      else pairTrainFail e
    else setPair fun ps => { ps with link := { ps.link with tsCount := n, tsCaps := some c } }

/-- The training timeout of the pair link's state, and the code it writes (R525, R526). -/
def pairTimeout (s : State) : Option (Nat × Nat) :=
  match pairLstate s with
  | 1 => some (100000, 1)
  | 2 => some (20000, 2)
  | 3 => some (50000, 6)
  | 4 => some (20000, 6)
  | 5 => some (10000, 6)
  | _ => none

def doPairTrainTimeout : M Unit := do
  let s ← get
  match pairTimeout s with
  | some (t, code) => onlyIf (decide (s.pair.link.since + t ≤ s.now)) (pairTrainFail code)
  | none => pure ()

def pairEnterAlign : M Unit := do
  setPairState 1
  setPair fun ps => { ps with link := { ps.link with failed := false } }
  sendPairCtl (.ts1 1)

def doPairTrainRetry : M Unit := do
  let s ← get
  onlyIf (pairMayTrain s && s.pair.link.failed && decide (s.pair.link.since + 1000000 ≤ s.now)) pairEnterAlign

/-- The first STATUS on a trained pair link, or after its retrain: ACTIVE. The join starts on its first time (R529). -/
def pairGoActive (ack : Nat) (freed : List Nat) : M Unit := do
  let s ← get
  if pairLstate s = 5 then
    setPairState 6
    setPair fun ps => { ps with link := { ps.link with goodAt := s.now, ackAt := s.now } }
    startJoin
    pumpPair
  else if pairLstate s = 7 then
    pairAck ack freed
    setPairState 6
    setPair fun ps => { ps with link := { ps.link with ackAt := s.now, rejecting := false } }
    pairResend
    pumpPair

/-! ### The commands -/

/-- A good STATUS flit (R172, R183). -/
def doStatus (lk : LinkSel) (ack : Nat) (freed : List Nat) : M Unit := do
  let s ← get
  match lk with
  | .aport p =>
    if portSends s p.val then
      setPort p.val fun pt => { pt with link := takeFreed (takeAck s.now ack pt.link) freed }
      pump p.val
    else goActive p.val ack freed
  | .pair =>
    if pairLstate s = 6 then
      pairAck ack freed
      pumpPair
    else pairGoActive ack freed

def doNak (lk : LinkSel) (ack : Nat) (freed : List Nat) : M Unit := do
  let s ← get
  match lk with
  | .aport p =>
    trace p.val (hdrBits 1 0 0 false false) 0x02 0 false
    if portSends s p.val then
      let l := takeAck s.now ack (portOf s p.val).link
      let n := if l.peerNakSeq = ack then l.peerNaks + 1 else 1
      setPort p.val fun pt => { pt with link := takeFreed { l with peerNaks := n, peerNakSeq := ack } freed }
      resend p.val
      if n ≥ 4 then startRetrain p.val
      pump p.val
  | .pair =>
    if pairLstate s = 6 then
      pairAck ack freed
      let l := (← get).pair.link
      let n := if l.peerNakSeq = ack then l.peerNaks + 1 else 1
      setPair fun ps => { ps with link := { ps.link with peerNaks := n, peerNakSeq := ack } }
      pairResend
      if n ≥ 4 then pairRetrain
      pumpPair

/-- What the receiver does with a sequenced flit that it does not accept (R182): the NAK is due on the first such discard,
and again after 512 ns. `window` is 64, on the pair link 128. -/
def rejects (l : Link) (now window : Nat) (crcGood : Bool) (seq : Nat) : Bool × Bool :=
  let dup := crcGood && decide ((l.lastAcc + 256 - seq) % 256 < window)
  let expected := crcGood && decide (seq = (l.lastAcc + 1) % 256)
  (!dup && !expected, !dup && !expected && (!l.rejecting || decide (l.nakAt + 512 ≤ now)))

/-- Note a good flit (R184). -/
def goodFlit (lk : LinkSel) : M Unit := do
  let now := (← get).now
  setLink lk fun l => { l with goodAt := now }

/-- The link receives flits: an agent port in ACTIVE or PROTO_ERR, the pair link in ACTIVE. -/
def linkSends (s : State) : LinkSel → Bool
  | .aport p => portSends s p.val
  | .pair => pairLstate s == 6

/-- The link trains or retrains. -/
def linkTrains (s : State) : LinkSel → Bool
  | .aport p => lstate s p.val == 1 || lstate s p.val == 2 || lstate s p.val == 5
  | .pair => decide (1 ≤ pairPhase s ∧ pairPhase s ≤ 3)

/-- A bad flit is counted (R203, 12 R552). -/
def countBad : LinkSel → M Unit
  | .aport p => do
    incF (R.APORT_CRC_ERR_CNT_CNT p.val)
    raise (pgAport p.val) 3
  | .pair => incF R.PAIR_CRC_ERR_CNT_CNT

/-- Discard a flit that is not accepted, with the NAK that is due (R182). -/
def discard (lk : LinkSel) (crcGood : Bool) (seq : Nat) : M Unit := do
  let s ← get
  let (rej, nak) := rejects (linkOf s lk) s.now (if lk = .pair then 128 else 64) crcGood seq
  if rej then setLink lk fun l => { l with rejecting := true }
  if nak then
    setLink lk fun l => { l with nakAt := s.now }
    match lk with
    | .aport p => reportLink true p.val
    | .pair => pairReport true

/-- The agent opcodes of a channel (R209). -/
def agentOpcodes : Nat → List Nat
  | 0 => [0x01, 0x02, 0x03, 0x04, 0x05, 0x06, 0x07]
  | 2 => [0x60, 0x61, 0x65, 0x66]
  | 3 => [0x07, 0x10, 0x11, 0x12, 0x13, 0x62, 0x63, 0x64]
  | 5 => [0x40, 0x41, 0x42, 0x43, 0x44, 0x45, 0x46]
  | _ => []

/-- May a message of this opcode have data flits (R209)? -/
def mayHaveData (vc op : Nat) : Bool := vc == 3 || (vc == 5 && (op == 0x41 || op == 0x42))

/-- A flit with the expected SEQ is accepted ahead of the rest of its data message (R182). -/
def acceptPart (lk : LinkSel) : M Unit := do
  let now := (← get).now
  setLink lk fun l => { l with lastAcc := (l.lastAcc + 1) % 256, part := l.part + 1, goodAt := now, rejecting := false }

/-- A flit that breaks R197 is accepted and takes its port to PROTO_ERR. -/
def acceptWrong (p vc code op : Nat) : M Unit := do
  let _ ← takeFlits p (if vc < 6 then vc else 0) 1 false
  protoErr p code op

/-- An accepted flit of an agent (R182): on a reserved FT or VC, on a channel the agent never sends, a data flit with no open message, a
reserved opcode (R197, R210); or a flit of a data message whose other flits are still to come. A message without data flits comes with
its own command. -/
def acceptFlit (p : Fin 16) (bs : List Nat) : M Unit := do
  let s ← get
  let vc := rxVc bs
  let op := rxByte bs 0
  if rxFt bs = 3 then acceptWrong p.val vc 2 op
  else if rxFt bs = 2 then
    if (linkOf s (.aport p)).part = 0 then acceptWrong p.val 3 2 0 else acceptPart (.aport p)
  else if vc = 1 ∨ vc = 4 ∨ vc ≥ 6 then acceptWrong p.val vc 2 op
  else if !(agentOpcodes vc).contains op then acceptWrong p.val vc 4 op
  else if mayHaveData vc op then acceptPart (.aport p)

/-- An accepted flit of the partner: a reserved FT is a protocol error of the pair link (12 R548). -/
def acceptPairFlit (bs : List Nat) : M Unit := if rxFt bs = 3 then pairLoss else acceptPart .pair

/-- A good sequenced flit: accepted with the expected SEQ, else discarded (R182). -/
def sequenced (lk : LinkSel) (bs : List Nat) : M Unit := do
  let s ← get
  goodFlit lk
  if rxSeq bs = ((linkOf s lk).lastAcc + 1) % 256 then
    match lk with
    | .aport p => onlyIf (receives s p.val) (acceptFlit p bs)
    | .pair => acceptPairFlit bs
  else discard lk true (rxSeq bs)

/-- RETRAIN from the other side (R184); in PROTO_ERR it is a link reset (R199). -/
def doRetrain (lk : LinkSel) : M Unit := do
  let s ← get
  match lk with
  | .aport p =>
    trace p.val (hdrBits 1 0 0 false false) 0x20 0 false
    if lstate s p.val = 6 then linkReset p.val else startRetrain p.val
  | .pair => pairRetrain

/-- A good control flit (R170, R171): STATUS, NAK and RETRAIN do what they do; a reserved CTYPE is discarded and counts as a good flit,
as do those that their own commands bring. -/
def controlFlit (lk : LinkSel) (bs : List Nat) : M Unit := do
  let freed := (List.range (if lk = .pair then 8 else 6)).map fun c => rxByte bs (2 + c)
  goodFlit lk
  match rxByte bs 0 with
  | 0x01 => doStatus lk (rxByte bs 1) freed
  | 0x02 => doNak lk (rxByte bs 1) freed
  | 0x20 => doRetrain lk
  | _ => pure ()

/-- A flit arrives as twenty code groups (R155, R182): see `execBadFlit`. -/
def doBadFlit (lk : LinkSel) (rd : Nat) (groups : List (BitVec 10)) : M Unit := do
  let s ← get
  let lanes := if lk = .pair then 4 else 1
  match readFlit lanes rd groups with
  | .bad =>
    if linkSends s lk then
      countBad lk
      discard lk false 0
    else if linkTrains s lk then
      countBad lk
      breakRun lk
  | .skip => pure ()
  | .training _ => if linkSends s lk then goodFlit lk
  | .good bs =>
    if linkSends s lk then
      if rxFt bs = 1 then controlFlit lk bs else sequenced lk bs

/-- STATUS is sent when the hub has something to report or nothing else to send (R172); in RETRAIN after TS1 and TS2 (R173). -/
def doStatusSend (lk : LinkSel) : M Unit := do
  let s ← get
  match lk with
  | .aport p =>
    onlyIf (portSends s p.val || lstate s p.val == 3 || (lstate s p.val == 5 && (portOf s p.val).link.phase == 2))
      (reportLink false p.val)
  | .pair => onlyIf (pairLstate s == 6 || pairPhase s == 5) (pairReport false)

/-- A SKIP unit (R154, 12 R520). -/
def doSkipSend (lk : LinkSel) : M Unit := do
  if linkSends (← get) lk then
    emit (.ctl lk .skip)
    setLink lk fun l => { l with sinceSkip := 0 }

/-- Signal appears on a link in DOWN: training starts, but not within 1 ms of a training failure (R173, R175). -/
def doSignalDetect (lk : LinkSel) : M Unit := do
  let s ← get
  match lk with
  | .aport p => onlyIf (mayTrain s p.val && !(portOf s p.val).link.failed) (enterAlign p.val)
  | .pair => onlyIf (pairMayTrain s && !s.pair.link.failed) pairEnterAlign

def doTs1 (lk : LinkSel) (lanes : Nat) : M Unit := do
  let s ← get
  match lk with
  | .aport p =>
    trace p.val trainingHdr 0x10 0 false
    if lstate s p.val = 1 then countAlign p.val
    else if lstate s p.val = 2 then breakRun lk
    else if lstate s p.val = 5 then countRetrain p.val none
  | .pair => pairTs1 lanes

def doTs2 (lk : LinkSel) (c : Ts2) : M Unit := do
  let s ← get
  match lk with
  | .aport p =>
    trace p.val trainingHdr 0x11 0 false
    if lstate s p.val = 1 then countAlign p.val
    else if lstate s p.val = 2 then countCap p.val c
    else if lstate s p.val = 5 then countRetrain p.val (some c)
  | .pair => pairTs2 c

/-- The timeouts of R173: ALIGN 100 µs, CAP 50 µs, CREDIT 10 µs. -/
def doTrainingTimeout (lk : LinkSel) : M Unit := do
  let s ← get
  match lk with
  | .aport p =>
    let t := s.now - (portOf s p.val).link.since
    if lstate s p.val = 1 && decide (100000 ≤ t) then trainFail p.val 1
    else if lstate s p.val = 2 && decide (50000 ≤ t) then trainFail p.val 5
    else if lstate s p.val = 3 && decide (10000 ≤ t) then trainFail p.val 5
  | .pair => doPairTrainTimeout

def doTrainingRetry (lk : LinkSel) : M Unit := do
  let s ← get
  match lk with
  | .aport p =>
    let l := (portOf s p.val).link
    onlyIf (mayTrain s p.val && l.failed && decide (l.since + 1000000 ≤ s.now)) (enterAlign p.val)
  | .pair => doPairTrainRetry

def doAckStall (lk : LinkSel) : M Unit := do
  let s ← get
  match lk with
  | .aport p =>
    let l := (portOf s p.val).link
    onlyIf (!l.replay.isEmpty && decide (l.ackAt + 2000 ≤ s.now)) (startRetrain p.val)
  | .pair => onlyIf (!s.pair.sent.isEmpty && decide (s.pair.link.ackAt + 2000 ≤ s.now)) pairRetrain

def doSilence (lk : LinkSel) : M Unit := do
  let s ← get
  match lk with
  | .aport p => onlyIf (decide ((portOf s p.val).link.goodAt + 4000 ≤ s.now)) (startRetrain p.val)
  | .pair => onlyIf (decide (s.pair.link.goodAt + 4000 ≤ s.now)) pairRetrain

def doAlignmentLoss (lk : LinkSel) : M Unit :=
  match lk with | .aport p => startRetrain p.val | .pair => pairRetrain

/-- A retrain that does not end within 20 µs: a link reset (R186), on the pair link a loss (12 R548). -/
def doRetrainTimeout (lk : LinkSel) : M Unit := do
  let s ← get
  match lk with
  | .aport p =>
    onlyIf (lstate s p.val == 5 && decide ((portOf s p.val).link.since + 20000 ≤ s.now)) (linkReset p.val)
  | .pair => onlyIf (pairLstate s == 7 && decide (s.pair.link.since + 20000 ≤ s.now)) pairLoss

end Sys2Proof.Machine
end

