-- ==== Sys2Proof/Machine/LinkCmd.lean ====
section
/-! DEFINITION. The commands of the link layer (04 R170-R187, 12 R517-R528). -/

namespace Sys2Proof.Machine

/-- A good STATUS in CREDIT: ACTIVE, and LINK_UP (R173); on the pair link the join follows (12 R529). -/
def doLinkActive (lk : LinkSel) : M Unit := do
  let s ← get
  match lk with
  | .aport p => onlyIf (lstate s p.val == 3) (goActive p.val 255 [])
  | .pair => onlyIf (pairLstate s == 5) (pairGoActive 255 [])

/-- STATUS: a good STATUS flit frees acknowledged flits and returns credits (04 R183); in CREDIT or RETRAIN it also takes the link to ACTIVE (R173, R185). -/
def execStatus (lk : LinkSel) (ack : BitVec 8) (freed : List (BitVec 8)) (s : State) : Host.Outcome State Fault Refusal :=
  finish (doStatus lk ack.toNat (freed.map (·.toNat))) s

/-- NAK: as a STATUS, then a resend; the fourth for one SEQ retrains (R183, R184). -/
def execNak (lk : LinkSel) (ack : BitVec 8) (freed : List (BitVec 8)) (s : State) : Host.Outcome State Fault Refusal :=
  finish (doNak lk ack.toNat (freed.map (·.toNat))) s

/-- BAD_FLIT: a flit as its twenty code groups arrive, with the running disparity of the receiver on each lane ahead of it. One with a
bad code group, disparity or CRC, or out of sequence, is discarded and answered with a NAK (R155, R182); one that is good and accepted
but opens or continues no message that the other commands bring does what R159, R171, R197 and R210 say of it. -/
def execBadFlit (lk : LinkSel) (rd : BitVec 4) (groups : List (BitVec 10)) (s : State) : Host.Outcome State Fault Refusal :=
  finish (doBadFlit lk rd.toNat groups) s

/-- STATUS_SEND (R172). -/
def execStatusSend (lk : LinkSel) (s : State) : Host.Outcome State Fault Refusal :=
  finish (doStatusSend lk) s

/-- SKIP_SEND (R154, 12 R520). -/
def execSkipSend (lk : LinkSel) (s : State) : Host.Outcome State Fault Refusal :=
  finish (doSkipSend lk) s

/-- SIGNAL_DETECT (R173). -/
def execSignalDetect (lk : LinkSel) (s : State) : Host.Outcome State Fault Refusal :=
  finish (doSignalDetect lk) s

/-- TS1: a good TS1 advances ALIGN (R173); on the pair link also DESKEW, with the lane skews and polarities found (12 R519). -/
def execTs1 (lk : LinkSel) (lanes : BitVec 20) (s : State) : Host.Outcome State Fault Refusal :=
  finish (doTs1 lk lanes.toNat) s

/-- TS2: a good TS2 in CAP is checked when 16 are identical (R176, 12 R526). -/
def execTs2 (lk : LinkSel) (caps : Ts2) (s : State) : Host.Outcome State Fault Refusal :=
  finish (doTs2 lk caps) s

/-- TRAINING_TIMEOUT (R175). -/
def execTrainingTimeout (lk : LinkSel) (s : State) : Host.Outcome State Fault Refusal :=
  finish (doTrainingTimeout lk) s

/-- TRAINING_RETRY: 1 ms after a training failure (R175). -/
def execTrainingRetry (lk : LinkSel) (s : State) : Host.Outcome State Fault Refusal :=
  finish (doTrainingRetry lk) s

/-- RETRAIN from the other side (R184, R185). -/
def execRetrain (lk : LinkSel) (s : State) : Host.Outcome State Fault Refusal :=
  finish (doRetrain lk) s

/-- ACK_STALL_TIMEOUT (R184). -/
def execAckStallTimeout (lk : LinkSel) (s : State) : Host.Outcome State Fault Refusal :=
  finish (doAckStall lk) s

/-- SILENCE_TIMEOUT (R184). -/
def execSilenceTimeout (lk : LinkSel) (s : State) : Host.Outcome State Fault Refusal :=
  finish (doSilence lk) s

/-- ALIGNMENT_LOSS (R184). -/
def execAlignmentLoss (lk : LinkSel) (s : State) : Host.Outcome State Fault Refusal :=
  finish (doAlignmentLoss lk) s

/-- RETRAIN_TIMEOUT: a link reset, or pair-link loss (R186, 12 R548). -/
def execRetrainTimeout (lk : LinkSel) (s : State) : Host.Outcome State Fault Refusal :=
  finish (doRetrainTimeout lk) s

/-- LINK_ACTIVE: the first good STATUS in CREDIT, whose counters are 0 (R173, R178). -/
def execLinkActive (lk : LinkSel) (s : State) : Host.Outcome State Fault Refusal :=
  finish (doLinkActive lk) s

/-- PAIR_TRAIN_TIMEOUT (12 R525-R527). -/
def execPairTrainTimeout (s : State) : Host.Outcome State Fault Refusal := finish doPairTrainTimeout s

/-- PAIR_TRAIN_RETRY: 1 ms after a failure (12 R527). -/
def execPairTrainRetry (s : State) : Host.Outcome State Fault Refusal := finish doPairTrainRetry s

end Sys2Proof.Machine
end

