-- ==== Sys2Proof/Machine/Tenant.lean ====
section
/-! DEFINITION. The tenant reset (16 R724, R725). -/

namespace Sys2Proof.Machine

/-- Remove a waiting request and answer it TENANT_RESET, after ECANX ERROR where early data is out (07 R339). -/
def refuseWaiting (r : Req) : M Unit := do
  cancelEdata r 2
  answerErr r 0x02

/-- Steps 1 and 2 of R724: RESETTING, the next epoch, and the tenant's requests leave the chains and the allocation queues. -/
def startTenantReset (t : Nat) : M Unit := do
  let s ← get
  dropLatches
  wrF (R.TENANT_STAT_RESETTING t) 1
  wrF (R.TENANT_STAT_EPOCH t) (getF s (R.TENANT_STAT_EPOCH t) + 1)
  each (s.chain.filter fun r => r.tenant == t && ofAgent r) fun r => do
    leaveChain r
    refuseWaiting r
  each (s.flows.filter fun f => f.phase == .alloc && f.req.tenant == t && ofAgent f.req) fun f => do
    dropFlow f.line
    refuseWaiting f.req

/-- Does a flow of the tenant still run at the head of its chain? A held lock is no running flow. -/
def tenantFlows (s : State) (t : Nat) : Bool := s.flows.any fun f => f.req.tenant == t && ofAgent f.req && f.phase != .locked

/-- Steps 3 to 6 of R724 once step 2 has ended. -/
def doTenantComplete (t : Nat) : M Unit := do
  let s ← get
  if getF s (R.TENANT_STAT_RESETTING t) = 1 && isRunning s && !tenantFlows s t then
    each s.locks fun e => match e.2 with | some l => onlyIf (l.tenant == t) (releaseLock e.1 l) | none => pure ()
    mboxTenantReset t
    cargoTenantReset t
    let lo := 0x500 + 0x40 * t
    let mine := fun (o : Nat) => decide (lo ≤ o) && decide (o < lo + 0x40)
    modify fun s => { s with
      live := s.live.filter fun e => !mine e.1,
      regs := s.regs.filter fun e => !(e.1 / 4096 == pgLedger && mine (e.1 % 4096)) }
    resetClass 8 (pgTenant t) 1
    wrF (R.TENANT_STAT_RESETTING t) 0
    raise (pgTenant t) 0

def execTenantResetComplete (t : Fin 32) (s : State) : Host.Outcome State Fault Refusal :=
  finish (doTenantComplete t.val) s

end Sys2Proof.Machine
end

