-- ==== Sys2Proof/Machine/Timers.lean ====
section
/-! DEFINITION. The timers of requests and snoops: EDATA_WAIT (07 R321), HOLD (04 R188-R192, 12 R541, R542), re-snoop and
dead-agent declaration (04 R194, R195), the WrBack awaited after RspIWbp (05 R239). Each command is an instant at
which the environment says that the timer may fire; before its time nothing happens (log 8). -/

namespace Sys2Proof.Machine

/-! ### Early data -/

/-- EDATA_WAIT_TIMEOUT: no verdict within WAIT of the start of EDATA: ECANX TIMEOUT (R321). The timer pauses in
RETRAIN (R327). -/
def doEdataWait (p tag : Nat) : M Unit := do
  let s ← get
  match trackerOf s p tag, tagOf (portOf s p) tag with
  | some t, some g =>
    if t.sent && !t.timedOut && portSends s p && decide (t.start + t.wait ≤ s.now) then
      modify fun s => { s with trackers := s.trackers.map fun x =>
        if x.port == p && x.tag == tag then { x with timedOut := true } else x }
      sendEcanx p tag g.tenant (agentOf s p) g.aa 1
  | _, _ => pure ()

def execEdataWaitTimeout (p : Fin 16) (tag : Fin 64) (s : State) : Host.Outcome State Fault Refusal :=
  finish (doEdataWait p.val tag.val) s

/-! ### HOLD -/

/-- End a local request at its 65th HOLD (R190): it leaves arbitration, its chain or its allocation queue; a request whose
flow runs no longer takes its answer. -/
def abandonRequest (id : Nat) : M Bool := do
  let s ← get
  match s.arb.waiting.find? fun r => r.id == id with
  | some r =>
    -- A `WrBack` that awaits its match stays in the write buffer for the snoop's sake (05 R238).
    let kept := s.arb.waiting.map fun x => bif x.id == id then { x with gone := true } else x
    let rest := s.arb.waiting.filter fun x => x.id != id
    let w := bif awaitsMatch s r then kept else rest
    modify fun s => { s with arb := { s.arb with waiting := w } }
    pure true
  | none =>
    match s.chain.find? fun r => r.id == id with
    | some r => leaveChain r; pure true
    | none =>
      match s.flows.find? fun f => f.req.id == id with
      | some f =>
        if f.phase == .alloc then dropFlow f.line
        else
          cancelEdata f.req 2
          putFlow { f with req := { f.req with gone := true, void := true }, tentative := none }
        pure true
      | none => pure false

/-- Send a `HOLD` with its count and reason (R189). -/
def sendHold (p tag : Nat) (t : TagSt) : M Unit := do
  let s ← get
  let reason := if t.remote then (if pairLstate s == 7 then 3 else t.reason) else holdReason s t.req
  setTag p tag (some { t with holds := t.holds + 1 })
  sendMsg p ⟨0x36, tag, t.tenant, agentOf s p, t.aa, t.holds + reason * 2 ^ 8, 0, []⟩

/-- The answer HOLD_LIMIT to a request that has left its chain (R190, 07 R340). -/
def holdLimit (p tag : Nat) (t : TagSt) : M Unit := do
  let s ← get
  incF (R.APORT_HOLD_LIMIT_CNT_CNT p)
  raise (pgAport p) 7
  match trackerOf s p tag with
  | some tr =>
    dropTracker p tag
    if !tr.timedOut then sendEcanx p tag t.tenant (agentOf s p) t.aa 2
  | none => pure ()
  sendMsg p ⟨0x37, tag, t.tenant, agentOf s p, t.aa, 0x10, 0, []⟩

/-- HOLD_DUE: the next `HOLD` of a waiting request is due (R188), or its 65th instant is reached (R190, 12 R542). A halt
has stopped every flow and discarded every chain: while halted no request waits (15 R677, R678). -/
def doHoldDue (p tag : Nat) : M Unit := do
  let s ← get
  match tagOf (portOf s p) tag with
  | none => pure ()
  | some t =>
    let queued := (portOf s p).txq.any fun m => m.op == 0x36 && m.tag == tag
    if !portSends s p || isHalted s || queued || decide (s.now < t.due) then pure ()
    else if t.holds < 64 then sendHold p tag t
    else if t.remote then
      -- ABANDON is sent once: the next instant lies an H ahead.
      if t.holds = 64 then
        incF R.PAIR_ABANDON_CNT_CNT
        setTag p tag (some { t with holds := 65 })
        toPartner (.abandon (agentOf s p) tag)
    else
      if ← abandonRequest t.req then holdLimit p tag t

def execHoldDue (p : Fin 16) (tag : Fin 64) (s : State) : Host.Outcome State Fault Refusal :=
  finish (doHoldDue p.val tag.val) s

/-! ### Snoops -/

/-- The deadline of a snoop: the SNP_DL in force at its issue, or 4 × SNP_DL for SnpFlushSet (08 R370). -/
def deadlineOf (sn : Snoop) : Nat := if sn.kind == .snpFlushSet then 4 * sn.dl else sn.dl

/-- RESNOOP_TIMEOUT: no response within the deadline (R194). -/
def doResnoop (p sid : Nat) : M Unit := do
  let s ← get
  match snoopOf (portOf s p) sid with
  | some sn =>
    if portSends s p && !sn.resnooped && !sn.wbp && decide (sn.sent + deadlineOf sn ≤ s.now) then
      let sn' := { sn with resnooped := true, sent := s.now }
      setSnoop p sid (some sn')
      incF (R.APORT_RESNOOP_CNT_CNT p)
      raise (pgAport p) 5
      sendMsg p (snoopMsg s p sid sn')
  | none => pure ()

def execResnoopTimeout (p : Fin 16) (sid : Fin 64) (s : State) : Host.Outcome State Fault Refusal :=
  finish (doResnoop p.val sid.val) s

/-- Declare the agent of a port dead for a missing answer (R195). -/
def deadByTimer (p : Nat) : M Unit := do
  let s ← get
  raise (pgAport p) 6
  declareDead (agentOf s p) true

/-- SNOOP_DEAD_TIMEOUT: no response to the re-snoop within a further deadline (R195). -/
def doSnoopDead (p sid : Nat) : M Unit := do
  let s ← get
  match snoopOf (portOf s p) sid with
  | some sn =>
    onlyIf (portSends s p && !sn.wbp && !isDead s (agentOf s p) && sn.resnooped &&
      decide (sn.sent + deadlineOf sn ≤ s.now)) (deadByTimer p)
  | none => pure ()

def execSnoopDeadTimeout (p : Fin 16) (sid : Fin 64) (s : State) : Host.Outcome State Fault Refusal :=
  finish (doSnoopDead p.val sid.val) s

/-- WR_BACK_MATCH_TIMEOUT: no WrBack within SNP_DL of RspIWbp (05 R239). -/
def doWrBackMatch (p sid : Nat) : M Unit := do
  let s ← get
  match snoopOf (portOf s p) sid with
  | some sn => onlyIf (portSends s p && sn.wbp && !isDead s (agentOf s p) && decide (sn.sent + sn.dl ≤ s.now)) (deadByTimer p)
  | none => pure ()

def execWrBackMatchTimeout (p : Fin 16) (sid : Fin 64) (s : State) : Host.Outcome State Fault Refusal :=
  finish (doWrBackMatch p.val sid.val) s

end Sys2Proof.Machine
end

