-- ==== Sys2Proof/Machine/PairCmd.lean ====
section
/-! DEFINITION. The commands of the pair (12 R528-R545) beside its link layer and the tick: delay measurement, join, mirrored
configuration, abandoned requests, failures reported on DOM, snoops and answers that cross the pair link; and the
timed commands of failure containment (15 R679, R684, R685, R712). -/

namespace Sys2Proof.Machine

/-! ### DELAY (R528) -/

/-- The pair link is in DELAY, or passes through it in a retrain. -/
def inDelay (s : State) : Bool := pairPhase s == 4

/-- ECHO: hub 1 answers; after the sixteenth it goes on to CREDIT. -/
def doEcho (n : Nat) : M Unit := do
  let s ← get
  if isHub1 s && pairOn s && inDelay s then
    sendFlits .pair [.pair 0 (.echoRsp n)]
    onlyIf (n == 15) pairEnterCredit

def execEcho (n : Fin 16) (s : State) : Host.Outcome State Fault Refusal := finish (doEcho n.val) s

/-- The register of TICK.PAIR_DLY. -/
def pairDlyKey : Nat := regKey pgTick 0x088

/-- Sixteen round trips: their mean one-way delay, rounded up (R528). Above 1,000 ns the training fails, or a retrain
is lost. -/
def delayMeasured (rs : List Nat) : M Unit := do
  let s ← get
  let d := ((rs.map (· - 40)).sum + 31) / 32
  setPair fun ps => { ps with echoes := [] }
  if d > 1000 then
    if pairLstate s = 4 then pairTrainFail 5 else pairLoss
  else
    wrF R.TICK_PAIR_DLY_NS d
    pairEnterCredit
    sendPair (.mirror pairDlyKey (BitVec.ofNat 32 d))

/-- ECHO_RSP: one round trip measured; the next ECHO goes out. -/
def doEchoRsp (rtt : Nat) : M Unit := do
  let s ← get
  if isMaster s && pairOn s && inDelay s then
    let rs := s.pair.echoes ++ [rtt]
    if rs.length < 16 then
      setPair fun ps => { ps with echoes := rs }
      sendFlits .pair [.pair 0 (.echo rs.length)]
    else delayMeasured rs

def execEchoRsp (rtt : BitVec 16) (s : State) : Host.Outcome State Fault Refusal := finish (doEchoRsp rtt.toNat) s

/-! ### Join (R529-R531) -/

/-- JOIN on hub 1: PAIRED and JOINED are set, JOINED answered; its RUN may start the tick (R878). -/
def doJoin : M Unit := do
  let s ← get
  if isMirror s && !isJoined s && !isLost s then
    wrF R.REGION_HA_MAP_PAIRED 1
    wrF R.PAIR_STAT_JOINED 1
    raise pgPair 0
    sendPair .joined
    startIfRun

def execJoin (s : State) : Host.Outcome State Fault Refusal := finish (fromPair 7 0 doJoin) s

/-- JOINED on the master; a held RUN takes effect (R530). -/
def doJoined : M Unit := do
  let s ← get
  if isMaster s && pairOn s && s.pair.joining && !isJoined s && !isLost s then
    wrF R.REGION_HA_MAP_PAIRED 1
    wrF R.PAIR_STAT_JOINED 1
    raise pgPair 0
    wrF R.TICK_CTL_RUN s.pair.runHeld.toNat
    setPair fun ps => { ps with joining := false, runHeld := false }
    startIfRun

def execJoined (s : State) : Host.Outcome State Fault Refusal := finish (fromPair 7 0 doJoined) s

/-- JOIN_TIMEOUT (R531). -/
def doJoinTimeout : M Unit := do
  let s ← get
  match s.pair.loadedAt with
  | some t =>
    if pairOn s && !isJoined s && !s.pair.joinTmo && decide (t + 1000000 * getF s R.PAIR_JOIN_TMO_MS ≤ s.now) then
      setPair fun ps => { ps with joinTmo := true }
      raise pgPair 5
  | none => pure ()

def execJoinTimeout (s : State) : Host.Outcome State Fault Refusal := finish doJoinTimeout s

/-! ### Mirrored configuration (R532, R533) -/

/-- The mirrored fields of a register take the values of a word. -/
def mirrorWord (old v : Word) : List FieldRow → Word
  | [] => old
  | r :: t => mirrorWord (if r.mir then withField old r.lo r.w (fieldOf v r.lo r.w) else old) v t

/-- Is a register TENANTt.CTL, whose record also carries a tenant reset (03 R136)? -/
def isTenantCtl (page off : Nat) : Bool := decide (0x40 ≤ page ∧ page < 0x60) && off == 0x040

/-- Apply a record on hub 1: the mirrored fields, for REGION.CTL the action that the master took, for TENANTt.CTL its RESET. -/
def mirrorApply (key : Nat) (v : Word) : M Unit := do
  let s ← get
  let page := key / 4096
  let off := key % 4096
  if key = regionCtlKey then mirrorRegionCtl v.toNat
  else
    modify fun _ => { s with regs := setReg s.regs key (mirrorWord (getReg s.regs key) v (rowsAt page off)) }
    onlyIf (isTenantCtl page off && v.getLsbD 8) (startTenantReset (page - 0x40))

/-- MIRROR_RECORD; the measured delay comes the same way and is no mirrored field (R528). -/
def doMirrorRecord (ca : Nat) (v : Word) : M Unit := do
  let s ← get
  if isMirror s && !isLost s then
    let key := regKey (ca / 4096) (ca % 4096)
    if key = pairDlyKey then wrF R.TICK_PAIR_DLY_NS v.toNat
    else
      mirrorApply key v
      sendPair .mirrorAck
      onlyIf (isJoined s && (key == regionCtlKey || phaseKeys.contains key))
        (setPair fun ps => { ps with acked := ps.acked ++ [(key, s.now)] })

def execMirrorRecord (ca : BitVec 20) (v : Word) (s : State) : Host.Outcome State Fault Refusal :=
  finish (fromPair 7 0 (doMirrorRecord ca.toNat v)) s

/-- MIRROR_ACK: the oldest record is acknowledged. -/
def doMirrorAck : M Unit := do
  setPair fun ps => { ps with mirrorQ := ps.mirrorQ.drop 1 }
  showMirrorPend

def execMirrorAck (s : State) : Host.Outcome State Fault Refusal := finish (fromPair 7 0 doMirrorAck) s

/-! ### Forwarded requests (R541, R542) -/

/-- HOLD_REASON_REPORT at the requester's hub. -/
def doHoldReason (p tag reason : Nat) : M Unit := do
  match tagOf (portOf (← get) p) tag with
  | some t => onlyIf t.remote (setTag p tag (some { t with reason := reason }))
  | none => pure ()

def execHoldReasonReport (p : Fin 16) (tag : Fin 64) (reason : Fin 8) (s : State) : Host.Outcome State Fault Refusal :=
  finish (fromPair 7 0 (doHoldReason p.val tag.val reason.val)) s

/-- The request of an agent of the partner under a tag that still waits or runs here. -/
def forwardedReq (s : State) (agent tag : Nat) : Option Req :=
  (s.arb.waiting ++ s.chain ++ s.flows.map (·.req)).find? fun r => r.src == .pair agent && r.tag == tag && !r.gone

/-- ABANDON at the home hub: as at the 65th HOLD of an own request (04 R190). -/
def doAbandon (agent tag : Nat) : M Unit := do
  match forwardedReq (← get) agent tag with
  | some r =>
    if ← abandonRequest r.id then toPartner (.removed agent tag) else toPartner (.ended agent tag)
  | none => toPartner (.ended agent tag)

def execAbandon (agent : Fin 32) (tag : Fin 64) (s : State) : Host.Outcome State Fault Refusal :=
  finish (fromPair 7 0 (doAbandon agent.val tag.val)) s

/-- REMOVED: the agent is answered HOLD_LIMIT. -/
def doRemoved (p tag : Nat) : M Unit := do
  match tagOf (portOf (← get) p) tag with
  | some t => onlyIf t.remote (holdLimit p tag t)
  | none => pure ()

def execRemoved (p : Fin 16) (tag : Fin 64) (s : State) : Host.Outcome State Fault Refusal :=
  finish (fromPair 7 0 (doRemoved p.val tag.val)) s

/-- ENDED: the completion is on its way, or was delivered, and no HOLD_LIMIT is sent. -/
def execEnded (_p : Fin 16) (_tag : Fin 64) (s : State) : Host.Outcome State Fault Refusal :=
  finish (fromPair 7 0 (pure ())) s

/-! ### Failures reported on DOM (15) -/

/-- DEAD_AGENT_REPORT (15 R674, R676). -/
def execDeadAgentReport (agent : Fin 32) (s : State) : Host.Outcome State Fault Refusal :=
  finish (fromPair 7 0 (declareDead agent.val false)) s

/-- DEAD_CLEAR_REPORT (15 R685): the partner has swept those agents; ports clear on both hubs may train. -/
def doDeadClear (ids : Nat) : M Unit := do
  modify fun s => { s with partnerDead := Nat.land s.partnerDead (2 ^ 32 - 1 - ids) }
  releasePorts ids

def execDeadClearReport (ids : Word) (s : State) : Host.Outcome State Fault Refusal :=
  finish (fromPair 7 0 (doDeadClear ids.toNat)) s

/-- HALT_ORDER (15 R677). -/
def execHaltOrder (cause : Fin 16) (s : State) : Host.Outcome State Fault Refusal :=
  finish (fromPair 7 0 (haltHub cause.val)) s

/-- DOORBELL_SET_RECORD (14 R639). -/
def execDoorbellSetRecord (t bit : Fin 32) (s : State) : Host.Outcome State Fault Refusal :=
  finish (fromPair 5 0 (setDoorbell t.val bit.val)) s

/-! ### Snoops and answers that cross (R540, R543) -/

/-- REMOTE_SNOOP: a snoop for an agent of this hub. A dead agent is answered for at once (15 R683); a port that is not
up, or whose windows do not reach the line, answers RspI (log 10). -/
def doRemoteSnoop (p : Nat) (kind : SnpKind) (noData : Bool) (ha set : Nat) : M Unit := do
  let s ← get
  if hasPartner s then
    let reach := kind == .snpFlushSet || (transHa s p (ha / 64 * 64)).isSome
    if !isDead s (agentOf s p) && portUp s p && reach then
      issueSnoop p ⟨kind, if kind = .snpFlushSet then 0 else ha / 64, noData, 0, 0, 0, false, false, true, set⟩
    else toPartner (.response (agentOf s p) 0x60 (if kind = .snpFlushSet then set else ha / 64 * 64) [])

def execRemoteSnoop (p : Fin 16) (kind : SnpKind) (noData : Bool) (ha : BitVec 30) (set : Fin 32768) (s : State) :
    Host.Outcome State Fault Refusal :=
  finish (fromPair 1 0 (doRemoteSnoop p.val kind noData ha.toNat set.val)) s

/-- The completion that a confirmed read of a port ends with: its opcode as on the home hub (05 R232). -/
def remoteCmp (s : State) (p : Nat) (t : TagSt) : Nat :=
  if t.op = 0x02 then 0x31
  else if profileF s && (fvRegion s t.line).isNone && capFwd s p then 0x33
  else 0x30

/-- EDATA from the home hub: the tracker entry is here, and passes it on where R315 lets the port have it (07 R318). -/
def remoteEdata (p tag : Nat) (t : TagSt) (d : LineData) : M Unit := do
  let s ← get
  let ok := edataPortOk s p
  modify fun s => { s with trackers := s.trackers ++
    [⟨p, tag, false, s.now, 10 * getF s R.GLOBAL_EDATA_CTL_WAIT, d, !ok, remoteCmp s p t, !ok⟩] }
  if ok then
    setPort p fun pt => { pt with creditPinned := pt.creditPinned + 1 }
    incF R.GLOBAL_EDATA_SENT_CNT_CNT
    sendMsg p ⟨0x3A, tag, t.tenant, agentOf s p, t.aa, 0, 0, d⟩
  else incF R.GLOBAL_EDATA_WITHHELD_CNT_CNT

/-- The verdict of the home hub at the tracker (07 R319-R321). -/
def remoteVerdict (p tag : Nat) (t : TagSt) (confirm : Bool) (reason : Nat) : M Unit := do
  let s ← get
  match trackerOf s p tag with
  | none => pure ()
  | some tr =>
    dropTracker p tag
    if confirm then
      if tr.timedOut then sendMsg p ⟨tr.cmp, tag, t.tenant, agentOf s p, t.aa, 0, 0, tr.line⟩
      else
        incF R.GLOBAL_ECONF_CNT_CNT
        sendMsg p ⟨0x3B, tag, t.tenant, agentOf s p, t.aa, 0, 0, []⟩
    else onlyIf (!tr.timedOut) (sendEcanx p tag t.tenant (agentOf s p) t.aa reason)

/-- FORWARDED_ANSWER: what the home hub answers to a forwarded request goes to its port. -/
def doForwarded (p tag : Nat) (a : FwdAns) : M Unit := do
  let s ← get
  match tagOf (portOf s p) tag with
  | none => pure ()
  | some t =>
    if t.remote && hasPartner s then
      match a with
      | .completion op spec fs => sendMsg p ⟨op.toNat, tag, t.tenant, agentOf s p, t.aa, spec.toNat, 0, quadsOf fs⟩
      | .edata fs => remoteEdata p tag t (quadsOf fs)
      | .verdict c r => remoteVerdict p tag t c r.val
      | .refused op =>
        setTag p tag none
        protoErr p 7 op.toNat

/-- The channel of an answer, and its data flits (R521). -/
def fwdChan : FwdAns → Nat × Nat
  | .completion op _ fs =>
    (if 0x48 ≤ op.toNat ∧ op.toNat ≤ 0x4B then 5 else if fs.isEmpty then 4 else 3, fs.length)
  | .edata fs => (3, fs.length)
  | .verdict _ _ => (4, 0)
  | .refused _ => (4, 0)

def execForwardedAnswer (p : Fin 16) (tag : Fin 64) (a : FwdAns) (s : State) : Host.Outcome State Fault Refusal :=
  finish (fromPair (fwdChan a).1 (fwdChan a).2 (doForwarded p.val tag.val a)) s

/-! ### Failure containment (15) -/

/-- RECLAIM_SWEEP_STEP (15 R684). -/
def execReclaimSweepStep (s : State) : Host.Outcome State Fault Refusal := finish (onlyIf (isRunning s) sweepStep) s

/-- RECLAIM_SWEEP_END (15 R685). -/
def execReclaimSweepEnd (s : State) : Host.Outcome State Fault Refusal := finish (onlyIf (isRunning s) sweepEnd) s

/-- INTERNAL_PARITY_ERROR: halts the domain whatever DEAD_POL holds (15 R712). -/
def doParityError : M Unit := do
  raise pgGlobal 6
  haltDomain 3

def execInternalParityError (_store : ParityStore) (s : State) : Host.Outcome State Fault Refusal :=
  finish (onlyIf (isRunning s) doParityError) s

/-- Order a domain reset (16 R721): on the partner over DOM, here steps 1 to 4. -/
def orderDomainReset (restart : Bool) : M Unit := do
  toPartner .dreset
  domainResetSteps restart
  mboxDomainReset

/-- The restart of a halted domain (15 R679): on the master, or on a hub that is alone (R681). -/
def doRestart : M Unit := do
  let s ← get
  onlyIf (isHalted s && !s.dreset && !s.power.save && (isMaster s || isLost s)) (orderDomainReset true)

/-- AUTO_RESTART_EXPIRY (15 R679). -/
def execAutoRestartExpiry (s : State) : Host.Outcome State Fault Refusal :=
  finish (onlyIf (getF s R.GLOBAL_FAIL_CTL_AUTO_RESTART != 0 &&
    decide (s.haltAt + 1000000 * getF s R.GLOBAL_FAIL_CTL_AUTO_RESTART ≤ s.now)) doRestart) s

/-- DOMAIN_RESET_ORDER on hub 1 (16 R721): with the restart of a halted domain it is step 2 of 15 R679. -/
def doResetOrder : M Unit := do
  let s ← get
  if isMirror s && hasPartner s then
    domainResetSteps (isHalted s)
    mboxDomainReset
    toPartner .dresetDone

def execDomainResetOrder (s : State) : Host.Outcome State Fault Refusal := finish (fromPair 7 0 doResetOrder) s

/-- DOMAIN_RESET_LINK_PHASE: every hub has completed step 4 (16 R721). -/
def execDomainResetLinkPhase (s : State) : Host.Outcome State Fault Refusal :=
  finish (onlyIf s.dreset domainResetEnd) s

end Sys2Proof.Machine
end

