-- ==== Sys2Proof/Machine/Sha.lean ====
section
/-! DEFINITION. SHA-256 and HMAC-SHA-256 (16 R739, R743; FIPS 180-4, FIPS 198-1). -/

namespace Sys2Proof.Machine

/-! The constants of SHA-256 are the first 32 bits of the fractional parts of roots of the first primes: cube roots for the rounds,
square roots for the start (FIPS 180-4, 4.2.2 and 5.3.3). Here they are computed so. -/

/-- The greatest r below 2^n, from `r` up, whose `d`-th power is at most `x`. -/
def rootFrom (d x : Nat) : Nat → Nat → Nat
  | 0, r => r
  | n + 1, r => rootFrom d x n (if (r + 2 ^ n) ^ d ≤ x then r + 2 ^ n else r)

/-- The first 32 bits after the point of the `d`-th root of `p`. -/
def rootFraction (d p : Nat) : BitVec 32 := BitVec.ofNat 32 (rootFrom d (p * 2 ^ (32 * d)) 37 0)

/-- The primes below 312, of which there are 64. -/
def shaPrimes : List Nat :=
  (List.range 312).filter fun p => decide (2 ≤ p) && (List.range 18).all fun q => decide (q < 2) || p % q != 0 || p == q

/-- The 64 round constants. -/
def shaRoundKeys : List (BitVec 32) := shaPrimes.map (rootFraction 3)

/-- The eight working words. -/
structure Sha where
  a : BitVec 32
  b : BitVec 32
  c : BitVec 32
  d : BitVec 32
  e : BitVec 32
  f : BitVec 32
  g : BitVec 32
  h : BitVec 32
  deriving DecidableEq, Repr

def Sha.start : Sha :=
  let r := rootFraction 2
  ⟨r 2, r 3, r 5, r 7, r 11, r 13, r 17, r 19⟩

def rotr (n : Nat) (x : BitVec 32) : BitVec 32 := (x >>> n) ||| (x <<< (32 - n))

/-- One round with constant `k` and message word `w`. -/
def shaRound (v : Sha) (k w : BitVec 32) : Sha :=
  let t1 := v.h + (rotr 6 v.e ^^^ rotr 11 v.e ^^^ rotr 25 v.e) + ((v.e &&& v.f) ^^^ (~~~v.e &&& v.g)) + k + w
  let t2 := (rotr 2 v.a ^^^ rotr 13 v.a ^^^ rotr 22 v.a) + ((v.a &&& v.b) ^^^ (v.a &&& v.c) ^^^ (v.b &&& v.c))
  ⟨t1 + t2, v.a, v.b, v.c, v.d + t1, v.e, v.f, v.g⟩

/-- The message word sixteen places after the first of a window of sixteen. -/
def shaNext (w : List (BitVec 32)) : BitVec 32 :=
  let x := w.getD 1 0
  let y := w.getD 14 0
  w.getD 0 0 + (rotr 7 x ^^^ rotr 18 x ^^^ (x >>> 3)) + w.getD 9 0 + (rotr 17 y ^^^ rotr 19 y ^^^ (y >>> 10))

/-- The rounds over the constants, with the window of sixteen message words. -/
def shaRounds : List (BitVec 32) → List (BitVec 32) → Sha → Sha
  | [], _, v => v
  | k :: t, w, v => shaRounds t (w.drop 1 ++ [shaNext w]) (shaRound v k (w.getD 0 0))

/-- Add one 64-byte block. -/
def shaBlock (v : Sha) (w : List (BitVec 32)) : Sha :=
  let r := shaRounds shaRoundKeys w v
  ⟨v.a + r.a, v.b + r.b, v.c + r.c, v.d + r.d, v.e + r.e, v.f + r.f, v.g + r.g, v.h + r.h⟩

/-- A 32-bit number as four bytes, highest first, and back. -/
def beBytes (n : Nat) (x : Nat) : List Nat := (natToBytes n x).reverse

def beWord (bs : List Nat) : BitVec 32 := BitVec.ofNat 32 (bytesToNat (bs.take 4).reverse)

/-- The blocks of a padded message, as many as `n`. -/
def shaBlocks : Nat → List Nat → Sha → Sha
  | 0, _, v => v
  | n + 1, bs, v => shaBlocks n (bs.drop 64) (shaBlock v ((List.range 16).map fun i => beWord (bs.drop (4 * i))))

/-- SHA-256 of a list of bytes. -/
def sha256 (bs : List Nat) : List Nat :=
  let n := bs.length
  let msg := bs ++ [0x80] ++ List.replicate ((119 - n % 64) % 64) 0 ++ beBytes 8 (8 * n)
  let v := shaBlocks (msg.length / 64) msg Sha.start
  ([v.a, v.b, v.c, v.d, v.e, v.f, v.g, v.h].map fun x => beBytes 4 x.toNat).flatten

/-- HMAC-SHA-256 with a key of at most 64 bytes. -/
def hmac (key msg : List Nat) : List Nat :=
  let k := key ++ List.replicate (64 - key.length) 0
  sha256 (k.map (Nat.xor 0x5C) ++ sha256 (k.map (Nat.xor 0x36) ++ msg))

end Sys2Proof.Machine
end

