-- ==== Sys2Proof/Machine/Power.lean ====
section
/-! DEFINITION. Resets, the stages of start-up, flash, OTP, the retain region and the low-power states (16). -/

namespace Sys2Proof.Machine

/-! ### Flash (R732-R734) -/

def flashAt (s : State) (a : Nat) : Byte := kvGet (fun _ => 0xFF#8) s.flash a

/-- `n` bytes of flash as numbers. -/
def flashBytes (s : State) (a n : Nat) : List Nat := (List.range n).map fun i => (flashAt s (a + i)).toNat

/-- The cells that bytes from an address on list. -/
def flashCells (a : Nat) (bs : List Byte) : List Host.Cell :=
  (bs.zipIdx.filter fun e => e.1 != 0xFF#8).map fun e => (a + e.2, e.1)

def setFlash (a : Nat) (bs : List Byte) : M Unit := modify fun s =>
  { s with flash := s.flash.filter (fun c => decide (c.1 < a)) ++ flashCells a bs ++
      s.flash.filter fun c => decide (a + bs.length ≤ c.1) }

def setFlashNat (a : Nat) (bs : List Nat) : M Unit := setFlash a (bs.map (BitVec.ofNat 8))

/-- `n` bytes that the spec leaves open (log 3). -/
def drawBytes (n : Nat) : M (List Byte) := fun s =>
  ((List.range n).map fun i => (Config.freeWord (s.free + i)).setWidth 8, { s with free := s.free + n })

/-- What stands in a range of flash is left open. -/
def scrambleFlash (a n : Nat) : M Unit := do
  let bs ← drawBytes n
  setFlash a bs

/-- Buffer and header of the retain buffers A and B. -/
def retainBuf (b : Nat) : Nat := 0xF80000 + 0x40000 * b

def retainHdr (b : Nat) : Nat := 0xF7E000 + 0x1000 * b

/-- Is the range protected: a retain area, or the slot named in BOOT.STAT.SLOT? -/
def flashProtected (s : State) (a n : Nat) : Bool :=
  let slot := 0x400000 * getF s R.BOOT_STAT_SLOT
  decide (0xF7E000 < a + n) || (decide (slot < a + n) && decide (a < slot + 0x400000))

/-- The page and the sector that FLASH_ADDR lies in. -/
def pageStart (a : Nat) : Nat := a / 256 * 256

def sectorStart (a : Nat) : Nat := a / 4096 * 4096

/-- A write of FLASH_CMD. Started while BUSY=1 it starts nothing, and whether it sets ERR is left open. -/
def flashCmd (v : Nat) : M (List Nat) := do
  let s ← get
  let op := v % 4
  let a := getF s R.BOOT_FLASH_ADDR_ADDR
  if op = 3 then pure [0xF0]
  else if v / 2 ^ 31 % 2 = 0 then pure []
  else if s.flashOp.isSome then
    if ← drawBool then wrF R.BOOT_FLASH_STAT_ERR 1
    pure []
  else if (op = 1 && flashProtected s (pageStart a) 256) || (op = 2 && flashProtected s (sectorStart a) 4096) then
    wrF R.BOOT_FLASH_STAT_ERR 1
    pure []
  else
    modify fun s => { s with flashOp := some ⟨op, a⟩ }
    wrF R.BOOT_FLASH_STAT_BUSY 1
    pure []

/-- A byte after its program: onto an erased byte it is the new one, else, where it differs, left open. -/
def programByte (old new : Byte) : M Byte := do
  if old = 0xFF#8 || new = old then pure new
  else
    let w ← drawWord
    pure (w.setWidth 8)

def programBytes (a : Nat) : Nat → M (List Byte)
  | 0 => pure []
  | n + 1 => do
    let s ← get
    let b ← programByte (flashAt s a) (kvGet (fun _ => 0#8) s.pageBuf (a % 256))
    let r ← programBytes (a + 1) n
    pure (b :: r)

/-- Bytes put into the page buffer from a place on, which wraps at 256. -/
def fillPage (m : List Host.Cell) (a : Nat) (bs : List Byte) : List Host.Cell :=
  bs.zipIdx.foldl (fun m e => kvSet (fun _ => 0#8) m ((a + e.2) % 256) e.1) m

/-- FLASH_OP_DONE. -/
def doFlashDone : M Unit := do
  let s ← get
  match s.flashOp with
  | none => pure ()
  | some f =>
    if f.op = 0 then
      let bs := (List.range 256).map fun i => flashAt s (pageStart f.addr + i)
      modify fun s => { s with pageBuf := fillPage [] 0 bs }
    else if f.op = 1 then
      let bs ← programBytes (pageStart f.addr) 256
      setFlash (pageStart f.addr) bs
    else setFlash (sectorStart f.addr) (List.replicate 4096 0xFF#8)
    modify fun s => { s with flashOp := none }
    wrF R.BOOT_FLASH_STAT_BUSY 0

def execFlashOpDone (s : State) : Host.Outcome State Fault Refusal := finish doFlashDone s

/-- The page-buffer word that FLASH_DATA reaches; each access moves FLASH_ADDR on by 4. -/
def flashData : M Word := do
  let s ← get
  let a := getF s R.BOOT_FLASH_ADDR_ADDR
  wrF R.BOOT_FLASH_ADDR_ADDR (a + 4)
  pure (BitVec.ofNat 32 (bytesToNat ((List.range 4).map fun i => (kvGet (fun _ => 0#8) s.pageBuf ((a + i) % 256)).toNat)))

def putFlashData (v : Word) : M Unit := do
  let s ← get
  let a := getF s R.BOOT_FLASH_ADDR_ADDR
  wrF R.BOOT_FLASH_ADDR_ADDR (a + 4)
  let bs := (List.range 4).map fun i => v.extractLsb' (8 * i) 8
  modify fun s => { s with pageBuf := fillPage s.pageBuf a bs }

/-! ### OTP and the key (R741-R743) -/

def keyBytes (s : State) : List Nat := s.otp.key.map (·.toNat)

/-- SECURE.STAT and KCV show OTP. -/
def showOtp : M Unit := do
  let s ← get
  wrF R.SECURE_STAT_KEY_VALID s.otp.keyValid.toNat
  wrF R.SECURE_STAT_AUTH_REQ s.otp.authReq.toNat
  wrF R.SECURE_STAT_LOCK s.otp.lock.toNat
  wrF R.SECURE_KCV_KCV (beWord (hmac (keyBytes s) (List.replicate 32 0))).toNat

/-- A write of SECURE.PROG_CTL with GO; `port` marks the service port and the I²C target. -/
def otpGo (port : Bool) (v : Nat) : M Unit := do
  let s ← get
  let key := v.testBit 0
  let ok := port && (stage s == 2 || stage s == 5) && !s.otp.lock && v % 8 != 0 && !(key && s.otp.keyValid)
  if !v.testBit 31 then pure ()
  else if !ok then wrF R.SECURE_PROG_CTL_ERR 1
  else
    wrF R.SECURE_PROG_CTL_ERR 0
    let kb := ((List.range 8).map fun i => natToBytes 4 (kvGet (fun _ => (0 : Word)) s.keyProg i).toNat).flatten
    modify fun s => { s with otp := { s.otp with
      key := if key then kb.map (BitVec.ofNat 8) else s.otp.key, keyValid := s.otp.keyValid || key,
      authReq := s.otp.authReq || v.testBit 1, lock := v.testBit 2 } }
    showOtp

/-! ### The start of a reset (R717-R720, R726) -/

/-- Flash operations, a retain save and a retain erase that a reset cuts short leave their range open. -/
def abortFlash : M Unit := do
  let s ← get
  match s.flashOp with
  | some f => if f.op = 1 then scrambleFlash (pageStart f.addr) 256 else onlyIf (f.op = 2) (scrambleFlash (sectorStart f.addr) 4096)
  | none => pure ()
  if s.power.save then scrambleFlash (retainBuf s.power.armedBuf) 0x40000
  match s.power.eraseBuf with
  | some b =>
    scrambleFlash (retainHdr b) 0x1000
    scrambleFlash (retainBuf b) 0x40000
  | none => pure ()

/-- The RWS fields, which a warm reset keeps (R8, R9). -/
def rwsKeys : List Nat := [R.GLOBAL_SCRATCH_DATA.key, R.SECURE_AUTH_FAIL_CNT_CNT.key]

/-- The state at the start of a reset sequence: everything at its reset value but what the class keeps (R758), the model's
own fields and the lands. -/
def atReset (warm : Bool) (s : State) : State :=
  { State.reset with
    now := s.now, pins := s.pins, otp := s.otp, flash := s.flash, pending := s.pending, outs := s.outs, free := s.free,
    nirqLow := s.nirqLow, alertLow := s.alertLow,
    power := { s.power with save := false, exiting := false, eraseBuf := none, armedBuf := 0, trigTick := 0,
                            latched := if s.power.hold then s.power.latched else 55 },
    regs := if warm then s.regs.filter fun e => rwsKeys.contains e.1 else [],
    keyProg := if warm then s.keyProg else [], loadBuf := if warm then s.loadBuf else [],
    jtag := if warm then s.jtag else State.reset.jtag }

/-- Start a reset sequence at stage POWER with the cause it will show; the event lands go to high impedance (02 R97). -/
def startReset (warm : Bool) (cause : Nat) : M Unit := do
  abortFlash
  each (← get).evt.drive fun e => onlyIf (e.2 != none) (emitLand (.pin e.1 none))
  modify (atReset warm)
  modify fun s => { s with power := { s.power with cause := cause } }

/-- The supply and the reference let the hub run. -/
def powered (s : State) : Bool := !s.power.hold && !s.power.held && !s.power.otOff

/-- COLD_RESET: VIN back above 5.7 V, TEST released or the reference back. -/
def doColdReset : M Unit := do
  let s ← get
  if !s.power.hold && !s.power.otOff then
    startReset false s.power.cause
    modify fun s => { s with power := { s.power with held := false }, pins := { s.pins with test := false, refStopped := false } }

def execColdReset (s : State) : Host.Outcome State Fault Refusal := finish doColdReset s

/-- VIN_LOW: held in reset until VIN is back. -/
def doVinLow : M Unit := do
  modify fun s => { s with power := { s.power with hold := false } }
  startReset false 2
  modify fun s => { s with power := { s.power with held := true } }

def execVinLow (s : State) : Host.Outcome State Fault Refusal := finish doVinLow s

/-- A warm reset; in stage POWER the hub senses no input but PFI (19 R844). -/
def warmReset (cause : Nat) : M Unit := do
  let s ← get
  onlyIf (powered s && stage s != 0) (startReset true cause)

def execNReset (s : State) : Host.Outcome State Fault Refusal := finish (onlyIf (!landsOff s) (warmReset 4)) s

/-- TEST_HIGH (19 R833): held in cold reset. Which cause the hub shows after it the spec does not say. -/
def doTestHigh : M Unit := do
  let w ← drawWord
  startReset false (w.toNat % 5 + 1)
  modify fun s => { s with power := { s.power with held := true }, pins := { s.pins with test := true } }

def execTestHigh (s : State) : Host.Outcome State Fault Refusal := finish (onlyIf (!s.power.hold) doTestHigh) s

/-- REFERENCE_STOP (19 R854). -/
def doReferenceStop : M Unit := do
  startReset false 1
  modify fun s => { s with power := { s.power with held := true }, pins := { s.pins with refStopped := true } }

def execReferenceStop (s : State) : Host.Outcome State Fault Refusal := finish (onlyIf (powered s) doReferenceStop) s

/-- OVER_TEMPERATURE (19 R859): every supply off, with no save. -/
def doOverTemperature : M Unit := do
  startReset false 1
  modify fun s => { s with power := { s.power with otOff := true } }

def execOverTemperature (s : State) : Host.Outcome State Fault Refusal := finish (onlyIf (!s.power.hold) doOverTemperature) s

/-- OVER_TEMPERATURE_RESTART. -/
def doTempRestart : M Unit := do
  startReset false 1
  modify fun s => { s with power := { s.power with otOff := false } }

def execOverTemperatureRestart (s : State) : Host.Outcome State Fault Refusal := finish (onlyIf s.power.otOff doTempRestart) s

/-- HOLD_EXIT (R748). -/
def doHoldExit : M Unit := do
  startReset false 3
  modify fun s => { s with power := { s.power with hold := false } }

def execHoldExit (s : State) : Host.Outcome State Fault Refusal := finish (onlyIf s.power.hold doHoldExit) s

/-! ### Stages (R726-R731) -/

/-- The start-up sequence of a cold or warm reset runs: it ends in RUN (R726). -/
def starting (s : State) : Bool := stage s != 4

/-- DIR.LFSR_STATE takes the seed (08 R354). -/
def loadLfsr : M Unit := do wrF R.DIR_LFSR_STATE_S (← rdF R.DIR_LFSR_SEED_SEED)

/-- POWER_STAGE_READY: stage LOAD begins; the lands are sampled and OTP is read. -/
def doPowerReady : M Unit := do
  let s ← get
  if powered s && stage s == 0 then
    wrF R.BOOT_STAT_STAGE 1
    wrF R.GLOBAL_STAT_CAUSE s.power.cause
    modify fun s => { s with power := { s.power with cause := 1 } }
    wrF R.PAIR_STAT_ROLE s.pins.pairRole.toNat
    wrF R.BOOT_STAT_BOOTSEL s.pins.bootSel
    wrF R.DIR_LFSR_SEED_SEED (if s.pins.pairRole then 0x1D2B else 0xACE1)
    loadLfsr
    showOtp

def execPowerStageReady (s : State) : Host.Outcome State Fault Refusal := finish doPowerReady s

/-- A write of 1 to BOOT.CTL.GO: from WAIT, or from FAIL after a valid load, to RESTORE; with AUTH_REQ=1 only after a valid
load. -/
def bootGo : M (List Nat) := do
  let s ← get
  let loaded := getF s R.BOOT_STAT_LOADED == 1
  if (stage s == 2 && (loaded || !s.otp.authReq)) || (stage s == 5 && loaded) then
    wrF R.BOOT_STAT_STAGE 3
    pure []
  else pure [0xF2]

/-! ### Retain (R749-R757) -/

/-- The lines of the retain range that this hub homes, in ascending HA. -/
def retainLines (s : State) : List Line :=
  ((List.range (2 ^ getF s R.POWER_RET_CTL_LOG2 / 64)).map fun i => getF s R.POWER_RET_BASE_HA4K * 64 + i).filter fun l =>
    isHome s (l * 64)

/-- LEN of the save: its size in 4 KiB units. -/
def retainLen (s : State) : Nat := ((retainLines s).length * 64 + 4095) / 4096

/-- Field of a retain header, little-endian. -/
def hdrField (s : State) (b o n : Nat) : Nat := bytesToNat (flashBytes s (retainHdr b + o) n)

/-- Is the header of a buffer valid (R751)? -/
def retainValid (s : State) (b : Nat) : Bool :=
  let len := hdrField s b 12 2
  hdrField s b 0 4 == 0x4B585254 && decide (len ≤ 64) && hdrField s b 28 4 == crc32 (flashBytes s (retainBuf b) (len * 4096))

/-- The buffer with the valid header of later SEQ; between equal ones the spec names none. -/
def newestBuf : M (Option Nat) := do
  let s ← get
  match retainValid s 0, retainValid s 1 with
  | false, false => pure none
  | true, false => pure (some 0)
  | false, true => pure (some 1)
  | true, true =>
    let a := hdrField s 0 4 4
    let b := hdrField s 1 4 4
    if a = b then pure (some (← drawBool).toNat)
    else pure (some (if later 32 b a then 1 else 0))

/-- Put the bytes of the saved lines into memory. -/
def putLines (a : Nat) : List Line → M Unit
  | [] => pure ()
  | l :: t => do
    writeHome l qCommit 0 (bytesLine (flashBytes (← get) a 64))
    putLines (a + 64) t

/-- RESTORE (R753). -/
def retainRestore : M Unit := do
  let s ← get
  let none_ : M Unit := do
    wrF R.POWER_RET_STAT_NONE 1
    raise pgPower 2
  match ← newestBuf with
  | none => none_
  | some b =>
    if getF s R.POWER_RET_CTL_RESTORE = 1 && hdrField s b 12 2 == retainLen s &&
        hdrField s b 20 4 == getF s R.POWER_RET_BASE_HA4K * 4096 then
      putLines (retainBuf b) (retainLines s)
      wrF R.POWER_RET_STAT_VALID 1
      wrF R.POWER_RET_STAT_BUF b
      wrF R.POWER_RET_SEQ_SEQ (hdrField s b 4 4)
      wrF R.POWER_RET_TICK_NUM (hdrField s b 8 4)
    else none_

/-- The buffer to erase (R752): one whose header is not valid, or of two valid ones the older. Between two that are not
valid, and between two of equal SEQ, the spec names none. -/
def pickErase : M Nat := do
  let s ← get
  match retainValid s 0, retainValid s 1 with
  | true, false => pure 1
  | false, true => pure 0
  | false, false => pure (← drawBool).toNat
  | true, true =>
    match ← newestBuf with
    | some b => pure (1 - b)
    | none => pure 0

/-- RESTORE_DONE: the retain range is restored, and the hub enters RUN: ports, fabric, tick and event pins start as the
configuration gives. -/
def doRestoreDone : M Unit := do
  let s ← get
  if powered s && stage s == 3 then
    retainRestore
    let b ← pickErase
    modify fun s => { s with power := { s.power with eraseBuf := some b } }
    wrF R.BOOT_STAT_STAGE 4
    loadLfsr
    each (List.range 16) placePin
    checkStations
    fabricEnable
    startIfRun

def execRestoreDone (s : State) : Host.Outcome State Fault Refusal := finish doRestoreDone s

/-- RETAIN_ERASE_DONE: the buffer and its header are erased, and ARMED names it. -/
def doEraseDone : M Unit := do
  let s ← get
  match s.power.eraseBuf with
  | some b =>
    setFlash (retainHdr b) (List.replicate 0x1000 0xFF#8)
    setFlash (retainBuf b) (List.replicate 0x40000 0xFF#8)
    modify fun s => { s with power := { s.power with eraseBuf := none, armedBuf := b } }
    wrF R.POWER_RET_STAT_ARMED 1
    raise pgPower 1
  | none => pure ()

def execRetainEraseDone (s : State) : Host.Outcome State Fault Refusal := finish doEraseDone s

/-- HOLD: everything but the VIN monitor is off; it keeps the threshold. -/
def enterHold : M Unit := do
  modify fun s => { s with power := { s.power with hold := true } }
  startReset false 3
  wrF R.POWER_STAT_STATE 3

/-- The save starts (R755): event outputs take their fault state, commits and releases stop, DomainDown goes out, REQ and MSG
are discarded; HALTED is set and CAUSE stays. -/
def startSave : M Unit := do
  wrF R.POWER_STAT_STATE 0
  driveFault
  modify fun s => { s with
    power := { s.power with save := true, exiting := false, trigTick := tickNum s }, tick := { s.tick with stopped := true } }
  sendDomainDown
  stopFlows
  -- the halt ends a reclaim sweep (15 R715)
  wrF R.GLOBAL_FAIL_STAT_SWEEP 0
  modify fun s => { s with sweep := none }
  wrF R.GLOBAL_FAIL_STAT_HALTED 1

/-- A power-fail trigger (R748, R754, R757). -/
def powerFail : M Unit := do
  let s ← get
  if powered s && !s.power.save then
    raise pgPower 0
    modify fun s => { s with power := { s.power with latched := getF s R.POWER_PF_CTL_THR } }
    if stage s = 4 && getF s R.POWER_RET_STAT_ARMED = 1 && getF s R.POWER_RET_CTL_EN = 1 then startSave else enterHold

/-- POWER_FAIL_TRIGGER: by the comparator, or by PFI, whose land JTAG may hold. -/
def execPowerFailTrigger (s : State) : Host.Outcome State Fault Refusal :=
  finish (onlyIf (getF s R.POWER_PF_CTL_CMP_EN == 1 || (getF s R.POWER_PF_CTL_PFI_EN == 1 && !landsOff s)) powerFail) s

/-- Read the retain lines; the second part counts those in Owned state. -/
def saveLines : List Line → M (List Nat × Nat)
  | [] => pure ([], 0)
  | l :: t => do
    let own := match dirState (← get) l with | .owned _ => 1 | _ => 0
    let d ← readHome l qCommit 0
    let (r, n) ← saveLines t
    pure (lineBytes d ++ r, own + n)

/-- The SEQ of a save: one past that of the buffer kept; with none kept the spec names no SEQ. -/
def saveSeq (b : Nat) : M Nat := do
  let s ← get
  if retainValid s (1 - b) then pure ((hdrField s (1 - b) 4 4 + 1) % 2 ^ 32)
  else pure (← drawWord).toNat

/-- RETAIN_SAVE_DONE: the lines are in the buffer that ARMED names, the header last, then HOLD. The header bytes that R751 does
not name are left open. -/
def doSaveDone : M Unit := do
  let s ← get
  if s.power.save then
    let b := s.power.armedBuf
    let len := retainLen s
    let (bs, owned) ← saveLines (retainLines s)
    setFlashNat (retainBuf b) bs
    let seq ← saveSeq b
    let x ← drawBytes 2
    let y ← drawBytes 4
    let crc := crc32 (flashBytes (← get) (retainBuf b) (len * 4096))
    setFlashNat (retainHdr b) (natToBytes 4 0x4B585254 ++ natToBytes 4 seq ++ natToBytes 4 s.power.trigTick ++ natToBytes 2 len ++
      x.map (·.toNat) ++ natToBytes 4 owned ++ natToBytes 4 (getF s R.POWER_RET_BASE_HA4K * 4096) ++ y.map (·.toNat) ++
      natToBytes 4 crc)
    modify fun s => { s with power := { s.power with save := false } }
    enterHold

def execRetainSaveDone (s : State) : Host.Outcome State Fault Refusal := finish doSaveDone s

/-! ### IDLE and STANDBY (R744-R747) -/

/-- Does a tenant reset run? -/
def anyTenantReset (s : State) : Bool := (List.range 32).any fun t => tenantResetting s t

/-- STANDBY is accepted: every agent port in DOWN or clean, and no domain or tenant reset runs (R746, R764). -/
def standbyOk (s : State) : Bool :=
  !s.dreset && !anyTenantReset s && (List.range 16).all fun p => lstate s p == 0 || isClean s p

/-- An agent port goes to DOWN without a link reset (04 R208); so does a clean one in PROTO_ERR or RETRAIN, whose PROTO stays (DESIGN
CHOICE, log 122). -/
def standbyPort (p : Nat) : M Unit := do
  let s ← get
  if lstate s p ≠ 0 then
    setPort p fun pt => { Port.empty with heldDown := pt.heldDown, link := { Link.empty with since := s.now } }
    wrF (R.APORT_STAT_LSTATE p) 0
    onlyIf (portUp s p) (raise (pgAport p) 1)

/-- The state that a write of another POWER.CTL.REQ asks for; a write of the present one changes nothing (00 R877). -/
def powerRequest (req : Nat) : M Unit := do
  let st ← rdF R.POWER_STAT_STATE
  if req = 2 then
    if st ≠ 2 then
      wrF R.POWER_STAT_STATE 2
      each (List.range 16) standbyPort
    modify fun s => { s with power := { s.power with exiting := false } }
  else if st = 2 then onlyIf (req = 0) (modify fun s => { s with power := { s.power with exiting := true } })
  else wrF R.POWER_STAT_STATE req

/-- LANE_WAKE: signal at an agent port in STANDBY. -/
def execLaneWake (_p : Fin 16) (s : State) : Host.Outcome State Fault Refusal :=
  finish (onlyIf (inStandby s && getF s R.POWER_CTL_LANE_WAKE == 1)
    (modify fun s => { s with power := { s.power with exiting := true } })) s

/-- STANDBY_EXIT_DONE: back in RUN. -/
def doStandbyExit : M Unit := do
  let s ← get
  if s.power.exiting && inStandby s then
    modify fun s => { s with power := { s.power with exiting := false } }
    wrF R.POWER_STAT_STATE 0
    raise pgPower 3

def execStandbyExitDone (s : State) : Host.Outcome State Fault Refusal := finish doStandbyExit s

/-! ### Domain and tenant resets by management (R717-R719, R764) -/

/-- A write of 1 to GLOBAL.CTL.DRESET. -/
def writeDreset : M (List Nat) := do
  let s ← get
  if isMirror s then pure [0xF1]
  else if starting s || s.dreset || inStandby s then pure [0xF2]
  else
    orderDomainReset false
    pure []

/-- A write of 1 to TENANTt.CTL.RESET. -/
def writeTenantReset (t : Nat) : M (List Nat) := do
  let s ← get
  if isMirror s then pure [0xF1]
  else if tenantResetting s t then pure []
  else if starting s || s.dreset || anyTenantReset s then pure [0xF2]
  else
    mirrorWrite (regKey (pgTenant t) 0x040) (getReg s.regs (regKey (pgTenant t) 0x040) ||| 0x100#32)
    startTenantReset t
    pure []

/-- Would a link reset now meet a running reset of a higher class (R719)? -/
def higherReset (s : State) : Bool := starting s || s.dreset || anyTenantReset s

end Sys2Proof.Machine
end

