-- ==== Sys2Proof/Machine/CfgRead.lean ====
section
/-! DEFINITION. Reads of the configuration space (17, 18): KX1 alias pages, registers whose value other state holds, snapshots,
the page header, and the latch of multi-word values. -/

namespace Sys2Proof.Machine

/-! ### KX1 alias pages (17 R797-R799, 18) -/

/-- Where an access to an alias page goes: a register here or of the partner, the alias page's own header, a removed register,
or nothing. -/
inductive AliasTo where
  | reg (page off : Nat) | partner (page off : Nat) | own | removed | empty
  deriving DecidableEq, Repr

/-- The first KX2 page that R797 lists for alias page 0x80 + k. -/
def aliasFirst : Nat → Option Nat
  | 0 => some 0x00 | 1 => some 0x01 | 2 => some 0x70 | 3 => some 0x04
  | 4 => some 0x08 | 5 => some 0x0C | 6 => some 0x10
  | 7 => some 0x30 | 8 => some 0x32 | 9 => some 0x28 | 10 => some 0x38 | 11 => some 0x40 | 12 => some 0x60 | 13 => some 0x78
  | _ => none

/-- An offset in a range goes to a page at the offset plus `d` less `m`. -/
def aliasRange (off lo hi page d m : Nat) : Option AliasTo := if lo ≤ off ∧ off ≤ hi then some (.reg page (off + d - m)) else none

/-- The rows of the alias table of chapter 18 for offsets from 0x040 on. -/
def aliasBody (s : State) (k off : Nat) : AliasTo :=
  let two := fun (a b : Option AliasTo) => match a with | some x => some x | none => b
  let found : Option AliasTo := match k with
    | 0 => two (aliasRange off 0x040 0x0FF 0x00 0 0) (two (aliasRange off 0x100 0x13F 0x02 0 0x0C0)
        (if 0x140 ≤ off ∧ off ≤ 0x17F then some .removed else none))
    | 1 => aliasRange off 0x040 0x08F 0x01 0 0
    | 2 => aliasRange off 0x040 0x1FF 0x70 0 0
    | 3 => aliasRange off 0x040 0x4FF 0x04 0 0
    | 4 | 5 | 6 =>
      let j := (off - 0x040) / 0x3C0
      if j < 4 then some (.reg (0x08 + 4 * (k - 4) + j) (0x040 + (off - 0x040) % 0x3C0)) else none
    | 7 => aliasRange off 0x040 0x08F 0x30 0 0
    | 8 => two (aliasRange off 0x040 0x0FF 0x32 0 0) (two (aliasRange off 0x100 0x1BF 0x31 0 0x0C0)
        (aliasRange off 0x1C0 0x27F 0x33 0 0x180))
    | 9 => two (two (aliasRange off 0x040 0x1FF 0x28 0 0) (aliasRange off 0x200 0x27F 0x29 0 0x1C0))
        (two (aliasRange off 0x280 0x2FF 0x29 0 0x180) (aliasRange off 0x400 0x7FF 0x29 0x400 0))
    | 10 => aliasRange off 0x040 0xBFF 0x38 0 0
    | 11 => if off % 0x100 < 0x040 then none else some (.reg (0x40 + off / 0x100) (off % 0x100))
    | 12 =>
      let m := (off - 0x100) / 0x40
      if off ≤ 0x07F then some (.reg 0x60 off)
      else if 0x100 ≤ off ∧ m < 48 then
        let page := 0x60 + m / 16
        let o := 0x100 + 0x40 * (m % 16) + off % 0x40
        some (if isMirror s then .partner page o else .reg page o)
      else none
    | 13 => aliasRange off 0x040 0xCFF 0x78 0 0
    | _ => some .removed
  found.getD .empty

/-- Where an access to an offset of an alias page goes. -/
def aliasTarget (s : State) (page off : Nat) : AliasTo :=
  let k := page - 0x80
  if off = 0x000 ∨ (0x020 ≤ off ∧ off < 0x030) then .own
  else if off < 0x040 then
    match aliasFirst k with
    | some p => .reg p off
    | none => .empty
  else aliasBody s k off

/-! ### Registers whose value other state holds -/

def wordOf (n : Nat) : Word := BitVec.ofNat 32 n

/-- A field of a stored word shows a number of the state. -/
def showIn (w : Word) (f : Fld) (n : Nat) : Word := withField w f.lo f.w n

/-- The LOCK registers of a registry entry (10 R466). -/
def lockWord (s : State) (i : Nat) (hi : Bool) : Word :=
  match kvGet (fun _ => (none : Option Lock)) s.locks i with
  | none => 0
  | some l =>
    if hi then wordOf (l.holder + l.tenant * 2 ^ 8 + min (chainOf s l.line).length 1023 * 2 ^ 16)
    else wordOf (l.line + 2 ^ 31)

def lockTick (s : State) (i : Nat) : Word :=
  match kvGet (fun _ => (none : Option Lock)) s.locks i with | some l => wordOf l.tick | none => 0

/-- A row of the wait graph; on the hub that is not the master it reads 0. -/
def waitRow (s : State) (a : Nat) : Word :=
  if isMaster s then wordOf (((List.range 32).map fun b => if edge s a b then 2 ^ b else 0).sum) else 0

/-- CARGO.PROBE shows the buffer that PROBE_IDX names. -/
def probeWord (s : State) : Word :=
  let i := getF s R.CARGO_PROBE_IDX_INDEX
  match cargoOwner s i with
  | some t => wordOf (cargoGen s i + 2 ^ 4 + t * 2 ^ 8)
  | none => wordOf (cargoGen s i)

/-- INTAGG.PENDj (15 R703). -/
def pendWord (s : State) (j : Nat) : Word :=
  wordOf (((pendingPages s).map fun p => if p / 32 = j then 2 ^ (p % 32) else 0).sum)

/-- The present value of a register outside the page header. PERIOD and the phase registers show what was last written, also before it is
in force (R42; DESIGN CHOICE, log 119). -/
def viewReg (s : State) (page off : Nat) : Word :=
  let w := getReg s.regs (regKey page off)
  if page = 0x00 then (if off = 0x0AC then showIn w R.GLOBAL_CHAIN_USED s.chain.length else w)
  else if page = 0x01 then (if off = 0x04C then showIn w R.TICK_OFFSET_NS10 s.tick.offset else w)
  else if page = 0x04 then (if 0x060 ≤ off ∧ off < 0x080 then pendWord s ((off - 0x060) / 4) else w)
  else if page = 0x20 then
    (if off = 0x048 then s.otp.uid.extractLsb' 0 32 else if off = 0x04C then s.otp.uid.extractLsb' 32 32 else w)
  else if page = 0x29 then
    if off = 0x048 then showIn w R.LOCK_HELD_N (locksHeld s)
    else if off = 0x07C then showIn w R.LOCK_EVQ_USED s.evq.length
    else if 0x100 ≤ off ∧ off < 0x180 then waitRow s ((off - 0x100) / 4)
    else if 0x400 ≤ off ∧ off < 0x800 then lockTick s ((off - 0x400) / 4)
    else if 0x800 ≤ off then lockWord s ((off - 0x800) / 8) ((off - 0x800) % 8 == 4)
    else w
  else if page = 0x30 then (if off = 0x058 then showIn w R.DIR_USED_ENTRIES (usedEntries s) else w)
  else if page = 0x31 then (if off = 0x058 then showIn w R.HCACHE_EBUF_USED s.ebuf.length else w)
  else if 0x40 ≤ page ∧ page < 0x60 then
    (if off = 0x068 then showIn w (R.TENANT_LOCK_HELD_N 0) (locksOfTenant s (page - 0x40)) else w)
  else if page = 0x68 then (if off = 0x074 then probeWord s else w)
  else if page = 0x70 then
    (if off = 0x074 then showIn w R.COMMIT_NV_LINES_N (nvLines s) else if off = 0x078 then showIn w R.COMMIT_DUE_LINES_N (dueLines s)
     else w)
  else w

/-- While FREEZE=1 the statistics fields of a page read as in the snapshot (17 R789). -/
def frozenWord (s : State) (page off : Nat) (w : Word) : Word :=
  if getF s (pageFreeze page) = 1 then
    let snap := kvGet regDflt s.snaps (regKey page off)
    (rowsAt page off).foldl (fun x r => if r.stat then withField x r.lo r.w (fieldOf snap r.lo r.w) else x) w
  else w

/-! ### The page header (R786-R791) -/

/-- STATION pages 0x22-0x25 have no interrupts and no error capture of their own (17 R795). -/
def bareHeader (page : Nat) : Bool := decide (0x22 ≤ page ∧ page ≤ 0x25)

/-- Reading PAGE_CTL: EN shows its target, or 1. -/
def pageCtlWord (s : State) (page : Nat) (en : Option Fld) : Word :=
  let w := getReg s.regs (regKey page 0x004)
  withField w 0 1 (match en with | some f => getF s f | none => 1)

def pageStatWord (s : State) (page : Nat) : Word :=
  wordOf ((isPending s page).toNat + getF s (capValid page) * 2 + getF s (pageFreeze page) * 4 + getF s (pageLock page) * 8 +
    hubNo s * 16)

def headerWord (s : State) (page off : Nat) (info : Nat × Nat × Option Fld) : Word :=
  if off = 0x000 then pageId info.1 info.2.1
  else if off = 0x004 then pageCtlWord s page info.2.2
  else if off = 0x008 then pageStatWord s page
  else if bareHeader page then 0
  else if off = 0x010 ∨ off = 0x014 ∨ off = 0x018 ∨ (0x020 ≤ off ∧ off < 0x030) then getReg s.regs (regKey page off)
  else 0

/-! ### Paths and their latches (R12, R769) -/

def pathSt (s : State) (pn : Nat) : PathSt := kvGet (fun _ => (⟨[], []⟩ : PathSt)) s.paths pn

def setPath (pn : Nat) (f : PathSt → PathSt) : M Unit := fun s =>
  ((), { s with paths := kvSet (fun _ => (⟨[], []⟩ : PathSt)) s.paths pn (f (pathSt s pn)) })

/-- The word under a key, if one is noted. -/
def noted (l : KV Word) (k : Nat) : Option Word := (l.find? fun e => e.1 == k).map (·.2)

def note (l : KV Word) (k : Nat) (v : Word) : KV Word := kvIns (kvDel l k) k v

/-- Read a word of a multi-word value: the lowest latches the higher ones, which then read from the latch. -/
def groupRead (pn page off base word n : Nat) : M Word := do
  let s ← get
  let key := regKey page off
  if word = 0 then
    setPath pn fun ps => { ps with latch :=
      (List.range' 1 (n - 1)).foldl (fun l i => note l (regKey page base + 4 * i) (viewReg s page (base + 4 * i))) ps.latch }
    pure (viewReg s page off)
  else pure ((noted (pathSt s pn).latch key).getD (viewReg s page off))

/-- Read a register of a page of this hub. VIN is measured, and no command names its level (log 4); a read of FLASH_DATA moves
FLASH_ADDR on. -/
def readNative (pn page off : Nat) : M Word := do
  let s ← get
  match pageInfo page with
  | none => pure 0
  | some info =>
    if off < 0x040 then pure (headerWord s page off info)
    else if rowsAt page off = [] then pure 0
    else if page = 0x02 ∧ off = 0x04C then
      let w ← drawWord
      pure (wordOf (w.toNat % 1024))
    else if page = 0x03 ∧ off = 0x050 then flashData
    else
      match groupOf page off with
      | some (base, word, n) => groupRead pn page off base word n
      | none => pure (frozenWord s page off (viewReg s page off))

/-- Read the partner's register over the pair link, whose answer is `remote`; without a partner it reads 0 and is noted (R768). -/
def readPartner (pn page off : Nat) (remote : Option Word) : M Word := do
  if hasPartner (← get) then
    sendPair (.cfgRead pn (caOf page off) 1)
    match remote with
    | some w => pure w
    | none => drawWord
  else
    wrF R.GLOBAL_SVC_STAT_PARTNER_ERR 1
    pure 0

/-- Read a register in this hub's space; `remote` answers an alias register that the master holds. -/
def readHere (pn page off : Nat) (remote : Option Word) : M Word := do
  let s ← get
  if aliasPage s page then
    match aliasTarget s page off with
    | .own =>
      if off = 0 then pure (pageId 0x4B31 (page - 0x80)) else pure (getReg s.regs (regKey page off))
    | .reg p o => readNative pn p o
    | .partner p o => readPartner pn p o remote
    | _ => pure 0
  else readNative pn page off

/-- Read at a configuration address (R766-R768). -/
def cfgRead (pn ca : Nat) (remote : Option Word) : M Word :=
  if 0x200000 ≤ ca then pure 0
  else if caHub ca = 1 && decide (pn < 19) then readPartner pn (caPage ca) (caOff ca) remote
  else readHere pn (caPage ca) (caOff ca) remote

end Sys2Proof.Machine
end

