-- ==== Sys2Proof/Machine/Weevil.lean ====
section
/-! DEFINITION. Housekeeping (09 R415-R421, 08 R374, R375, 02 R43): the work of a slice within the time that the slice gives, in units
of 2.5 ns. -/

namespace Sys2Proof.Machine

/-- Housekeeping runs while the hub runs, out of STANDBY and out of a domain reset. -/
def weevilOn (s : State) : Bool := isRunning s && !inStandby s

def scrubOn (s : State) : Bool := getF s R.SCRUB_CTL_EN == 1

/-! ### Scrub steps (R415-R418) -/

/-- Is a newer copy of the line dirty in the cache, or in the eviction buffer? -/
def newerCopy (s : State) (loc : Nat) : Bool :=
  (cacheHolds s loc && slotDirtyTreated (slotOf s (slotIx loc))) || (ebFind s loc).isSome

/-- A word still of class ADDRESS after its retry (R405). -/
def scrubAddress (wa : Nat) : M Unit := do
  memError wa 4 qWeevil R.MEM_ADDR_CNT_CNT 2
  incF R.SCRUB_ADDR_CNT_CNT
  raise pgScrub 2
  loss 6 (lineOfLoc (← get) (wa / 4))

/-- Act on a word of a class other than ADDRESS (R416, R417). Words written: 0 or 1. -/
def scrubClass (wa : Nat) (f : Nat) (bs : List (BitVec 13)) (c : WClass) : M Nat := do
  match c with
  | .corrected =>
    memPutWord wa (encodeQuad (foldWa wa) (decodeQuad f bs))
    incF R.SCRUB_CORR_CNT_CNT
    pure 1
  | .uncorr | .mixed =>
    let s ← get
    if newerCopy s (wa / 4) then
      incF R.SCRUB_STALE_ERR_CNT_CNT
      pure 0
    else
      memPutWord wa (List.replicate 16 poisonByte)
      incF R.MEM_POISON_WR_CNT_CNT
      incF R.SCRUB_POISONED_CNT_CNT
      raise pgScrub 1
      loss 5 (lineOfLoc s (wa / 4))
      pure 1
  | _ => pure 0

/-- Check one word of memory. -/
def scrubWord (wa : Nat) : M Nat := do
  let f ← foldForRead wa
  let bs := memWord (← get) wa
  if classWord f bs = .address then
    let f2 ← foldForRead wa
    let bs2 := memWord (← get) wa
    let c2 := classWord f2 bs2
    if c2 = .clean ∨ c2 = .corrected then
      memEvent wa 5 qWeevil R.MEM_ADDR_TRANS_CNT_CNT
      scrubClass wa f2 bs2 c2
    else
      scrubAddress wa
      pure 0
  else scrubClass wa f bs (classWord f bs)

/-- Check one copy of a line: the units it takes. The look for a newer copy checks the slot that the line maps to (R408). -/
def scrubCopy (loc : Nat) : M Nat := do
  checkSlot (slotIx loc)
  let a ← scrubWord (loc * 4)
  let b ← scrubWord (loc * 4 + 1)
  let c ← scrubWord (loc * 4 + 2)
  let d ← scrubWord (loc * 4 + 3)
  pure (5 + 5 * (a + b + c + d))

/-- A scrub step on the line at a location: both copies of an FV line. -/
def scrubLine (loc : Nat) : M Nat := do
  engineTurn qWeevil
  let s ← get
  let line := lineOfLoc s loc
  let a ← scrubCopy loc
  match fvRegion s line with
  | some r =>
    if copyPlaced s r then
      let b ← scrubCopy (secondLoc s r line)
      pure (a + b)
    else pure a
  | none => pure a

/-- The revisit list: a line still Busy stays on it (R418). The budget left, and whether every listed line was tried. -/
def doRevisit : List Nat → Nat → M (Nat × Bool)
  | [], b => pure (b, true)
  | l :: t, b => do
    let s ← get
    if b = 0 then
      modify fun s => { s with weevil := { s.weevil with revisit := s.weevil.revisit ++ l :: t } }
      pure (0, false)
    else if lineBusy s (lineOfLoc s l) then
      modify fun s => { s with weevil := { s.weevil with revisit := s.weevil.revisit ++ [l] } }
      doRevisit t b
    else
      let c ← scrubLine l
      doRevisit t (b - c)

/-! ### The order of a pass -/

/-- The locations of a valid region's share: first, and one past the last. -/
def shareSpan (s : State) (r : Nat) : Nat × Nat :=
  let d := descOf s.active r
  let lo := laOf s d.base / 64
  (lo, lo + shareLines s d)

/-- The regions whose lines a pass visits first (priority 1) or last (2). -/
def spansOf (s : State) (pri : Nat) : List (Nat × Nat) :=
  ((List.range 64).filter fun r => (descOf s.active r).valid && (descOf s.active r).scrub == pri).map (shareSpan s)

/-- The first location from `x` on that lies in one of the spans. -/
def nextIn (spans : List (Nat × Nat)) (x : Nat) : Option Nat :=
  spans.foldl (fun best (lo, hi) =>
    let c := max x lo
    if c < hi then (match best with | some b => some (min b c) | none => some c) else best) none

/-- The first location from `x` on that lies in none of the spans; each jump leaves one span. -/
def nextOut (spans : List (Nat × Nat)) : Nat → Nat → Nat
  | 0, x => x
  | n + 1, x =>
    match spans.find? fun (lo, hi) => decide (lo ≤ x ∧ x < hi) with
    | some (_, hi) => nextOut spans n hi
    | none => x

/-- The next location of a group (0 first, 1 normal, 2 last) from `x` on. -/
def nextOfGroup (s : State) (g x : Nat) : Option Nat :=
  if g = 0 then nextIn (spansOf s 1) x
  else if g = 2 then nextIn (spansOf s 2) x
  else
    let y := nextOut (spansOf s 1 ++ spansOf s 2) 128 x
    if y < 0x400000 then some y else none

/-- The next location of the pass and its group; `none` at the end of the pass. -/
def nextScrub (s : State) : Option (Nat × Nat) :=
  let g := getF s R.SCRUB_POS_GROUP
  let x := getF s R.SCRUB_POS_LINE
  match nextOfGroup s g x with
  | some y => some (g, y)
  | none =>
    if g = 0 then
      match nextOfGroup s 1 0 with
      | some y => some (1, y)
      | none => (nextOfGroup s 2 0).map fun y => (2, y)
    else if g = 1 then (nextOfGroup s 2 0).map fun y => (2, y)
    else none

/-- A pass is complete: LAST_PASS counts the ticks from that of its first step to this one (log 111), and the position is that of
the next pass's first step. -/
def endPass : M Unit := do
  let s ← get
  incF R.SCRUB_PASS_CNT_CNT
  wrF R.SCRUB_LAST_PASS_TICKS ((tickNum s + 2 ^ 32 + 1 - s.weevil.passStart.getD (tickNum s)) % 2 ^ 32)
  raise pgScrub 0
  modify fun s => { s with weevil := { s.weevil with passStart := none } }
  wrF R.SCRUB_POS_GROUP 0
  wrF R.SCRUB_POS_LINE 0
  match nextScrub (← get) with
  | some (g, y) => do wrF R.SCRUB_POS_GROUP g; wrF R.SCRUB_POS_LINE y
  | none => pure ()

/-- Move the position past a location; the end of the last group ends the pass. -/
def advancePos (g y : Nat) : M Unit := do
  wrF R.SCRUB_POS_GROUP g
  if y + 1 < 0x400000 then
    wrF R.SCRUB_POS_LINE (y + 1)
    match nextScrub (← get) with
    | some (g', y') => do wrF R.SCRUB_POS_GROUP g'; wrF R.SCRUB_POS_LINE y'
    | none => endPass
  else if g = 2 then endPass
  else
    wrF R.SCRUB_POS_GROUP (g + 1)
    wrF R.SCRUB_POS_LINE 0
    match nextScrub (← get) with
    | some (g', y') => do wrF R.SCRUB_POS_GROUP g'; wrF R.SCRUB_POS_LINE y'
    | none => endPass

/-- A Busy line is passed over (R418). -/
def passOver (loc : Nat) : M Unit := do
  if (← get).weevil.revisit.length < 16 then
    modify fun s => { s with weevil := { s.weevil with revisit := s.weevil.revisit ++ [loc] } }
  else incF R.SCRUB_SKIP_CNT_CNT

/-- Scrub steps until `left` are complete or the slice's budget is used; `fuel` bounds the lines met (log 21). -/
def doScrub : Nat → Nat → Nat → M Nat
  | 0, left, _ => pure left
  | _, 0, _ => pure 0
  | n + 1, left + 1, b => do
    if b = 0 then pure (left + 1)
    else
      let s ← get
      match nextScrub s with
      | none => do
        endPass
        doScrub n (left + 1) b
      | some (g, y) =>
        modify fun s => { s with weevil := { s.weevil with passStart := some (s.weevil.passStart.getD (tickNum s)) } }
        if lineBusy s (lineOfLoc s y) then
          passOver y
          advancePos g y
          doScrub n (left + 1) b
        else
          let c ← scrubLine y
          advancePos g y
          modify fun s => { s with weevil := { s.weevil with done := s.weevil.done + 1 } }
          doScrub n left (b - c)

/-! ### The sweep and the audit -/

/-- One slot of the home-cache sweep (R420): a grant of the Weevil's input, which passes over a Busy line (07 R303). A damaged dirty
tag starts a search, or when one runs already has its own within the step (log 9). -/
def sweepSlot (i : Nat) : M Unit := do
  let s ← get
  let sl := slotOf s i
  if slotV sl && !slotDamaged sl && lineBusy s (lineOfLoc s (slotLoc sl i)) then pure ()
  else if needsSearch s i && s.search.isNone then
    engineTurn qWeevil
    startSearch i
  else
  engineTurn qWeevil
  checkSlot i
  let s ← get
  let sl := slotOf s i
  if slotV sl && !slotDamaged sl then
    let _ ← cacheReadLine (slotLoc sl i)

def doSweep : Nat → Nat → M (Nat × Nat)
  | 0, b => pure (0, b)
  | n + 1, b => do
    if b = 0 then pure (n + 1, 0)
    else
      let i ← rdF R.SCRUB_HC_POS_INDEX
      sweepSlot i
      wrF R.SCRUB_HC_POS_INDEX (i + 1)
      doSweep n (b - 1)

/-- One step of the directory audit (08 R374, R375). -/
def auditSet : M Unit := do
  let s ← get
  let set := getF s R.DIR_AUDIT_POS_SET
  if !inRecovery s set then
    engineTurn qWeevil
    each (List.range 16) fun w => do
      if !wayHeld (← get) set w then checkWay set 2 w
  wrF R.DIR_AUDIT_POS_SET (set + 1)
  if set = 32767 then
    incF R.DIR_AUDIT_PASS_CNT_CNT
    raise pgDir 6

def doAudit : Nat → Nat → M (Nat × Nat)
  | 0, b => pure (0, b)
  | n + 1, b => do
    if b = 0 then pure (n + 1, 0)
    else
      auditSet
      doAudit n (b - 4)

/-! ### The slice -/

/-- HOUSEKEEPING_SLICE_START: the work of R419 in order, as far as HK_LEN lets it. -/
def doSliceStart : M Unit := do
  let s ← get
  if s.tick.running && weevilOn s && !s.tick.hkDone && !stretchOpen s &&
      decide (phaseAt s s.tick.hkStart ≤ s.tick.offset) then
    let on := scrubOn s
    let list := s.weevil.revisit
    modify fun s => { s with
      tick := { s.tick with hkDone := true },
      weevil := { s.weevil with revisit := [], done := 0, inSlice := true, cut := false } }
    let (b, tried) ← doRevisit (if on then list else []) (4 * s.tick.hkLen)
    let (a, b) ← doAudit (if getF s R.DIR_CTL_AUDIT_EN = 1 then getF s R.DIR_AUDIT_SETS else 0) b
    let (c, b) ← doSweep (if on then s.weevil.hcInForce else 0) b
    let l ← doScrub (s.weevil.linesInForce + 65536) (if on then s.weevil.linesInForce else 0) b
    modify fun s => { s with weevil := { s.weevil with cut := !tried || a != 0 || c != 0 || l != 0 } }

def execHousekeepingSliceStart (s : State) : Host.Outcome State Fault Refusal := finish doSliceStart s

/-- HOUSEKEEPING_SLICE_END (02 R43, R421). -/
def doSliceEnd : M Unit := do
  let s ← get
  if s.tick.running && s.weevil.inSlice && decide (phaseAt s (s.tick.hkStart + s.tick.hkLen) ≤ s.tick.offset) then
    modify fun s => { s with weevil := { s.weevil with inSlice := false, cut := false } }
    wrF R.SCRUB_DONE_LAST_N s.weevil.done
    if s.weevil.cut then
      incF R.TICK_HK_SHORT_CNT_CNT
      raise pgTick 4
    if s.weevil.done < s.weevil.linesInForce then
      incF R.SCRUB_SHORT_CNT_CNT
      raise pgScrub 3

def execHousekeepingSliceEnd (s : State) : Host.Outcome State Fault Refusal := finish doSliceEnd s

end Sys2Proof.Machine
end

