-- ==== Sys2Proof/Machine/Maint.lean ====
section
/-! DEFINITION. Upkeep of the directory and the home cache: SnpFlushSet recovery and repair flows (08 R365-R373), the eviction
buffer (09 R391-R393), flush (R389, R390), the syndrome search (R410-R414), fault injection (08 R376, 09 R422, R424). -/

namespace Sys2Proof.Machine

/-! ### Recovery of a set -/

/-- Send SnpFlushSet to the agents; a dead one counts as declared dead during the recovery (R382). -/
def sendFlushes (set : Nat) : List Nat → M Unit
  | [] => pure ()
  | a :: t => do
    if isDead (← get) a then recoveryDeath a
    else if ← sendSnoop a .snpFlushSet 0 false set then
      modify fun s => { s with recov := s.recov.map fun r => { r with pend := r.pend ++ [a] } }
    sendFlushes set t

/-- Does a way of a set record a line that an open window holds in Busy-Commit? -/
def windowWay (s : State) (set way : Nat) : Bool :=
  match viewWay s set way with
  | some (.stable tag _) => heldBy s s.fv.commit (lineOfEntry set tag) || heldBy s s.fv.release (lineOfEntry set tag)
  | _ => false

/-- SNP_FLUSH_SET_SEND (R368): no way of the set is Busy other than Busy-Lock. -/
def doFlushSend : M Unit := do
  let s ← get
  match s.recov with
  | some r =>
    if !r.sent && isRunning s && !(s.flows.any fun f => f.way.isSome && f.busy != .lock && setOf f.line == r.set) &&
        !((List.range 16).any (windowWay s r.set)) then
      modify fun s => { s with recov := some { r with sent := true } }
      sendFlushes r.set r.agents
  | none => pure ()

def execSnpFlushSetSend (s : State) : Host.Outcome State Fault Refusal := finish doFlushSend s

/-- Does a WrBack for a line of the set still run or wait? -/
def wbInSet (s : State) (set : Nat) : Bool :=
  (s.flows.any fun f => setOf f.line == set && ((f.req.op == .wrBack && f.phase != .alloc) || f.wbp != [])) ||
    (s.arb.waiting ++ s.chain).any fun r => r.op == .wrBack && setOf r.line == set

/-- Remove the flushed agents from one stable way (R372 step 2). -/
def clearFlushed (set : Nat) (agents : List Nat) (way : Nat) : M Unit := do
  match viewWay (← get) set way with
  | some (.stable tag st) =>
    let st' := agents.foldl (fun x a => dropAgent a x) st
    if st' != st then writeEntry (lineOfEntry set tag) way st'
  | _ => pure ()

/-- Start the allocation queue of a set: each waiting flow tries in grant order. -/
def restartAlloc (set : Nat) : Nat → M Unit
  | 0 => pure ()
  | n + 1 => do
    retryAlloc set
    restartAlloc set n

/-- SET_RECOVERY_END (R372). A set that waits for its recovery then starts it. -/
def doRecoveryEnd : M Unit := do
  let s ← get
  match s.recov with
  | some r =>
    if r.sent && r.pend == [] && !wbInSet s r.set then
      putEntry (entryKey r.set r.way) (freeEntry (entryKey r.set r.way))
      modify fun s => { s with recov := none }
      each (List.range 16) (clearFlushed r.set r.agents)
      wrF R.DIR_RECOVERY_BUSY 0
      incF R.DIR_FLUSH_CNT_CNT
      raise pgDir 4
      match (← get).recovWait with
      | n :: t =>
        modify fun s => { s with recovWait := t }
        startRecovery n
      | [] => pure ()
      restartAlloc r.set (s.flows.countP fun f => f.phase == .alloc && setOf f.line == r.set)
  | none => pure ()

def execSetRecoveryEnd (s : State) : Host.Outcome State Fault Refusal := finish doRecoveryEnd s

/-- REPAIR_FLOW: the repair flow of a line sends its snoops (R365). -/
def doRepairFlow (line : Line) : M Unit := do
  let s ← get
  match flowOf s line with
  | some f =>
    if f.req.op == .repair && f.phase == .search && isRunning s then
      let f := { f with phase := .snoop }
      putFlow f
      let f ← sendSnoops f (snoopsFor s f)
      putFlow f
      settleFlow line
  | none => pure ()

def execRepairFlow (line : BitVec 24) (s : State) : Host.Outcome State Fault Refusal := finish (doRepairFlow line.toNat) s

/-- A write of DIR.INJECT (R376). KIND 3 is reserved, with or without GO. -/
def dirInject (v : Nat) : M (List Nat) := do
  if v / 2 ^ 24 % 4 = 3 then pure [0xF0]
  else if v / 2 ^ 31 % 2 = 0 then pure []
  else
    modify fun s => { s with inject := s.inject ++ [(entryKey (v % 32768) (v / 2 ^ 16 % 16), v / 2 ^ 24 % 4)] }
    pure []

/-! ### The eviction buffer (09 R393) -/

/-- EBUF_DRAIN_START: the oldest PENDING entry starts its memory write. -/
def doDrainStart : M Unit := do
  let s ← get
  match s.ebuf.find? fun e => e.writing.isNone with
  | some e => modify fun s => { s with ebuf := s.ebuf.map fun x => if x.loc == e.loc then { x with writing := some s.now } else x }
  | none => pure ()

def execEbufDrainStart (s : State) : Host.Outcome State Fault Refusal := finish doDrainStart s

/-- EBUF_WRITE_DONE: the oldest WRITING entry is in memory. -/
def doWriteDone : M Unit := do
  match (← get).ebuf.find? fun e => e.writing.isSome with
  | some e => do
    ebComplete e
    resumeEvicts
  | none => pure ()

def execEbufWriteDone (s : State) : Host.Outcome State Fault Refusal := finish doWriteDone s

/-! ### Flush (R389, R390) -/

/-- The flush at one slot; true when it is passed over: its line is Busy, its tag is searched (R412), or a dirty line finds the
eviction buffer full (07 R312). -/
def flushSlot (i : Nat) : M Bool := do
  if needsSearch (← get) i then
    startSearch i
    pure true
  else
  checkSlot i
  let s ← get
  let sl := slotOf s i
  if !slotV sl then pure false
  else if slotD0 sl && decide (32 ≤ s.ebuf.length) then pure true
  else if lineBusy s (lineOfLoc s (slotLoc sl i)) then pure true
  else
    if slotD0 sl then ebPush ⟨slotLoc sl i, sl.data, none, true⟩
    invalidateSlot i
    pure false

/-- Visit slots in order; the slots passed over. -/
def flushSlots : List Nat → M (List Nat)
  | [] => pure []
  | i :: t => do
    let b ← flushSlot i
    let r ← flushSlots t
    pure (if b then i :: r else r)

/-- A write of 1 to HCACHE.CTL.FLUSH. -/
def startFlush : M Unit := do
  let s ← get
  if s.hflush.isNone then
    wrF R.HCACHE_STAT_FLUSH_BUSY 1
    let sk ← flushSlots (s.slots.map (·.1))
    modify fun s => { s with hflush := some ⟨65536, sk⟩ }

/-- FLUSH_DONE: slots passed over are tried again; the flush ends when none is left and the buffer holds no entry of it. -/
def doFlushDone : M Unit := do
  match (← get).hflush with
  | some f =>
    let sk ← flushSlots f.skipped
    let s ← get
    if sk == [] && !(s.ebuf.any (·.flush)) then
      modify fun s => { s with hflush := none }
      wrF R.HCACHE_STAT_FLUSH_BUSY 0
      raise pgHcache 5
    else modify fun s => { s with hflush := some ⟨65536, sk⟩ }
  | none => pure ()

def execFlushDone (s : State) : Host.Outcome State Fault Refusal := finish doFlushDone s

/-! ### The syndrome search (R410-R414) -/

/-- SYNDROME_SEARCH: a search that was started completes. -/
def doSearch : M Unit := do
  match (← get).search with
  | some x =>
    runSearch x.index
  | none => pure ()

def execSyndromeSearch (s : State) : Host.Outcome State Fault Refusal := finish doSearch s

/-! ### Injection (R422, R424) -/

/-- The stored bytes of a slot with bits of word 0, lane 0, inverted. -/
def flipSlotData (sl : Slot) (m : Nat) : Slot :=
  { sl with data := (sl.data.getD 0 0 ^^^ BitVec.ofNat 13 m) :: (List.range' 1 63).map fun i => sl.data.getD i 0 }

/-- A write of HCACHE.INJECT. KIND 5 to 7 are reserved, with or without GO. -/
def hcacheInject (v : Nat) : M (List Nat) := do
  let i := v % 65536
  let k := v / 2 ^ 16 % 8
  if 5 ≤ k then pure [0xF0]
  else if v / 2 ^ 31 % 2 = 0 then pure []
  else
    let sl := slotOf (← get) i
    putSlot i (match k with
      | 0 => { sl with tagw := sl.tagw ^^^ 0x800#12 }
      | 1 => { sl with tagw := sl.tagw ^^^ 0x200#12 }
      | 2 => { sl with tagw := sl.tagw ^^^ 0x003#12 }
      | 3 => flipSlotData sl 1
      | _ => flipSlotData sl 3)
    pure []

/-- A write of MEM.INJECT: the word named by INJECT_WA, when it is backed. BIT 13 to 15 are reserved, with or without GO. -/
def memInject (v : Nat) : M (List Nat) := do
  let s ← get
  let wa := getF s R.MEM_INJECT_WA_WA
  let a := wa * 16 + v % 16
  let b := v / 16 % 16
  let k := v / 2 ^ 8 % 4
  if 13 ≤ b then pure [0xF0]
  else if v / 2 ^ 31 % 2 = 0 then pure []
  else
    if !backedSa (wa * 16) then pure ()
    else if k = 0 then modify fun s => memPut s a (memByte s a ^^^ BitVec.ofNat 13 (2 ^ b))
    else if k = 1 then modify fun s => memPut s a (memByte s a ^^^ BitVec.ofNat 13 (2 ^ b + 2 ^ ((b + 1) % 13)))
    else if k = 2 then modify fun s => { s with memFold := s.memFold ++ [wa] }
    else
      memPutWord wa (List.replicate 16 poisonByte)
      incF R.MEM_POISON_WR_CNT_CNT
    pure []

end Sys2Proof.Machine
end

