-- ==== Sys2Proof/Machine/CfgWrite.lean ====
section
/-! DEFINITION. Writes of the configuration space (00 R13, R16-R19, R876, R877; 17): the checks of whole registers, what a write
starts, multi-word values, the page header, alias pages. A write answers the codes under which it was refused. -/

namespace Sys2Proof.Machine

/-- Is a field of a written word not 0? -/
def bitOf (v : Word) (f : Fld) : Bool := fieldOf v f.lo f.w != 0

def isImage (path : Path) : Bool := path == .image

/-- The service port or the I²C target of this hub. -/
def isService (path : Path) : Bool := path == .spi || path == .i2c

/-! ### Checks of a whole register -/

/-- The phase layout of R40, as a register set holds it. -/
def layoutOk (regs : KV Word) : Bool :=
  let f := fun (x : Fld) => fieldOf (getReg regs x.key) x.lo x.w
  decide (f R.TICK_COMMIT_BUDGET_NS10 < f R.TICK_RELEASE_NS10) &&
    decide (f R.TICK_RELEASE_NS10 + 400 ≤ f R.TICK_HK_START_NS10) &&
    decide (f R.TICK_HK_START_NS10 + f R.TICK_HK_LEN_NS10 + f R.TICK_PRECOMMIT_NS10 ≤ f R.TICK_PERIOD_NS10) &&
    decide (f R.TICK_IN_CUTOFF_NS10 + f R.TICK_PRECOMMIT_NS10 ≤ f R.TICK_PERIOD_NS10)

/-- Would a write of TICK.PERIOD or a phase register break R40: a layout that holds would no longer hold (R41)? -/
def breaksLayout (s : State) (key : Nat) (w : Word) : Bool :=
  phaseKeys.contains key && layoutOk s.regs && !layoutOk (setReg s.regs key w)

/-- Two ranges of a window overlap. -/
def winOverlap (a b n m : Nat) : Bool := decide (a < b + m) && decide (b < a + n)

/-- The first breach of R110 by a write of WINk.CTL that gives EN and SIZE_LOG2. -/
def winBreach (s : State) (p k : Nat) (en : Bool) (size : Nat) : Option Nat :=
  let aa := baseAa s p k
  let ha := baseHa s p k
  let n := 2 ^ size
  if size < 12 ∨ 29 < size then some 0xF0
  else if winEn s p k && portUp s p && (!en || size != getF s (R.APORT_WIN_CTL_SIZE_LOG2 p k)) then some 0xE2
  else if !en then none
  else if aa % n != 0 || ha % n != 0 || decide (2 ^ 30 < ha + n) then some 0xE1
  else if (List.range 16).any fun j => j != k && winEn s p j &&
      (winOverlap aa (winAa s p j) n (winSize s p j) || winOverlap ha (winHa s p j) n (winSize s p j)) then some 0xE0
  else none

/-- Is a base of a live window (R114)? -/
def liveBase (s : State) (p k : Nat) : Bool := winEn s p k && portUp s p

/-- EVT.SCHED_BASE names a 1 KiB-aligned block in an output FV region (02 R84); the image loader checks the region at its end. -/
def schedOk (s : State) (image : Bool) (v : Word) : Bool :=
  let line := fieldOf v 0 24
  line % 16 == 0 && (image || fvHolds s (line * 64) 1024 true)

/-- POWER.CTL.REQ that asks for STANDBY when it is not accepted (16 R746, R764). -/
def standbyRefused (s : State) (v : Word) : Bool := fieldOf v 0 2 == 2 && !inStandby s && !standbyOk s

/-- The word and the codes after the checks that look at a whole register. -/
def checkWord (s : State) (image : Bool) (page off : Nat) (old v : Word) (r : Word × List Nat) : Word × List Nat :=
  let (w, codes) := r
  let k := (off - 0x200) / 16
  if page = 0x01 then
    if breaksLayout s (regKey page off) w && !image then (old, codes ++ [0xF0]) else r
  else if page = 0x02 ∧ off = 0x040 then
    if standbyRefused s v then
      (withField w 0 2 (fieldOf old 0 2), if fieldOf v 0 2 = fieldOf old 0 2 then codes else codes ++ [0xF2])
    else r
  else if page = 0x02 ∧ off = 0x054 then
    if fieldOf w 0 5 = 19 ∧ !pairOn s then
      (withField w 0 5 (fieldOf old 0 5), if fieldOf old 0 5 = 19 then codes else codes ++ [0xF0])
    else r
  else if page = 0x03 ∧ off = 0x050 then (old, codes)
  else if 0x08 ≤ page ∧ page ≤ 0x17 ∧ off = 0x040 then
    if bitOf old (R.APORT_CTL_EN 0) && !bitOf w (R.APORT_CTL_EN 0) && portUp s (page - 8) && higherReset s then
      (withField w 0 1 1, codes ++ [0xF2])
    else r
  else if 0x08 ≤ page ∧ page ≤ 0x17 ∧ 0x200 ≤ off ∧ off % 16 = 0xC then
    match winBreach s (page - 8) k (bitOf v (R.APORT_WIN_CTL_EN 0 0)) (fieldOf v 4 5) with
    | some c => (old, [c])
    | none => r
  else if 0x08 ≤ page ∧ page ≤ 0x17 ∧ 0x200 ≤ off then
    if liveBase s (page - 8) k && w != old then (old, codes ++ [0xE2]) else r
  else if page = 0x6C ∧ off = 0x054 then
    if schedOk s image v then r else (old, codes ++ [0xF0])
  else r

/-! ### What a write starts -/

/-- RUN, as a write or an image record left it (02 R32, R94; 12 R516, R530): on a master before the join, and on a hub 1 whose
PAIR.CTL.EN is 0, it reads 0 and is kept aside. -/
def runWritten (old : Bool) : M Unit := do
  let s ← get
  let run := getF s R.TICK_CTL_RUN == 1
  if awaitsJoin s || (isHub1 s && !pairOn s) then
    wrF R.TICK_CTL_RUN 0
    setPair fun ps => { ps with runHeld := run }
  else if run then startIfRun
  else if old && s.tick.running then stopTick
  else onlyIf old takeStopped

/-- PAIR.CTL.EN changes: RUN moves to the held RUN of a master and back on a hub 1; a cleared EN takes the link down. -/
def pairEnChanged (en : Bool) : M Unit := do
  let s ← get
  if en then
    if isMaster s then
      setPair fun ps => { ps with runHeld := ps.runHeld || getF s R.TICK_CTL_RUN == 1 }
      wrF R.TICK_CTL_RUN 0
    else
      wrF R.TICK_CTL_RUN s.pair.runHeld.toNat
      setPair fun ps => { ps with runHeld := false }
  else if pairLstate s = 6 || pairLstate s = 7 then pairLoss
  else if pairLstate s ≠ 8 then
    wrF R.PAIR_STAT_LSTATE 0
    setPair fun ps => { ps with link := Link.empty, echoes := [] }

/-- APORTn.CTL: LRESET, and EN cleared with the link up (04 R199, R205). -/
def aportCtl (p : Nat) (old new v : Word) : M (List Nat) := do
  let s ← get
  if bitOf old (R.APORT_CTL_EN 0) && !bitOf new (R.APORT_CTL_EN 0) then
    if portUp s p then linkReset p
    else if lstate s p ≠ 0 then
      wrF (R.APORT_STAT_LSTATE p) 0
      setPort p fun pt => { Port.empty with heldDown := pt.heldDown }
  if bitOf v (R.APORT_CTL_LRESET 0) then
    if higherReset s then pure [0xF2]
    else
      linkReset p
      pure []
  else pure []

/-- FPORTp.CTL (13 R620, R621). -/
def fportCtl (p : Nat) (old new v : Word) : M (List Nat) := do
  let s ← get
  if bitOf old (R.FPORT_CTL_EN 0) && !bitOf new (R.FPORT_CTL_EN 0) then linkDown p
  if !bitOf old (R.FPORT_CTL_EN 0) && bitOf new (R.FPORT_CTL_EN 0) then startAn p
  if bitOf v (R.FPORT_CTL_LRESET 0) then
    if higherReset s then pure [0xF2]
    else
      fportReset p
      pure []
  else pure []

/-- FAIL_CTL: HALT, RESTART (15 R677, R679). -/
def failCtl (v : Word) : M (List Nat) := do
  if bitOf v R.GLOBAL_FAIL_CTL_HALT then haltDomain 4
  let s ← get
  if bitOf v R.GLOBAL_FAIL_CTL_RESTART then
    if isHalted s && s.dreset then pure [0xF2]
    else
      doRestart
      pure []
  else pure []

/-- GLOBAL.CTL: a warm reset, or a domain reset. -/
def globalCtl (v : Word) : M (List Nat) := do
  if bitOf v R.GLOBAL_CTL_SOFT_RESET then
    warmReset 5
    pure []
  else if bitOf v R.GLOBAL_CTL_DRESET then writeDreset
  else pure []

/-- TICK.CTL: RUN and FAULT_CLR (02 R55). -/
def tickCtl (old v : Word) : M Unit := do
  runWritten (bitOf old R.TICK_CTL_RUN)
  let s ← get
  if bitOf v R.TICK_CTL_FAULT_CLR && getF s R.TICK_STAT_FAULTED == 1 then setTick fun t => { t with resumeAtEdge := true }

/-- A write of an entry's CTL (13 R603, R605). -/
def entryCtl (e : Nat) : M Unit := do
  let s ← get
  checkEntry e
  if getF s (R.STATION_ENTRY_CTL_EN e) = 1 then
    wrF (R.STATION_STATUS_NODE e) ((entryNode s e).getD 0)
    startBind e
  else setStn e fun x => { x with waiting := false }

/-- EVT.PINn: a new mode places the pin; INIT reaches an output that still drives it (02 R75); under FAULT a
new FAULT_ST is driven (R56). -/
def pinWritten (n : Nat) (old new : Word) : M Unit := do
  let s ← get
  if fieldOf old 0 2 ≠ fieldOf new 0 2 then placePin n
  else if isFaulted s && isOutput s n then onlyIf (fieldOf old 4 2 != fieldOf new 4 2) (drivePinFault n)
  else if fieldOf old 6 1 ≠ fieldOf new 6 1 && isOutput s n && !s.evt.took && stage s == 4 then
    drivePin n (some (bitOf new (R.EVT_PIN_INIT 0)))

/-- PEEK_CTL with GO (18 R815, R816). -/
def peekGo (v : Nat) : M (List Nat) := do
  let s ← get
  let a := getF s R.DEBUG_PEEK_ADDR_ADDR
  if v / 2 ^ 31 % 2 = 0 then pure (if v % 4 = 3 then [0xF0] else [])
  else if v % 4 = 3 || s.svc.peek.isSome || (v % 4 = 0 && !backedSa (a * 16)) then
    wrF R.DEBUG_PEEK_STAT_ERR 1
    pure (if v % 4 = 3 then [0xF0] else [])
  else
    modify fun s => { s with svc := { s.svc with peek := some (v % 4, v / 16 % 4, a) } }
    wrF R.DEBUG_PEEK_STAT_BUSY 1
    wrF R.DEBUG_PEEK_STAT_ERR 0
    pure []

/-- A write of TRACE_CTL clears the trace (18 R817). -/
def clearTrace : M Unit := do
  each (List.range 64) fun i => wrF (R.DEBUG_TRACE_VALID i) 0
  wrF R.DEBUG_TRACE_WP_WP 0

/-- A write of LOAD appends four bytes to the 4 MiB load buffer. -/
def loadWord (v : Word) : M Unit := modify fun s =>
  if s.loadBuf.length + 4 ≤ 0x400000 then
    { s with loadBuf := s.loadBuf ++ (List.range 4).map fun i => v.extractLsb' (8 * i) 8 }
  else s

/-- The BOOT page: GO, the flash fields, the load buffer. `check` is what LOAD_CTL.CHECK does. -/
def bootWritten (check : M Unit) (off : Nat) (v : Word) : M (List Nat) := do
  if off = 0x040 then
    if bitOf v R.BOOT_CTL_GO then bootGo else pure []
  else if off = 0x050 then
    putFlashData v
    pure []
  else if off = 0x054 then flashCmd v.toNat
  else if off = 0x05C then
    loadWord v
    pure []
  else if off = 0x060 then
    if bitOf v R.BOOT_LOAD_CTL_START then modify fun s => { s with loadBuf := [] }
    if bitOf v R.BOOT_LOAD_CTL_CHECK then check
    pure []
  else pure []

/-- The SECURE page: key words and PROG_CTL. -/
def secureWritten (path : Path) (off : Nat) (v : Word) : M Unit := do
  if 0x080 ≤ off ∧ off < 0x0A0 then
    modify fun s => { s with keyProg := kvSet (fun _ => (0 : Word)) s.keyProg ((off - 0x080) / 4) v }
  else onlyIf (off = 0x0A0) (otpGo (isService path) v.toNat)

/-- A mailbox of an MBOX page: SVC_CMD, and CTL, under which an outbound mailbox sends (14 R648, R652). -/
def mboxWritten (page off : Nat) (v : Word) : M Unit := do
  let s ← get
  let m := (page - 0x60) * 16 + (off - 0x100) / 0x40 + (if pairOn s then 128 * hubNo s else 0)
  if 0x100 ≤ off then
    if off % 0x40 = 0x38 then svcCmd m v.toNat
    else onlyIf (off % 0x40 = 0x00) (sendNext m 17)

/-- WINk.CTL: a write that breaks no rule of R110 gives the window its bases, but for one that is enabled on a live port, which
a write can only leave as it is (03 R111, R114). -/
def winWritten (p k : Nat) (old v : Word) : M Unit := do
  let s ← get
  onlyIf (!(bitOf old (R.APORT_WIN_CTL_EN 0 0) && portUp s p) && (winBreach s p k (bitOf v (R.APORT_WIN_CTL_EN 0 0)) (fieldOf v 4 5)).isNone)
    (latchWindow p k)

/-- What a register write does beside its fields' values: `old` and `new` the stored word before and after it, `v` the word
written. Codes of refused actions. -/
def written (check : M Unit) (path : Path) (page off : Nat) (old new v : Word) : M (List Nat) := do
  if page = 0x00 then
    if off = 0x040 then globalCtl v else if off = 0x0C0 then failCtl v else pure []
  else if page = 0x01 then
    onlyIf (off = 0x040) (tickCtl old v)
    pure []
  else if page = 0x02 then
    if off = 0x040 then
      onlyIf (fieldOf old 0 2 != fieldOf new 0 2) (powerRequest (fieldOf new 0 2))
      onlyIf (bitOf v R.POWER_CTL_SHUTDOWN) powerFail
    pure []
  else if page = 0x03 then bootWritten check off v
  else if 0x08 ≤ page ∧ page ≤ 0x17 then
    if off = 0x040 then aportCtl (page - 8) old new v
    else
      onlyIf (0x200 ≤ off && off % 16 == 0xC) (winWritten (page - 8) ((off - 0x200) / 16) old v)
      pure []
  else if page = 0x18 then
    if off = 0x040 then
      if bitOf old R.PAIR_CTL_EN != bitOf new R.PAIR_CTL_EN then pairEnChanged (bitOf new R.PAIR_CTL_EN)
      if bitOf v R.PAIR_CTL_LRESET then onlyIf (pairOn (← get)) pairLoss
    pure []
  else if 0x1C ≤ page ∧ page ≤ 0x1F then (if off = 0x040 then fportCtl (page - 0x1C) old new v else pure [])
  else if page = 0x20 then
    if off = 0x040 then
      if bitOf old R.FABRIC_CTL_EN != bitOf new R.FABRIC_CTL_EN then fabricEnable
      onlyIf (bitOf v R.FABRIC_CTL_REDISC) linkChange
    pure []
  else if page = 0x21 then
    if off = 0x040 ∨ off = 0x044 then checkQual
    else if 0x100 ≤ off ∧ off % 0x40 = 8 then entryCtl ((off - 0x100) / 0x40)
    else if 0x100 ≤ off ∧ off % 0x40 = 4 then
      let s ← get
      let e := (off - 0x100) / 0x40
      wrF (R.STATION_STATUS_NODE e) ((entryNode s e).getD 0)
    pure []
  else if page = 0x28 then
    if off = 0x044 then each ((List.range 22).filter fun q => v.getLsbD q) fun q => wrF (R.ARB_WAIT_MAX q) 0
    if off = 0x040 then each (List.range 22) checkStarve
    pure []
  else if page = 0x29 then
    onlyIf (off = 0x078 && bitOf v R.LOCK_FORCE_GO) (forceLock (fieldOf v 0 8))
    pure []
  else if page = 0x30 then (if off = 0x08C then dirInject v.toNat else pure [])
  else if page = 0x31 then
    if off = 0x080 then hcacheInject v.toNat
    else
      onlyIf (off = 0x040 && bitOf v R.HCACHE_CTL_FLUSH) startFlush
      pure []
  else if page = 0x32 then (if off = 0x064 then memInject v.toNat else pure [])
  else if page = 0x33 then
    -- 09 R432: EN=0 empties the revisit list.
    onlyIf (getF (← get) R.SCRUB_CTL_EN == 0) (modify fun s => { s with weevil := { s.weevil with revisit := [] } })
    pure []
  else if page = 0x38 then (if off = 0x040 then writeRegionCtl (isImage path) v.toNat else pure [])
  else if 0x40 ≤ page ∧ page < 0x60 then
    if off = 0x040 ∧ bitOf v (R.TENANT_CTL_RESET 0) then writeTenantReset (page - 0x40) else pure []
  else if 0x60 ≤ page ∧ page ≤ 0x67 then
    mboxWritten page off v
    pure []
  else if page = 0x6C then
    onlyIf (0x080 ≤ off && off < 0x0C0) (pinWritten ((off - 0x080) / 4) old new)
    pure []
  else if page = 0x78 then
    onlyIf (0xD00 ≤ off && off % 8 == 0) (wrReg page (off + 4) 0)
    pure []
  else if page = 0x7C then
    secureWritten path off v
    pure []
  else if page = 0xF0 then
    if off = 0x044 then peekGo v.toNat
    else
      onlyIf (off = 0x080) clearTrace
      pure []
  else pure []

/-! ### One register -/

/-- In WAIT or FAIL with AUTH_REQ=1 the service port and the I²C target write only the BOOT and SECURE pages (16 R731). -/
def authGated (s : State) (path : Path) (page : Nat) : Bool :=
  isService path && s.otp.authReq && (stage s == 2 || stage s == 5) && page != 0x03 && page != 0x7C

/-- Would a write change a field or start an action? -/
def actsOn (old v w : Word) (codes : List Nat) (rows : List FieldRow) : Bool :=
  w != old || codes != [] || rows.any fun r => r.acc == .wo && fieldOf v r.lo r.w != 0

/-- Do the mirrored fields of a register differ between two words (R532)? -/
def mirrorsDiffer (a b : Word) (rows : List FieldRow) : Bool :=
  rows.any fun r => r.mir && fieldOf a r.lo r.w != fieldOf b r.lo r.w

/-- Write one register word; the codes of its refusals, not yet recorded. -/
def writeWord (check : M Unit) (path : Path) (page off : Nat) (v : Word) : M (List Nat) := do
  let s ← get
  let image := isImage path
  let rows := rowsAt page off
  let old := getReg s.regs (regKey page off)
  let r := wordWrite s image page off old v rows
  if authGated s path page then pure (if actsOn old v r.1 r.2 rows then [0xF2] else [])
  else
    let (w, codes) := checkWord s image page off old v r
    if breaksLayout s (regKey page off) r.1 && !image then
      wrF R.TICK_STAT_LAYOUT_ERR 1
      raise pgTick 3
    wrReg page off w
    onlyIf (mirrorsDiffer old w rows) (mirrorWrite (regKey page off) w)
    let more ← written check path page off old w v
    pure (codes ++ more)

/-! ### Multi-word values (R13, R19, R773) -/

/-- Write the words of a value from the lowest to the highest: a held word, else the present one; the last is `v`. -/
def writeWords (check : M Unit) (path : Path) (held : KV Word) (page base : Nat) (v : Word) : Nat → Nat → M (List Nat)
  | _, 0 => pure []
  | i, n + 1 => do
    let off := base + 4 * i
    let cur := getReg (← get).regs (regKey page off)
    let c ← writeWord check path page off (if n = 0 then v else (noted held (regKey page off)).getD cur)
    let r ← writeWords check path held page base v (i + 1) n
    pure (c ++ r)

/-- A write of one word of a writable multi-word value. -/
def groupWrite (check : M Unit) (path : Path) (page off base word n : Nat) (v : Word) : M (List Nat) := do
  let pn := pathNo path
  let mine := fun (e : Nat × Word) => decide (regKey page base ≤ e.1) && decide (e.1 < regKey page base + 4 * n)
  if word + 1 = n then
    let held := (pathSt (← get) pn).held
    setPath pn fun ps => { ps with held := ps.held.filter fun e => !mine e }
    writeWords check path held page base v 0 n
  else
    setPath pn fun ps =>
      { ps with held := note (if word = 0 then ps.held.filter fun e => !mine e else ps.held) (regKey page off) v }
    pure []

/-! ### A page -/

/-- A register outside the header. An offset without a register, and DEBUG without DBG_EN, take no write (R15, 17 R796). -/
def bodyWrite (check : M Unit) (path : Path) (page off : Nat) (v : Word) : M (List Nat) := do
  let s ← get
  if rowsAt page off = [] then pure []
  else if page = 0xF0 ∧ getF s R.GLOBAL_SVC_CTL_DBG_EN = 0 then pure []
  else
    match groupOf page off with
    | some (base, word, n) =>
      if groupWritable page off then groupWrite check path page off base word n v else pure []
    | none => writeWord check path page off v

/-- Run an action on the interrupt registers of a page; a page that becomes pending joins `intQ` (15 R704). -/
def onPending (page : Nat) (m : M Unit) : M Unit := do
  let was := isPending (← get) page
  m
  if !was && isPending (← get) page then modify fun s => { s with intQ := s.intQ ++ [page] }

/-- FREEZE written 1 takes a snapshot of the page; written 0 it ends (R789). -/
def writeFreeze (page : Nat) (on : Bool) : M Unit := do
  wrF (pageFreeze page) on.toNat
  modify fun s =>
    let others := s.snaps.filter fun e => e.1 / 4096 != page
    let own := s.regs.filter fun e => e.1 / 4096 == page
    let taken := own.foldl (fun m e => kvSet regDflt m e.1 e.2) others
    { s with snaps := if on then taken else others }

/-- PAGE_CTL: EN writes its target field alone, then FREEZE and LOCK (R788-R790). -/
def writePageCtl (check : M Unit) (path : Path) (page : Nat) (en : Option Fld) (v : Word) : M (List Nat) := do
  let codes ← match en with
    | some f => do
      let cur := getReg (← get).regs f.key
      bodyWrite check path f.page f.off (withField cur f.lo f.w (fieldOf v 0 1))
    | none => pure []
  let s ← get
  if stage s == 0 then pure codes
  else if authGated s path page then
    let acts := v.getLsbD 1 != (getF s (pageFreeze page) == 1) || (v.getLsbD 2 && getF s (pageLock page) == 0)
    pure (if acts then codes ++ [0xF2] else codes)
  else
    onlyIf (v.getLsbD 1 || getF s (pageFreeze page) == 1) (writeFreeze page (v.getLsbD 1))
    onlyIf (v.getLsbD 2) (wrF (pageLock page) 1)
    pure codes

/-- ERR_CAP0.VALID clears the capture of a page (15 R701). -/
def clearCap (page : Nat) : M Unit := each [0x020, 0x024, 0x028, 0x02C] fun o => wrReg page o 0

/-- Events of a mask, from the lowest bit. -/
def forceEvents (page m : Nat) : M Unit := each ((List.range 32).filter m.testBit) (raise page)

/-- Would a write of a header register beside PAGE_CTL do anything? -/
def headerActs (s : State) (page off m : Nat) (v : Word) : Bool :=
  !bareHeader page && ((off == 0x014 && wordOf m != getReg s.regs (regKey page off)) || ((off == 0x018 || off == 0x01C) && m != 0) ||
    (off == 0x020 && v.getLsbD 8))

/-- A header register. Reserved interrupt bits take no write (R791). -/
def headerWrite (check : M Unit) (path : Path) (page off : Nat) (en : Option Fld) (v : Word) : M (List Nat) := do
  let s ← get
  let m := Nat.land v.toNat (irqMask page)
  if off = 0x004 then writePageCtl check path page en v
  else if authGated s path page then
    pure (if headerActs s page off m v then [0xF2] else [])
  else
    if bareHeader page then pure ()
    else if off = 0x014 then onPending page (wrReg page off (wordOf m))
    else if off = 0x018 then
      each [offIrqStat, offIrqRaw] fun o =>
        wrReg page o (wordOf (Nat.land (getReg s.regs (regKey page o)).toNat (2 ^ 32 - 1 - m)))
    else if off = 0x01C then forceEvents page m
    else onlyIf (off = 0x020 && v.getLsbD 8) (clearCap page)
    pure []

/-- A refusal that no page records: that of a write to an unassigned page, which R775 counts by naming R18 (DEDUCED, log 128). -/
def unassignedCode : Nat := 0

/-- Write a register of a page of this hub; the refusal is recorded once, in that page (R876). -/
def writeNative (check : M Unit) (path : Path) (page off : Nat) (v : Word) : M (List Nat) := do
  match pageInfo page with
  | none => pure [unassignedCode]
  | some info =>
    let codes ← if off < 0x040 then headerWrite check path page off info.2.2 v else bodyWrite check path page off v
    recordRefusal page codes
    pure codes

/-- Write a register of the partner over the pair link; without a partner the write is discarded and noted (R768). -/
def writePartner (pn page off : Nat) (v : Word) : M Unit := do
  if hasPartner (← get) then sendPair (.cfgWrite pn (caOf page off) v)
  else wrF R.GLOBAL_SVC_STAT_PARTNER_ERR 1

/-- Write a register in this hub's space, alias pages among them (R797-R799). -/
def writeHere (check : M Unit) (path : Path) (page off : Nat) (v : Word) : M (List Nat) := do
  let s ← get
  if aliasPage s page then
    match aliasTarget s page off with
    | .own =>
      onlyIf (off = 0x020 && v.getLsbD 8) (clearCap page)
      pure []
    | .reg p o => writeNative check path p o v
    | .partner p o =>
      writePartner (pathNo path) p o v
      pure []
    | .removed =>
      errCapFree page 0xF5
      pure []
    | .empty => pure []
  else writeNative check path page off v

end Sys2Proof.Machine
end

