-- ==== Sys2Proof/Machine/Image.lean ====
section
/-! DEFINITION. The configuration image (16 R733-R740): its checks, its records, image defaults, and the end of stage LOAD. -/

namespace Sys2Proof.Machine

/-! ### Where an image stands -/

/-- A flash slot, or the load buffer with what it held when the check began. -/
inductive ImgSrc where
  | slot (n : Nat)
  | buffer (bs : List Nat)
  deriving DecidableEq, Repr

def imgBytes (s : State) (src : ImgSrc) (o n : Nat) : List Nat :=
  match src with
  | .slot k => flashBytes s (0x400000 * k + o) n
  | .buffer bs => (bs.drop o).take n

/-- A little-endian field. -/
def imgField (s : State) (src : ImgSrc) (o n : Nat) : Nat := bytesToNat (imgBytes s src o n)

def imgFlag (s : State) (src : ImgSrc) (b : Nat) : Bool := (imgField s src 6 2).testBit b

def imgLen (s : State) (src : ImgSrc) : Nat := imgField s src 8 4

/-- Bytes that the image takes: LEN, its CRC, its tag. -/
def imgSize (s : State) (src : ImgSrc) : Nat := imgLen s src + 4 + if imgFlag s src 0 then 32 else 0

/-- Bytes that are there. -/
def imgRoom : ImgSrc → Nat
  | .slot _ => 0x400000
  | .buffer bs => bs.length

/-! ### The checks before the records (R738) -/

/-- Does LEN fit: at least the header, a multiple of 8, at most 4 MiB - 36, and the whole image there (R735)? -/
def lenOk (s : State) (src : ImgSrc) : Bool :=
  let n := imgLen s src
  decide (64 ≤ n) && n % 8 == 0 && decide (n ≤ 0x400000 - 36) && decide (imgSize s src ≤ imgRoom src)

/-- The first failing check of the header; 0 when it passes. -/
def headerErr (s : State) (src : ImgSrc) : Nat :=
  if imgField s src 0 4 ≠ 0x4B583249 ∨ imgField s src 4 2 ≠ 1 then 1
  else if imgField s src 16 1 ≠ 0x10 then 2
  else if !lenOk s src then 3
  else 0

/-- The tag is the HMAC over bytes 0 to LEN + 3 under the OTP key (R739). -/
def tagOk (s : State) (src : ImgSrc) : Bool :=
  s.otp.keyValid && imgBytes s src (imgLen s src + 4) 32 == hmac (keyBytes s) (imgBytes s src 0 (imgLen s src + 4))

/-- Is the image for this hub? -/
def roleOk (s : State) (src : ImgSrc) : Bool := if imgFlag s src 1 then imgFlag s src 2 == isHub1 s else !isHub1 s

/-- The first failing check before the records. -/
def imageErr (s : State) (src : ImgSrc) : Nat :=
  if headerErr s src ≠ 0 then headerErr s src
  else if crc32 (imgBytes s src 0 (imgLen s src)) ≠ imgField s src (imgLen s src) 4 then 4
  else if s.otp.authReq && !imgFlag s src 0 then 5
  else if imgFlag s src 0 && !tagOk s src then 6
  else if !roleOk s src then 7
  else 0

/-! ### Records (R736, R737) -/

/-- A record: its first word and VALUE. -/
def imgRecs (s : State) (src : ImgSrc) : List (Nat × Word) :=
  (List.range ((imgLen s src - 64) / 8)).map fun i =>
    (imgField s src (64 + 8 * i) 4, BitVec.ofNat 32 (imgField s src (68 + 8 * i) 4))

def recPage (w : Nat) : Nat := w / 2 ^ 8 % 256

def recOff (w : Nat) : Nat := w / 2 ^ 16 % 4096

/-- The register that a REG record writes, as a key: EN of PAGE_CTL stands for its target (17 R788). -/
def recKey (s : State) (w : Nat) : Nat :=
  let (page, off) :=
    if aliasPage s (recPage w) then
      match aliasTarget s (recPage w) (recOff w) with
      | .reg p o => (p, o)
      | _ => (recPage w, recOff w)
    else (recPage w, recOff w)
  if off = 0x004 then
    match pageInfo page with
    | some (_, _, some f) => f.key
    | _ => regKey page off
  else regKey page off

/-- The image default of a field: on hub 1 the seed of the filter is its own (08 R354). -/
def imgDflt (s : State) (r : FieldRow) : Nat :=
  if isHub1 s && r.page = R.DIR_LFSR_SEED_SEED.page && r.off = R.DIR_LFSR_SEED_SEED.off then 0x1D2B else r.dflt

/-- A register word with its image fields at their defaults, as a write that does nothing else. -/
def defaultWord (s : State) (page off : Nat) (old : Word) : Word :=
  (rowsAt page off).foldl (fun w r =>
    match r.acc with
    | .w1c | .w1s | .wo => withField w r.lo r.w 0
    | _ => if r.img then withField w r.lo r.w (imgDflt s r) else w) old

/-- A field for which the image holds no record takes its image default (R737): a write of each such register that now holds
another value. -/
def imageDefaults (keys : List Nat) : M Unit := do
  each ((← get).regs.filter fun e => !keys.contains e.1) fun e => do
    let s ← get
    let page := e.1 / 4096
    let off := e.1 % 4096
    if off = offIrqEn then wrReg page off 0
    else if (rowsAt page off).any (·.img) && 0x040 ≤ off then
      let old := getReg s.regs e.1
      let w := defaultWord s page off old
      if (rowsAt page off).any fun r => r.img && fieldOf w r.lo r.w != fieldOf old r.lo r.w then
        let _ ← writeWord (pure ()) .image page off w

/-- Is a refusal one of R16, R17 or R18 (and not of LOCK or of a rule that accepts writes only in some state)? -/
def failsRecord (c : Nat) : Bool := [0xF0, 0xE0, 0xE1, 0xE2].contains c

/-- A reset or a power failure has begun. -/
def cutShort (s : State) : Bool := stage s == 0 || s.power.hold

/-- Apply the records in image order; answers whether each passed. -/
def applyRecs (check : M Unit) : List (Nat × Word) → M Bool
  | [] => pure true
  | (w, v) :: t => do
    let s ← get
    if cutShort s then pure true
    else if w % 256 = 2 then applyRecs check t
    else if w % 256 ≠ 1 || ((pageInfo (recPage w)).isNone && !aliasPage s (recPage w)) then pure false
    else
      let codes ← writeHere check .image (recPage w) (recOff w) v
      if codes.any failsRecord then pure false else applyRecs check t

/-! ### The end of an image (R738, R740) -/

/-- A record of EVT.SCHED_BASE names a block of an output FV region of the set that the image brings (02 R84). Hub 1 has that set
only from the join on (12 R529). -/
def schedFails (s : State) (keys : List Nat) : Bool :=
  !isHub1 s && keys.contains R.EVT_SCHED_BASE_LINE.key &&
    !schedOk { s with active := shadowSet s } false (getReg s.regs R.EVT_SCHED_BASE_LINE.key)

/-- The applied configuration fails R40 or R120. On hub 1 the fields that they check are mirrored (12 R532). -/
def configFails (s : State) : Bool := !isHub1 s && (!layoutOk s.regs || (applyFails s (shadowSet s)).isSome)

/-- The offsets of ERR_CAP0-3 (17 R786). -/
def capOff (off : Nat) : Bool := decide (0x020 ≤ off ∧ off < 0x030)

/-- A word whose written fields are those of another word. -/
def undoWord (page off : Nat) (now before : Word) : Word :=
  if off = 0x004 ∨ off = offIrqEn ∨ capOff off = true then before
  else (rowsAt page off).foldl (fun w r =>
    match r.acc with
    | .rw | .rwl | .rws => withField w r.lo r.w (fieldOf before r.lo r.w)
    | _ => w) now

/-- No applied value stays (R740): before RUN every field that is written has its reset value, in RUN its value before the
load. What the records' refusals captured goes too. -/
def undoImage (old : State) : M Unit := modify fun s =>
  let back := fun (k : Nat) =>
    if stage s == 4 || rwsKeys.contains k || capOff (k % 4096) then getReg old.regs k
    else if isHub1 s && k == R.DIR_LFSR_SEED_SEED.key then 0x1D2B#32 else getReg [] k
  { s with
    regs := (s.regs ++ old.regs).foldl (fun rs e =>
      setReg rs e.1 (undoWord (e.1 / 4096) (e.1 % 4096) (getReg s.regs e.1) (back e.1))) s.regs,
    wins := if stage s == 4 then old.wins else [],
    pair := { s.pair with runHeld := stage s == 4 && old.pair.runHeld } }

/-- The image is in force: its region set too (11 R511). -/
def imageTaken (src : ImgSrc) (seq : Nat) : M Unit := do
  wrF R.BOOT_STAT_LOADED 1
  match src with
  | .slot n => wrF R.BOOT_STAT_SLOT n
  | .buffer _ => pure ()
  wrF R.BOOT_IMG_SEQ_SEQ seq
  modify fun s => { s with imgRegs := s.regs, pair := { s.pair with loadedAt := some s.now } }
  loadLfsr
  takeSet (shadowSet (← get)) true

/-- An image whose tag fails (R739). Which tenant and agent the event shows is left open. -/
def authFail : M Unit := do
  incF R.SECURE_AUTH_FAIL_CNT_CNT
  let t ← drawWord
  let a ← drawWord
  secEvent 6 (t.toNat % 32) (a.toNat % 32)

/-- Apply an image that has passed the checks before its records. -/
def applyImage (check : M Unit) (src : ImgSrc) : M Nat := do
  let old ← get
  let recs := imgRecs old src
  let keys := (recs.filter fun r => r.1 % 256 == 1).map fun r => recKey old r.1
  let seq := imgField old src 12 4
  imageDefaults keys
  let ok ← applyRecs check recs
  dropPath (pathNo .image)
  let s ← get
  if cutShort s then pure 0
  else if !ok || schedFails s keys then
    undoImage old
    pure 8
  else if configFails s then
    undoImage old
    pure 9
  else
    imageTaken src seq
    pure 0

/-- Check and apply an image: its ERR, 0 for a valid load (or for one that a reset ended). `check` is what a LOAD_CTL.CHECK
among its records does. -/
def loadImage (check : M Unit) (src : ImgSrc) : M Nat := do
  let e := imageErr (← get) src
  if e = 0 then applyImage check src
  else
    onlyIf (e = 6) authFail
    pure e

/-! ### LOAD_CTL.CHECK (R731, R761) -/

/-- Check the load buffer. BOOT.STAT.ERR takes the code of a failing check. -/
def checkBuffer (check : M Unit) : M Unit := do
  let e ← loadImage check (.buffer ((← get).loadBuf.map (·.toNat)))
  onlyIf (e != 0 && !cutShort (← get)) (wrF R.BOOT_STAT_ERR e)

/-- What CHECK does. The buffer's own image starts no second check, which would never end (log 62). -/
def checkNow : M Unit := checkBuffer (pure ())

/-! ### The end of stage LOAD (R726, R729, R733) -/

/-- Which slot to try first, of those whose header passes: the later SEQ; between equal ones, and between two that fail, the spec
names none. -/
def firstSlot : M Nat := do
  let s ← get
  let a := headerErr s (.slot 0) == 0
  let b := headerErr s (.slot 1) == 0
  let x := imgField s (.slot 0) 12 4
  let y := imgField s (.slot 1) 12 4
  if a && !b then pure 0
  else if b && !a then pure 1
  else if a && x != y then pure (if later 32 y x then 1 else 0)
  else pure (← drawBool).toNat

/-- Load from flash: the other slot when the first fails; ERR keeps the first slot's code. -/
def loadFlash : M Bool := do
  let k ← firstSlot
  let e ← loadImage checkNow (.slot k)
  if e = 0 then pure true
  else
    let e2 ← loadImage checkNow (.slot (1 - k))
    onlyIf (!cutShort (← get)) (wrF R.BOOT_STAT_ERR e)
    pure (e2 = 0)

/-- LOAD_COMPLETE: the zero fill is done and the image is applied. -/
def doLoadComplete : M Unit := do
  let s ← get
  if powered s && stage s == 1 then
    let sel := getF s R.BOOT_STAT_BOOTSEL
    if sel = 0 || sel = 2 then
      let ok ← loadFlash
      onlyIf (!cutShort (← get)) (wrF R.BOOT_STAT_STAGE (if !ok then 5 else if sel = 0 then 3 else 2))
    else wrF R.BOOT_STAT_STAGE 2

def execLoadComplete (s : State) : Host.Outcome State Fault Refusal := finish doLoadComplete s

end Sys2Proof.Machine
end

