-- ==== Sys2Proof/Machine/MsgCmd.lean ====
section
/-! DEFINITION. The commands of the MSG channel's mailboxes, doorbells and cargo buffers (14): admission, the hub that
executes them, their effects and answers, `DbNotify`, and the MBX frames of the fabric. -/

namespace Sys2Proof.Machine

/-! ### Where an operation runs (R624-R628) -/

/-- The hub an operation runs on. -/
inductive MsgHub where | here | partner | absent
  deriving DecidableEq, Repr

/-- The hub that holds mailbox m (R627). -/
def mboxHub (s : State) (m : Nat) : MsgHub :=
  if holdsMbox s m then .here else if pairOn s then .partner else .absent

/-- The hub whose pool HUB names (R627). -/
def poolHub (s : State) (hub : Bool) : MsgHub :=
  if pairOn s then (if hub.toNat == hubNo s then .here else .partner) else if hub then .absent else .here

/-- The hub that holds a tenant's doorbell word (R639). -/
def wordHub (s : State) (t : Nat) : MsgHub :=
  if pairOn s && getF s (R.TENANT_DB_CTL_AGENT t) / 16 != hubNo s then .partner else .here

/-- Open the tag of an MSG request; `ha` keeps the mailbox of a TAKE (R669). -/
def openMsgTag (p tag cls op tenant ha : Nat) (remote : Bool) : M Unit := do
  let s ← get
  openTag p tag cls op tenant 0 ha s.nextId remote false
  modify fun s => { s with nextId := s.nextId + 1 }

/-- What an MSG request is at its port: its opcode, ledger class, code for a field error, the hub it runs on with the
code for a hub that the domain does not have, the message-specific bits for the partner, and the mailbox of a TAKE. -/
structure MsgOp where
  opcode : Nat
  cls : Nat
  field : Option Nat
  hub : MsgHub
  absent : Nat
  spec : Nat
  mbx : Nat
  deriving DecidableEq, Repr

/-- An MSG operation at its port: tag, steps 1 and 2 of admission (03 R143), the field checks (R625), then the engine
here or the partner's (R627, 12 R545). -/
def localMsg (p tag t : Nat) (o : MsgOp) (data : LineData) (run : MsgReq → M Unit) : M Unit := do
  let s ← get
  if lstate s p = 6 || discards s then pure ()
  else if (tagOf (portOf s p) tag).isSome then protoErr p 5 o.opcode
  else if !tenantOk s p t then
    admissionFail p t 0 0x01
    refuseAt p tag t 0 0x01 o.cls
  else if tenantResetting s t then
    admissionFail p t 0 0x02
    refuseAt p tag t 0 0x02 o.cls
  else
    match o.field with
    | some code => refuseAt p tag t 0 code o.cls
    | none =>
      match o.hub with
      | .absent => refuseAt p tag t 0 o.absent o.cls
      | .here =>
        openMsgTag p tag o.cls o.opcode t o.mbx false
        run ⟨.port p, agentOf s p, tag, t, getF s (R.TENANT_STAT_EPOCH t)⟩
      | .partner =>
        if hasPartner s then
          openMsgTag p tag o.cls o.opcode t 0 true
          toPartner (.msgOp (agentOf s p) tag t (getF s (R.TENANT_STAT_EPOCH t)) o.opcode o.spec data)
        else
          incF R.PAIR_HOME_LOST_CNT_CNT
          refuseAt p tag t 0 0x40 o.cls

/-- An MSG operation of a header: at an agent's port, or from the partner for one of its agents, whose epoch `addr`
carries. The partner sends only operations that run here. -/
def msgRequest (h : Hdr) (o : State → MsgOp) (fs : List DFlit) (n : Option Nat) (run : MsgReq → M Unit) : M Unit := do
  let op := o (← get)
  match h.src with
  | .agent p =>
    if ← acceptMsg p.val h.ft.val h.vc.val 5 op.opcode h.tag.val fs n then
      localMsg p.val h.tag.val h.tenant.val op (quadsOf fs) run
  | .partner a => fromPair 5 fs.length do
    let s ← get
    if hasPartner s && !discards s && op.hub = .here && op.field.isNone then
      run ⟨.pair a.val, a.val, h.tag.val, h.tenant.val, h.addr.toNat % 256⟩
  | .engine _ => pure ()

/-- An operation that the mailbox engine executes (18 R807, event 0x0A). -/
def mboxEngine (t : Nat) : M Unit := perf 0x0A none (some t)

/-! ### Mailboxes (R633-R638) -/

/-- POST (R633-R635): the checks in order, the store, the answer. -/
def doPost (m : Nat) (msg : Quad) (r : MsgReq) : M Unit := do
  mboxEngine r.tenant
  let s ← get
  if !mbEn s m then msgErr r 0x30
  else if !((getReg s.regs (regKey (pgMbox (mbG m)) (0x104 + 0x40 * mbK m))).getLsbD r.tenant) then
    mbIrq m 5
    secEvent 4 r.tenant r.agent
    msgErr r 0x31
  else
    let x ← postTo m msg (mkStamp (tickNum s) r.epoch r.agent r.tenant 0 0)
    if x = 3 then msgErr r 0x32 else mbxRsp r x []

/-- What an operation on mailbox m is at its port. -/
def mbxOp (opcode kind m : Nat) (field : Option Nat) (take : Bool) (s : State) : MsgOp :=
  ⟨opcode, 12, field, mboxHub s m, 0x30, kind + m * 2 ^ 8, if take then m else 0⟩

/-- POST, or an `MbxWr` of a reserved KIND, whose data is discarded (R625). -/
def execPost (h : Hdr) (reserved : Option (Fin 5)) (mbx : Fin 256) (flits : List DFlit) (s : State) :
    Host.Outcome State Fault Refusal :=
  finish (match h.src with
    | .engine _ => fromPair 5 flits.length do
      -- an event message of the partner's INTAGG, a configuration-path sender (15 R704)
      let s ← get
      if hasPartner s && !discards s then do
        let _ ← svcPostMsg mbx.val ((quadsOf flits).headD Quad.zero)
    | _ =>
      match reserved with
      | some _ => msgRequest h (mbxOp 0x42 0 0 (some 0x34) false) flits none fun _ => pure ()
      | none => msgRequest h (mbxOp 0x42 0 mbx.val none false) flits (some 1)
          (doPost mbx.val ((quadsOf flits).headD Quad.zero))) s

/-- May the tenant take from or ask about mailbox m (R636)? The code of the refusal; where a disabled mailbox is asked for
by a tenant that is not its receiver the spec names both codes and gives no order (log 17). -/
def rxCheck (m t : Nat) (take : Bool) : M (Option Nat) := do
  let s ← get
  let notRx := getF s (R.MBOX_CTL_RX_TENANT (mbG m) (mbK m)) != t || (take && mbOut s m)
  if !mbEn s m then
    if notRx then pure (some (if ← drawBool then 0x30 else 0x33)) else pure (some 0x30)
  else if notRx then pure (some 0x33)
  else pure none

/-- TAKE (R637). -/
def doTake (m : Nat) (r : MsgReq) : M Unit := do
  mboxEngine r.tenant
  match ← rxCheck m r.tenant true with
  | some c => msgErr r c
  | none =>
    match ← takeFrom m with
    | (none, _) => mbxRsp r 2 []
    | (some sl, n) =>
      let s ← get
      let col := getF s (R.MBOX_STAT_COLLISION (mbG m) (mbK m))
      wrF (R.MBOX_STAT_COLLISION (mbG m) (mbK m)) 0
      mbxRsp r 0 [sl.msg, ⟨BitVec.ofNat 128 (sl.stamp.toNat + (mboxOf s m).q.length * 2 ^ 64 + col * 2 ^ 72 + n * 2 ^ 76), false⟩]

/-- TAKE, or an `MbxRd` of a reserved KIND (R625). -/
def execTake (h : Hdr) (reserved : Option (Fin 4)) (mbx : Fin 256) (s : State) : Host.Outcome State Fault Refusal :=
  finish (match reserved with
    | some _ => msgRequest h (mbxOp 0x43 0 0 (some 0x34) false) [] (some 0) fun _ => pure ()
    | none => msgRequest h (mbxOp 0x43 0 mbx.val none true) [] (some 0) (doTake mbx.val)) s

/-- STATUS (R638). -/
def doMbxStatus (m : Nat) (r : MsgReq) : M Unit := do
  mboxEngine r.tenant
  match ← rxCheck m r.tenant false with
  | some c => msgErr r c
  | none =>
    let s ← get
    let w := getF s (R.MBOX_STAT_COUNT (mbG m) (mbK m)) + getF s (R.MBOX_STAT_COLLISION (mbG m) (mbK m)) * 2 ^ 8 +
      getF s (R.MBOX_STAT_FULL (mbG m) (mbK m)) * 2 ^ 9
    mbxRsp r 0 [⟨BitVec.ofNat 128 w, false⟩]

def execMbxStatus (h : Hdr) (mbx : Fin 256) (s : State) : Host.Outcome State Fault Refusal :=
  finish (msgRequest h (mbxOp 0x43 1 mbx.val none false) [] (some 0) (doMbxStatus mbx.val)) s

/-! ### Doorbells (R639-R642) -/

/-- What an operation on the tenant's own doorbell is at its port. -/
def dbOp (opcode kind t : Nat) (s : State) : MsgOp := ⟨opcode, 12, none, wordHub s t, 0x30, kind, 0⟩

/-- DB_MASK (R642). -/
def doDbMask (mask : Nat) (r : MsgReq) : M Unit := do
  mboxEngine r.tenant
  wrF (R.TENANT_DB_MASK_BITS r.tenant) mask
  mbxRsp r 0 []

def execDbMask (h : Hdr) (flits : List DFlit) (s : State) : Host.Outcome State Fault Refusal :=
  finish (msgRequest h (dbOp 0x42 1 h.tenant.val) flits (some 1)
    (doDbMask (((quadsOf flits).headD Quad.zero).bits.toNat % 2 ^ 32))) s

/-- DB_TAKE (R642). -/
def doDbTake (r : MsgReq) : M Unit := do
  mboxEngine r.tenant
  let w ← rdF (R.TENANT_DB_WORD_BITS r.tenant)
  wrF (R.TENANT_DB_WORD_BITS r.tenant) 0
  wrF (R.TENANT_DB_CTL_NOTIFIED r.tenant) 0
  mbxRsp r 0 [⟨BitVec.ofNat 128 w, false⟩]

def execDbTake (h : Hdr) (s : State) : Host.Outcome State Fault Refusal :=
  finish (msgRequest h (dbOp 0x43 2 h.tenant.val) [] (some 0) doDbTake) s

/-- DB_NOTIFY (R641): due while NOTIFIED=0, an unmasked bit is set, the tenant is admitted at the port of its doorbell agent and is
not resetting (03 R143), and that port, here, is in ACTIVE. -/
def doDbNotify (t : Nat) : M Unit := do
  let s ← get
  let w := getF s (R.TENANT_DB_WORD_BITS t)
  let a := getF s (R.TENANT_DB_CTL_AGENT t)
  match portOfAgent s a with
  | none => pure ()
  | some p =>
    if isRunning s && getF s (R.TENANT_DB_CTL_NOTIFIED t) = 0 && tenantOk s p t && !tenantResetting s t && lstate s p = 4 &&
        Nat.land w (getF s (R.TENANT_DB_MASK_BITS t)) != 0 then
      wrF (R.TENANT_DB_CTL_NOTIFIED t) 1
      sendMsg p ⟨0x48, 0, t, a, 0, w, 0, []⟩

def execDbNotify (t : Fin 32) (s : State) : Host.Outcome State Fault Refusal :=
  finish (doDbNotify t.val) s

/-! ### Cargo (R653-R660) -/

/-- What a cargo operation is at its port. -/
def cargoOp (opcode cls : Nat) (hub : Bool) (field : Option Nat) (spec : Nat) (s : State) : MsgOp :=
  ⟨opcode, cls, field, poolHub s hub, 0x39, spec, 0⟩

/-- Message-specific bits of a handle with the rest (R624), from bit 24 on. -/
def cargoSpec (kind handle word nw : Nat) (hub : Bool) : Nat :=
  kind + handle * 2 ^ 16 + hub.toNat * 2 ^ 32 + word * 2 ^ 33 + nw * 2 ^ 37

/-- WORD + NW greater than 15 (R625). -/
def wordField (word : Fin 16) (nw : Fin 4) : Option Nat := if word.val + nw.val > 15 then some 0x34 else none

/-- Run an operation on a handle that passes R655. -/
def onHandle (handle : Nat) (r : MsgReq) (run : M Unit) : M Unit := do
  mboxEngine r.tenant
  match ← cargoCheck handle r.tenant r.agent with
  | some c => msgErr r c
  | none => run

/-- CARGO_WRITE (R659). -/
def doCargoWrite (handle word : Nat) (data : LineData) (r : MsgReq) : M Unit :=
  onHandle handle r do
    engineTurn qMbox
    cargoPut (handle % 4096) r.tenant word data
    cargoRsp r 0 []

def execCargoWrite (h : Hdr) (handle : BitVec 16) (hub : Bool) (word : Fin 16) (nw : Fin 4) (flits : List DFlit)
    (s : State) : Host.Outcome State Fault Refusal :=
  finish (msgRequest h (cargoOp 0x42 12 hub (wordField word nw) (cargoSpec 2 handle.toNat word.val nw.val hub)) flits
    (some (nw.val + 1)) (doCargoWrite handle.toNat word.val (quadsOf flits))) s

/-- CARGO_READ (R659). -/
def doCargoRead (handle word n : Nat) (r : MsgReq) : M Unit :=
  onHandle handle r do
    engineTurn qMbox
    let d ← cargoWords (handle % 4096) r.tenant word n
    cargoRsp r 0 d

def execCargoRead (h : Hdr) (handle : BitVec 16) (hub : Bool) (word : Fin 16) (nw : Fin 4) (s : State) :
    Host.Outcome State Fault Refusal :=
  finish (msgRequest h (cargoOp 0x43 12 hub (wordField word nw) (cargoSpec 3 handle.toNat word.val nw.val hub)) [] (some 0)
    (doCargoRead handle.toNat word.val (nw.val + 1))) s

/-- CARGO_ALLOC (R654). -/
def doCargoAlloc (r : MsgReq) : M Unit := do
  mboxEngine r.tenant
  match ← cargoTake r.tenant with
  | some hd => cargoRsp r (hd * 2 ^ 16) []
  | none => msgErr r 0x38

def execCargoAlloc (h : Hdr) (hub : Bool) (s : State) : Host.Outcome State Fault Refusal :=
  finish (msgRequest h (cargoOp 0x44 13 hub none (cargoSpec 0 0 0 0 hub)) [] (some 0) doCargoAlloc) s

/-- CARGO_GIVE (R658, R660): the checks of R655 come first. -/
def doCargoGive (handle target : Nat) (r : MsgReq) : M Unit :=
  onHandle handle r do
    let s ← get
    if getF s (R.TENANT_CTL_EN target) = 0 || tenantResetting s target then msgErr r 0x3B
    else
      setOwner (handle % 4096) (some target)
      addHeld r.tenant false
      addHeld target true
      incF R.CARGO_GIVE_CNT_CNT
      cargoRsp r 0 []

def execCargoGive (h : Hdr) (handle : BitVec 16) (hub : Bool) (target : Fin 32) (s : State) :
    Host.Outcome State Fault Refusal :=
  finish (msgRequest h (cargoOp 0x45 13 hub none (cargoSpec 0 handle.toNat 0 0 hub + target.val * 2 ^ 8)) [] (some 0)
    (doCargoGive handle.toNat target.val)) s

/-- CARGO_FREE (R657). -/
def doCargoFree (handle : Nat) (r : MsgReq) : M Unit :=
  onHandle handle r do
    cargoRelease (handle % 4096) r.tenant
    incF R.CARGO_FREE_CNT_CNT
    cargoRsp r 0 []

def execCargoFree (h : Hdr) (handle : BitVec 16) (hub : Bool) (s : State) : Host.Outcome State Fault Refusal :=
  finish (msgRequest h (cargoOp 0x46 13 hub none (cargoSpec 0 handle.toNat 0 0 hub)) [] (some 0) (doCargoFree handle.toNat)) s

/-! ### MBX frames (R648-R651) -/

/-- A POST frame at its node: stored or refused, and acknowledged. -/
def postFrame (f : Frame) : M Unit := do
  if pfield f 0 1 == 1 && f.payload.length == 32 then
    let m := pfield f 1 1
    let msg : Quad := ⟨BitVec.ofNat 128 (pfield f 16 16), (pfield f 2 1).testBit 0⟩
    let r ← acceptPost m f.src.toNat f.seq.toNat msg (pfield f 8 8)
    let _ ← fOriginate 2 f.src.toNat (ackBytes m f.seq.toNat r)

def execMbxPostFrame (p : Fin 4) (f : Frame) (s : State) : Host.Outcome State Fault Refusal :=
  finish (onlyIf (f.cls.val == 2) (routed p.val f (postFrame f))) s

/-- The outbound mailbox whose message an ACK names: in flight to that node and mailbox under that SEQ. -/
def ackedMbox (s : State) (node target seq : Nat) : Option Nat :=
  ((List.range 128).map (· + 128 * (if pairOn s then hubNo s else 0))).find? fun m =>
    mbOut s m && (mboxOf s m).inFlight && (mboxOf s m).seq == seq &&
      getF s (R.MBOX_REMOTE_NODE (mbG m) (mbK m)) == node && getF s (R.MBOX_REMOTE_MBX (mbG m) (mbK m)) == target

/-- An ACK frame at its node (R651). -/
def ackFrame (f : Frame) : M Unit := do
  if pfield f 0 1 == 2 && f.payload.length == 8 then
    match ackedMbox (← get) f.src.toNat (pfield f 1 1) (pfield f 2 2) with
    | some m =>
      ackResult m (pfield f 4 1)
      sendNext m 17
    | none => pure ()

def execMbxAckFrame (p : Fin 4) (f : Frame) (s : State) : Host.Outcome State Fault Refusal :=
  finish (onlyIf (f.cls.val == 2) (routed p.val f (ackFrame f))) s

/-- MBX_RETRY_TIMEOUT (R651): every RETRY_US without a stored or refused answer. -/
def doRetry (m : Nat) : M Unit := do
  let s ← get
  let b := mboxOf s m
  if b.inFlight && decide (b.sentAt + 1000 * getF s R.MBOX_FAB_RETRY_US ≤ s.now) then
    if b.sends < getF s R.MBOX_FAB_RETRY_LIM then
      incF (R.MBOX_RETRY_CNT_CNT (mbG m) (mbK m))
      setMbox m fun b => { b with sends := b.sends + 1, sentAt := s.now }
      match ← sendPost m b.seq with
      | some r => ackResult m r
      | none => pure ()
    else dropOldest m true
    sendNext m 17

def execMbxRetryTimeout (mbx : Fin 128) (s : State) : Host.Outcome State Fault Refusal :=
  finish (doRetry mbx.val) s

end Sys2Proof.Machine
end

