-- ==== Sys2Proof/Machine/CfgCmd.lean ====
section
/-! DEFINITION. The commands of the configuration paths (17): single writes by any path, `CfgRd` and `CfgWr`, SPI, the I²C target,
the KX1 alias pages, and the end of a peek (18 R815). -/

namespace Sys2Proof.Machine

/-! ### One access -/

/-- The configuration port takes an access of the path now: SPI and I²C answer from stage 1 on, while JTAG leaves them their lands
(R800, 19 R851); the MSG channel while the hub runs and takes MSG flits; the image loader in stage LOAD. -/
def pathOk (path : Path) (s : State) : Bool :=
  match path with
  | .spi | .i2c => powered s && stage s != 0 && !landsOff s
  | .msg _ => isRunning s && !discards s
  | .image => powered s && stage s == 1
  | .partner _ => hasPartner s

/-- Show whether the last SPI or I²C write was refused (R785); the STATUS byte shows it of the last SPI write (R780). -/
def showRefused (path : Path) (r : Bool) : M Unit := do
  if isService path && stage (← get) != 0 then
    wrF R.GLOBAL_SVC_STAT_REFUSED r.toNat
    onlyIf (path == .spi) (modify fun s => { s with svc := { s.svc with spiRefused := r } })

/-- A write of a word to the partner (R768, R779): SPI writes are posted, at most 8. Whether the partner refuses an I²C write
only its answer tells. -/
def partnerAccess (path : Path) (ca : Nat) (v : Word) : M (List Nat) := do
  let s ← get
  if path = .spi ∧ 8 ≤ s.svc.posted then
    wrF R.GLOBAL_SVC_STAT_SPI_OVR 1
    pure []
  else
    writePartner (pathNo path) (caPage ca) (caOff ca) v
    if hasPartner s then
      if path = .spi then modify fun s => { s with svc := { s.svc with posted := s.svc.posted + 1 } }
      else if path = .i2c then showRefused path (← drawBool)
    pure []

/-- A write at a configuration address (R766-R768, R875). -/
def accessWrite (path : Path) (ca : Nat) (v : Word) : M (List Nat) := do
  if isService path && ca % 4 != 0 then
    wrF R.GLOBAL_SVC_STAT_ALIGN_ERR 1
    pure []
  else if 0x200000 ≤ ca then pure []
  else if caHub ca = 1 then partnerAccess path ca v
  else
    let codes ← writeHere checkNow path (caPage ca) (caOff ca) v
    showRefused path (codes != [])
    pure codes

/-- A write that a path presents. From the partner it comes over the pair link and names an offset of this hub (12 R545). -/
def cfgWriteBy (path : Path) (ca : Nat) (v : Word) : M Unit := do
  match path with
  | .partner k => fromPair 5 1 do
    if hasPartner (← get) then
      let codes ← writeHere checkNow path (caPage ca) (caOff ca) v
      toPartner (.cfgAnswer k.val (codes != []) [])
  | _ =>
    if pathOk path (← get) then
      let _ ← accessWrite path ca v

/-- A read that a path presents; its word goes to the path. -/
def cfgReadBy (path : Path) (ca : Nat) : M Unit := do
  match path with
  | .partner k => fromPair 5 0 do
    if hasPartner (← get) then
      let w ← readHere (pathNo path) (caPage ca) (caOff ca) none
      toPartner (.cfgAnswer k.val false [w])
  | _ =>
    if pathOk path (← get) then
      let w ← cfgRead (pathNo path) ca none
      emit (.word (pathNo path) w)

/-- The write of a word, with one field fixed, to the register of that field: what the row of a command with its own row is. -/
def fieldCmd (path : Path) (f : Fld) (x : Nat) (v : Word) (s : State) : Host.Outcome State Fault Refusal :=
  finish (cfgWriteBy path f.key (withField v f.lo f.w x)) s

/-- The write of a word to the register of a field. -/
def wordCmd (path : Path) (f : Fld) (v : Word) (s : State) : Host.Outcome State Fault Refusal :=
  finish (cfgWriteBy path f.key v) s

/-! ### Registers (00 R11-R13, R876) -/

def execRegisterWrite (path : Path) (ca : BitVec 24) (v : Word) (s : State) : Host.Outcome State Fault Refusal :=
  finish (cfgWriteBy path ca.toNat v) s

/-- MULTI_WORD_LOW_READ: at the lowest word of a value it latches the higher ones; elsewhere it is any read. -/
def execMultiWordLowRead (path : Path) (ca : BitVec 24) (s : State) : Host.Outcome State Fault Refusal :=
  finish (cfgReadBy path ca.toNat) s

/-- MULTI_WORD_HIGH_WRITE: at the highest word of a value it applies the held ones with it. -/
def execMultiWordHighWrite (path : Path) (ca : BitVec 24) (v : Word) (s : State) : Host.Outcome State Fault Refusal :=
  finish (cfgWriteBy path ca.toNat v) s

/-! ### TICK (02) -/

def execTickRunSet (path : Path) (v : Word) (s : State) : Host.Outcome State Fault Refusal := fieldCmd path R.TICK_CTL_RUN 1 v s

def execTickRunClear (path : Path) (v : Word) (s : State) : Host.Outcome State Fault Refusal := fieldCmd path R.TICK_CTL_RUN 0 v s

def execTickPeriodWrite (path : Path) (v : Word) (s : State) : Host.Outcome State Fault Refusal :=
  wordCmd path R.TICK_PERIOD_NS10 v s

/-- The field of a phase register. -/
def phaseFld : PhaseReg → Fld
  | .precommit => R.TICK_PRECOMMIT_NS10
  | .commitBudget => R.TICK_COMMIT_BUDGET_NS10
  | .release => R.TICK_RELEASE_NS10
  | .hkStart => R.TICK_HK_START_NS10
  | .hkLen => R.TICK_HK_LEN_NS10
  | .inCutoff => R.TICK_IN_CUTOFF_NS10

def execPhaseRegisterWrite (path : Path) (r : PhaseReg) (v : Word) (s : State) : Host.Outcome State Fault Refusal :=
  wordCmd path (phaseFld r) v s

def execFaultClr (path : Path) (v : Word) (s : State) : Host.Outcome State Fault Refusal := fieldCmd path R.TICK_CTL_FAULT_CLR 1 v s

/-! ### Windows, regions, tenants (03) -/

def execWinCtlWrite (path : Path) (p k : Fin 16) (v : Word) (s : State) : Host.Outcome State Fault Refusal :=
  wordCmd path (R.APORT_WIN_CTL_EN p.val k.val) v s

/-- Registers 0-4 of a descriptor: BASE, CTL, RD_MASK, WR_MASK, CACHE_MASK. -/
def execDescriptorWrite (path : Path) (r : Fin 64) (reg : Fin 5) (v : Word) (s : State) : Host.Outcome State Fault Refusal :=
  finish (cfgWriteBy path (regKey pgRegion (0x400 + 0x20 * r.val + 4 * reg.val)) v) s

def execApply (path : Path) (v : Word) (s : State) : Host.Outcome State Fault Refusal := fieldCmd path R.REGION_CTL_APPLY 1 v s

def execRevert (path : Path) (v : Word) (s : State) : Host.Outcome State Fault Refusal := fieldCmd path R.REGION_CTL_REVERT 1 v s

def execTenantReset (path : Path) (t : Fin 32) (v : Word) (s : State) : Host.Outcome State Fault Refusal :=
  fieldCmd path (R.TENANT_CTL_RESET t.val) 1 v s

/-! ### Arbitration, failure containment, links -/

def execStarveClear (path : Path) (v : Word) (s : State) : Host.Outcome State Fault Refusal := wordCmd path R.ARB_STARVE_FLAG v s

def execRestart (path : Path) (v : Word) (s : State) : Host.Outcome State Fault Refusal :=
  fieldCmd path R.GLOBAL_FAIL_CTL_RESTART 1 v s

def execFailCtlHalt (path : Path) (v : Word) (s : State) : Host.Outcome State Fault Refusal :=
  fieldCmd path R.GLOBAL_FAIL_CTL_HALT 1 v s

def execLreset (path : Path) (p : Fin 16) (v : Word) (s : State) : Host.Outcome State Fault Refusal :=
  fieldCmd path (R.APORT_CTL_LRESET p.val) 1 v s

def execAportDisable (path : Path) (p : Fin 16) (v : Word) (s : State) : Host.Outcome State Fault Refusal :=
  fieldCmd path (R.APORT_CTL_EN p.val) 0 v s

def execPairLreset (path : Path) (v : Word) (s : State) : Host.Outcome State Fault Refusal := fieldCmd path R.PAIR_CTL_LRESET 1 v s

def execFportLreset (path : Path) (p : Fin 4) (v : Word) (s : State) : Host.Outcome State Fault Refusal :=
  fieldCmd path (R.FPORT_CTL_LRESET p.val) 1 v s

def execRedisc (path : Path) (v : Word) (s : State) : Host.Outcome State Fault Refusal := fieldCmd path R.FABRIC_CTL_REDISC 1 v s

/-! ### Mailboxes, the filter, memory, locks, stations -/

def execSvcPost (path : Path) (mbx : Fin 128) (v : Word) (s : State) : Host.Outcome State Fault Refusal :=
  fieldCmd path (R.MBOX_SVC_CMD_POST (mbG mbx.val) (mbK mbx.val)) 1 v s

def execSvcTake (path : Path) (mbx : Fin 128) (v : Word) (s : State) : Host.Outcome State Fault Refusal :=
  fieldCmd path (R.MBOX_SVC_CMD_TAKE (mbG mbx.val) (mbK mbx.val)) 1 v s

def execDirInject (path : Path) (v : Word) (s : State) : Host.Outcome State Fault Refusal := fieldCmd path R.DIR_INJECT_GO 1 v s

def execFlush (path : Path) (v : Word) (s : State) : Host.Outcome State Fault Refusal := fieldCmd path R.HCACHE_CTL_FLUSH 1 v s

def execHcacheInject (path : Path) (v : Word) (s : State) : Host.Outcome State Fault Refusal :=
  fieldCmd path R.HCACHE_INJECT_GO 1 v s

def execMemInject (path : Path) (v : Word) (s : State) : Host.Outcome State Fault Refusal := fieldCmd path R.MEM_INJECT_GO 1 v s

def execLockForce (path : Path) (v : Word) (s : State) : Host.Outcome State Fault Refusal := fieldCmd path R.LOCK_FORCE_GO 1 v s

def execStationEntryEnable (path : Path) (e : Fin 48) (v : Word) (s : State) : Host.Outcome State Fault Refusal :=
  fieldCmd path (R.STATION_ENTRY_CTL_EN e.val) 1 v s

/-- STATION_ENABLE: a write of 1 to STATION.CTL.EN, or a write of QUAL_HA (13 R609). -/
def execStationEnable (path : Path) (qual : Bool) (v : Word) (s : State) : Host.Outcome State Fault Refusal :=
  if qual then wordCmd path R.STATION_QUAL_HA_LINE v s else fieldCmd path R.STATION_CTL_EN 1 v s

/-! ### The page header (R786-R791, 15 R701) -/

/-- The header register of a page at an offset. -/
def headerFld (page : Fin 256) (off lo w : Nat) : Fld := ⟨page.val, off, lo, w⟩

def execCfgErrClear (path : Path) (page : Fin 256) (v : Word) (s : State) : Host.Outcome State Fault Refusal :=
  fieldCmd path (capValid page.val) 1 v s

def execIrqStatClear (path : Path) (page : Fin 256) (v : Word) (s : State) : Host.Outcome State Fault Refusal :=
  wordCmd path (headerFld page 0x018 0 32) v s

def execIrqForce (path : Path) (page : Fin 256) (v : Word) (s : State) : Host.Outcome State Fault Refusal :=
  wordCmd path (headerFld page 0x01C 0 32) v s

def execIrqEnWrite (path : Path) (page : Fin 256) (v : Word) (s : State) : Host.Outcome State Fault Refusal :=
  wordCmd path (headerFld page 0x014 0 32) v s

/-- FREEZE: bit 1 of the word takes or ends the snapshot. -/
def execFreeze (path : Path) (page : Fin 256) (v : Word) (s : State) : Host.Outcome State Fault Refusal :=
  wordCmd path (pageFreeze page.val) v s

def execLock (path : Path) (page : Fin 256) (v : Word) (s : State) : Host.Outcome State Fault Refusal :=
  fieldCmd path (pageLock page.val) 1 v s

/-- PAGE_CTL_EN: bit 0 of the word is EN. -/
def execPageCtlEn (path : Path) (page : Fin 256) (v : Word) (s : State) : Host.Outcome State Fault Refusal :=
  wordCmd path (headerFld page 0x004 0 1) v s

/-! ### Counters, debug, resets, boot, power -/

def execPerfSelWrite (path : Path) (k : Fin 8) (v : Word) (s : State) : Host.Outcome State Fault Refusal :=
  wordCmd path (R.LEDGER_PERF_SEL_EVENT k.val) v s

def execPeek (path : Path) (v : Word) (s : State) : Host.Outcome State Fault Refusal := fieldCmd path R.DEBUG_PEEK_CTL_GO 1 v s

def execTraceCtlWrite (path : Path) (v : Word) (s : State) : Host.Outcome State Fault Refusal := wordCmd path R.DEBUG_TRACE_CTL_EN v s

def execSoftReset (path : Path) (v : Word) (s : State) : Host.Outcome State Fault Refusal :=
  fieldCmd path R.GLOBAL_CTL_SOFT_RESET 1 v s

def execDReset (path : Path) (v : Word) (s : State) : Host.Outcome State Fault Refusal := fieldCmd path R.GLOBAL_CTL_DRESET 1 v s

def execGo (path : Path) (v : Word) (s : State) : Host.Outcome State Fault Refusal := fieldCmd path R.BOOT_CTL_GO 1 v s

/-- A write of FLASH_CMD with GO and an OP. -/
def flashGo (path : Path) (op : Nat) (v : Word) (s : State) : Host.Outcome State Fault Refusal :=
  fieldCmd path R.BOOT_FLASH_CMD_GO 1 (withField v 0 2 op) s

def execFlashRead (path : Path) (v : Word) (s : State) : Host.Outcome State Fault Refusal := flashGo path 0 v s

def execFlashProgram (path : Path) (v : Word) (s : State) : Host.Outcome State Fault Refusal := flashGo path 1 v s

def execFlashErase (path : Path) (v : Word) (s : State) : Host.Outcome State Fault Refusal := flashGo path 2 v s

def execLoad (path : Path) (v : Word) (s : State) : Host.Outcome State Fault Refusal := wordCmd path R.BOOT_LOAD_DATA v s

def execLoadStart (path : Path) (v : Word) (s : State) : Host.Outcome State Fault Refusal := fieldCmd path R.BOOT_LOAD_CTL_START 1 v s

def execLoadCheck (path : Path) (v : Word) (s : State) : Host.Outcome State Fault Refusal := fieldCmd path R.BOOT_LOAD_CTL_CHECK 1 v s

def execOtpProgram (path : Path) (v : Word) (s : State) : Host.Outcome State Fault Refusal := fieldCmd path R.SECURE_PROG_CTL_GO 1 v s

def execRunRequest (path : Path) (v : Word) (s : State) : Host.Outcome State Fault Refusal := fieldCmd path R.POWER_CTL_REQ 0 v s

def execIdleRequest (path : Path) (v : Word) (s : State) : Host.Outcome State Fault Refusal := fieldCmd path R.POWER_CTL_REQ 1 v s

def execStandbyRequest (path : Path) (v : Word) (s : State) : Host.Outcome State Fault Refusal := fieldCmd path R.POWER_CTL_REQ 2 v s

def execShutdown (path : Path) (v : Word) (s : State) : Host.Outcome State Fault Refusal := fieldCmd path R.POWER_CTL_SHUTDOWN 1 v s

/-! ### KX1 alias pages (R797-R799) -/

def execAliasAccess (path : Path) (ca : BitVec 24) (wr : Option Word) (s : State) : Host.Outcome State Fault Refusal :=
  finish (match wr with
    | some v => cfgWriteBy path ca.toNat v
    | none => cfgReadBy path ca.toNat) s

/-! ### The agent MSG channel (R774-R776, 03 R133) -/

/-- The codes of a burst that is not performed: NO_PRIV, MSG_FIELD. -/
def burstCodes (s : State) (t ca n : Nat) : List Nat :=
  (if getF s (R.TENANT_CTL_CFG_PRIV t) = 1 then [] else [0x07]) ++
    (if ca % 4 != 0 || decide (4096 < ca % 4096 + 4 * n) || decide (0x200000 ≤ ca) then [0x34] else [])

/-- What a burst is at its port: class 11; CA and NREG for the partner. -/
def cfgOp (opcode ca nreg : Nat) : MsgOp :=
  ⟨opcode, 11, none, if caHub ca = 1 then .partner else .here, 0x40, ca % 2 ^ 21 + nreg * 2 ^ 24, 0⟩

/-- A burst at its port. Between NO_PRIV and MSG_FIELD the spec gives no order (log 17). -/
def cfgAtPort (p tag t ca nreg opcode : Nat) (data : LineData) (run : MsgReq → M Unit) : M Unit := do
  let s ← get
  let o := cfgOp opcode ca nreg
  let codes := burstCodes s t ca (nreg + 1)
  let reached := lstate s p != 6 && !discards s && (tagOf (portOf s p) tag).isNone && tenantOk s p t && !tenantResetting s t
  if reached && codes != [] then
    let c ← pickCode codes
    onlyIf (c == 0x07) (secEvent 3 t (agentOf s p))
    localMsg p tag t { o with field := some c } data run
  else localMsg p tag t o data run

/-- A burst of a header: at an agent's port, or from the partner for one of its agents. `run` serves it here by a path. -/
def cfgBurst (h : Hdr) (opcode ca nreg : Nat) (fs : List DFlit) (n : Nat) (run : Path → MsgReq → M Unit) : M Unit := do
  match h.src with
  | .agent p =>
    if ← acceptMsg p.val h.ft.val h.vc.val 5 opcode h.tag.val fs (some n) then
      cfgAtPort p.val h.tag.val h.tenant.val ca nreg opcode (quadsOf fs) (run (.msg p))
  | .partner a => fromPair 5 fs.length do
    if hasPartner (← get) then
      run (.partner ⟨2 + a.val % 16, by omega⟩) ⟨.pair a.val, a.val, h.tag.val, h.tenant.val, 0⟩
  | .engine _ => pure ()

/-- Answer a burst with `CfgRsp`; a burst that ended its own port or pair gets none (R802). -/
def cfgRsp (r : MsgReq) (result : Nat) (data : LineData) : M Unit := do
  let s ← get
  let open_ := match r.src with
    | .port p => (tagOf (portOf s p) r.tag).isSome
    | _ => true
  onlyIf open_ (msgAnswer r 0x49 result data)

/-- Read `n` registers from an offset on. -/
def readBurst (path : Path) (page off : Nat) : Nat → M (List Word)
  | 0 => pure []
  | n + 1 => do
    let w ← readHere (pathNo path) page off none
    let r ← readBurst path page (off + 4) n
    pure (w :: r)

/-- The data flit of a burst (R774). -/
def burstQuad (ws : List Word) : Quad :=
  ⟨BitVec.ofNat 128 (ws.foldr (fun w a => w.toNat + 2 ^ 32 * a) 0), false⟩

/-- CFG_RD (R775). -/
def doCfgRd (ca nreg : Nat) (path : Path) (r : MsgReq) : M Unit := do
  let ws ← readBurst path (caPage ca) (caOff ca) (nreg + 1)
  cfgRsp r 0 [burstQuad ws]

def execCfgRd (h : Hdr) (ca : BitVec 24) (nreg : Fin 4) (s : State) : Host.Outcome State Fault Refusal :=
  finish (cfgBurst h 0x40 ca.toNat nreg.val [] 0 (doCfgRd ca.toNat nreg.val)) s

/-- Write `n` registers from an offset on; a reset that one of them starts ends the burst. -/
def writeBurst (path : Path) (page off data : Nat) : Nat → M (List Nat)
  | 0 => pure []
  | n + 1 => do
    if cutShort (← get) then pure []
    else
      let c ← writeHere checkNow path page off (BitVec.ofNat 32 data)
      let r ← writeBurst path page (off + 4) (data / 2 ^ 32) n
      pure (c ++ r)

/-- CFG_WR (R775). What a poisoned data flit does the spec does not say: its bits are written (log 63). -/
def doCfgWr (ca nreg : Nat) (q : Quad) (path : Path) (r : MsgReq) : M Unit := do
  let codes ← writeBurst path (caPage ca) (caOff ca) q.bits.toNat (nreg + 1)
  cfgRsp r (if codes = [] then 0 else 1) []

def execCfgWr (h : Hdr) (ca : BitVec 24) (nreg : Fin 4) (flits : List DFlit) (s : State) : Host.Outcome State Fault Refusal :=
  finish (cfgBurst h 0x41 ca.toNat nreg.val flits 1 (doCfgWr ca.toNat nreg.val ((quadsOf flits).headD Quad.zero))) s

/-! ### Reads by SPI and I²C -/

/-- Words that the partner answers with. -/
def partnerWords (remote : List Word) : Nat → M (List Word)
  | 0 => pure []
  | n + 1 => do
    let w ← match remote with
      | w :: _ => pure w
      | [] => drawWord
    let r ← partnerWords (remote.drop 1) n
    pure (w :: r)

/-- Fetch registers of this hub in address order; `remote` answers those that the partner holds. -/
def fetchHere (pn ca : Nat) (remote : List Word) : Nat → M (List Word)
  | 0 => pure []
  | n + 1 => do
    let w ← readHere pn (caPage ca) (caOff ca) remote.head?
    let r ← fetchHere pn (ca + 4) (remote.drop 1) n
    pure (w :: r)

/-- Fetch `n` registers of one page in one access. -/
def fetchWords (path : Path) (ca : Nat) (remote : List Word) (n : Nat) : M (List Word) := do
  let s ← get
  if 0x200000 ≤ ca then pure (List.replicate n 0)
  else if caHub ca = 0 then fetchHere (pathNo path) ca remote n
  else if hasPartner s then
    sendPair (.cfgRead (pathNo path) (ca % 2 ^ 20) n)
    partnerWords remote n
  else
    wrF R.GLOBAL_SVC_STAT_PARTNER_ERR 1
    pure (List.replicate n 0)

/-- Words from `ca` to the end of its page. -/
def pageRest (ca : Nat) : Nat := 1024 - ca % 4096 / 4

/-- The bytes of a word, high byte first. -/
def wordBytes (w : Word) : List Nat := beBytes 4 w.toNat

/-- A transaction by a service port that starts now ends a reserved command's output (R777) and an I²C write that had no STOP. -/
def onService (path : Path) (m : M Unit) : M Unit := do
  if pathOk path (← get) then
    modify fun s => { s with svc :=
      if path = .spi then { s.svc with driveFF := false } else { s.svc with i2c := none } }
    m

/-- READ (R778): the marker and the words; how many pad bytes come first is timing (log 9). -/
def doSpiRead (ca count : Nat) (remote : List Word) : M Unit := do
  let n := count % 4 + 1
  if ca % 4 ≠ 0 then
    wrF R.GLOBAL_SVC_STAT_ALIGN_ERR 1
    emit (.spi (0xA5 :: List.replicate (4 * n) 0))
  else
    let m := min n (pageRest ca)
    let ws ← fetchWords .spi ca remote m
    emit (.spi (0xA5 :: (ws.map wordBytes).flatten ++ List.replicate (4 * (n - m)) 0))

def execRead (addr : BitVec 24) (count : BitVec 8) (remote : List Word) (s : State) : Host.Outcome State Fault Refusal :=
  finish (onService .spi (doSpiRead addr.toNat count.toNat remote)) s

/-- Fetch words in groups of up to four that stay in a page (R784), as many groups as `n` words need. -/
def fetchGroups (ca : Nat) (remote : List Word) : Nat → Nat → M (List Word)
  | 0, _ => pure []
  | _, 0 => pure []
  | f + 1, n + 1 => do
    let g := min 4 (pageRest ca)
    let ws ← fetchWords .i2c ca remote g
    let r ← fetchGroups (ca + 4 * g) (remote.drop g) f (n + 1 - g)
    pure (ws ++ r)

/-- I2C_READ_TRANSFER (R781, R784). -/
def doI2cRead (ca nbytes : Nat) (remote : List Word) : M Unit := do
  if ca % 4 ≠ 0 then
    wrF R.GLOBAL_SVC_STAT_ALIGN_ERR 1
    emit (.i2c (List.replicate nbytes 0))
  else
    let ws ← fetchGroups ca remote ((nbytes + 3) / 4) ((nbytes + 3) / 4)
    emit (.i2c (((ws.map wordBytes).flatten).take nbytes))

def execI2cReadTransfer (addr : BitVec 24) (nbytes : BitVec 12) (remote : List Word) (s : State) :
    Host.Outcome State Fault Refusal :=
  finish (onService .i2c (doI2cRead addr.toNat nbytes.toNat remote)) s

/-! ### Writes by SPI and I²C -/

/-- The complete data words of a write, high byte first. -/
def dataWords (bs : List Byte) : List Word :=
  (List.range (bs.length / 4)).map fun i => beWord ((bs.drop (4 * i)).map (·.toNat))

/-- Execute data words in order; SPI counts addresses modulo 0x20_0000. A reset that one of them starts ends the transaction. -/
def writeData (path : Path) (ca : Nat) : List Word → M Unit
  | [] => pure ()
  | v :: t => do
    if pathOk path (← get) then
      let _ ← accessWrite path ca v
      writeData path (if path = .spi then (ca + 4) % 0x200000 else ca + 4) t

def execWrite (addr : BitVec 24) (bytes : List Byte) (s : State) : Host.Outcome State Fault Refusal :=
  finish (onService .spi (writeData .spi addr.toNat (dataWords bytes))) s

/-- I2C_WRITE_TRANSFER (R782, R783): with PEC_EN=1 up to seven words and a PEC are held until STOP; a longer write executes. -/
def doI2cWrite (addr : Nat) (bytes : List Byte) : M Unit := do
  if getF (← get) R.GLOBAL_SVC_CTL_PEC_EN = 1 ∧ bytes.length ≤ 29 then
    modify fun s => { s with svc := { s.svc with i2c := some (addr, bytes) } }
  else writeData .i2c addr (dataWords bytes)

def execI2cWriteTransfer (addr : BitVec 24) (bytes : List Byte) (s : State) : Host.Outcome State Fault Refusal :=
  finish (onService .i2c (doI2cWrite addr.toNat bytes)) s

/-- The bytes of a held transfer that its PEC covers: the slave address with W, the address, the data. -/
def pecBytes (s : State) (addr : Nat) (bytes : List Byte) : List Nat :=
  2 * (0x58 + s.pins.saddr) :: beBytes 3 addr ++ (bytes.map (·.toNat)).dropLast

/-- Does a held transfer end with its PEC? -/
def pecOk (s : State) (addr : Nat) (bytes : List Byte) : Bool :=
  (bytes.length + 3) % 4 == 0 && (bytes.map (·.toNat)).getLast? == some (crc8 (pecBytes s addr bytes))

/-- I2C_STOP (R783). -/
def doI2cStop : M Unit := do
  let s ← get
  match s.svc.i2c with
  | some (addr, bytes) =>
    modify fun s => { s with svc := { s.svc with i2c := none } }
    if pecOk s addr bytes then writeData .i2c addr (dataWords bytes)
    else wrF R.GLOBAL_SVC_STAT_PEC_ERR 1
  | none => pure ()

def execI2cStop (s : State) : Host.Outcome State Fault Refusal := finish (do onlyIf (pathOk .i2c (← get)) doI2cStop) s

/-- SCL_TIMEOUT (19 R848). -/
def doSclTimeout : M Unit := modify fun s => { s with svc := { s.svc with i2c := none } }

def execSclTimeout (s : State) : Host.Outcome State Fault Refusal := finish doSclTimeout s

/-- ALERT_RESPONSE (15 R704): the target answers with its address and releases SMBALERT#. -/
def doAlertResponse : M Unit := do
  let s ← get
  if pathOk .i2c s && s.alertLow then
    emit (.alertAddr (0x58 + s.pins.saddr))
    modify fun s => { s with alertAcked := true }

def execAlertResponse (s : State) : Host.Outcome State Fault Refusal := finish doAlertResponse s

/-! ### The rest of SPI (R777, R779, R780) -/

/-- SPI_STATUS. -/
def doSpiStatus : M Unit := do
  let s ← get
  emit (.spi [(decide (0 < s.svc.posted)).toNat + getF s R.GLOBAL_SVC_STAT_SPI_OVR * 2 + getF s R.GLOBAL_SVC_STAT_PARTNER_ERR * 4 +
    s.svc.spiRefused.toNat * 8 + getF s R.GLOBAL_SVC_STAT_ALIGN_ERR * 16])

def execSpiStatus (s : State) : Host.Outcome State Fault Refusal := finish (onService .spi doSpiStatus) s

/-- SPI_RESERVED_COMMAND: the output stays at 0xFF until chip select rises. -/
def doSpiReserved (cmd : Nat) : M Unit := do
  if cmd ≠ 0x0B ∧ cmd ≠ 0x02 ∧ cmd ≠ 0x05 then
    modify fun s => { s with svc := { s.svc with driveFF := true } }
    emit (.spi [0xFF])

def execSpiReservedCommand (cmd : Byte) (s : State) : Host.Outcome State Fault Refusal :=
  finish (onService .spi (doSpiReserved cmd.toNat)) s

/-- CHIP_SELECT_RISE. An incomplete data word of a WRITE is no part of its words. -/
def execChipSelectRise (s : State) : Host.Outcome State Fault Refusal :=
  finish (modify fun s => { s with svc := { s.svc with driveFF := false } }) s

/-- PARTNER_WRITE_DONE: a slot is free. Whether the partner refused a field its answer tells, which the row does not carry. -/
def doPartnerDone : M Unit := do
  if 0 < (← get).svc.posted then
    modify fun s => { s with svc := { s.svc with posted := s.svc.posted - 1 } }
    showRefused .spi (← drawBool)

def execPartnerWriteDone (s : State) : Host.Outcome State Fault Refusal := finish (fromPair 5 0 doPartnerDone) s

/-! ### The end of a peek (18 R815, R816) -/

/-- Show stored bytes of 13 bits: the data in PEEK_DATA from the first on, the check bits in PEEK_CHK. -/
def showStored (bs : List (BitVec 13)) : M Unit := do
  let d := bytesToNat (bs.map fun b => b.toNat % 256)
  let c := bs.foldr (fun b a => b.toNat / 256 + 32 * a) 0
  each (List.range ((bs.length + 3) / 4)) fun i => wrF (R.DEBUG_PEEK_DATA_DATA i) (d / 2 ^ (32 * i))
  each (List.range ((5 * bs.length + 31) / 32)) fun i => wrF (R.DEBUG_PEEK_CHK_CHK i) (c / 2 ^ (32 * i))

/-- PEEK_DONE. -/
def doPeekDone : M Unit := do
  let s ← get
  match s.svc.peek with
  | none => pure ()
  | some (kind, word, a) =>
    engineTurn qWeevil
    if kind = 0 then showStored ((List.range 16).map fun i => memByte s (16 * a + i))
    else if kind = 1 then
      let sl := slotOf s (a % 65536)
      showStored (slotWord sl word)
      wrF R.DEBUG_PEEK_TAG_TAG sl.tagw.toNat
    else
      let e := entryAt s (a % 2 ^ 19)
      showStored (bodyBytes e)
      wrF R.DEBUG_PEEK_TAG_TAG (e.tag.toNat + e.tpar.toNat * 2 ^ 9)
    modify fun s => { s with svc := { s.svc with peek := none } }
    wrF R.DEBUG_PEEK_STAT_BUSY 0
    wrF R.DEBUG_PEEK_STAT_DONE 1
    raise pgDebug 0

def execPeekDone (s : State) : Host.Outcome State Fault Refusal := finish doPeekDone s

end Sys2Proof.Machine
end

