-- ==== Sys2Proof/Machine/Coherence.lean ====
section
/-! DEFINITION. Agent requests and snoop responses (05): what each message of the agent does when it arrives. -/

namespace Sys2Proof.Machine

/-! ### Requests -/

def execRdS (h : Hdr) (exclOk : Bool) (s : State) : Host.Outcome State Fault Refusal :=
  finish (request h 0x01 0 .rdS exclOk 0 [] (some 0)) s

def execRdU (h : Hdr) (s : State) : Host.Outcome State Fault Refusal :=
  finish (request h 0x02 0 .rdU false 0 [] (some 0)) s

def execUpg (h : Hdr) (fromF : Bool) (s : State) : Host.Outcome State Fault Refusal :=
  finish (request h 0x03 0 .upg fromF 0 [] (some 0)) s

def execRdOnce (h : Hdr) (s : State) : Host.Outcome State Fault Refusal :=
  finish (request h 0x04 0 .rdOnce false 0 [] (some 0)) s

def execEvClean (h : Hdr) (s : State) : Host.Outcome State Fault Refusal :=
  finish (request h 0x05 0 .evClean false 0 [] (some 0)) s

def execLkRd (h : Hdr) (needData : Bool) (s : State) : Host.Outcome State Fault Refusal :=
  finish (request h 0x06 0 .lkRd needData 0 [] (some 0)) s

/-- `UlWr` travels on REQ when WR=0 and on DAT with four data flits when WR=1 (R209). -/
def execUlWr (h : Hdr) (wr : Bool) (flits : List DFlit) (s : State) : Host.Outcome State Fault Refusal :=
  finish (request h 0x07 (if wr then 3 else 0) .ulWr wr 0 flits (some (if wr then 4 else 0))) s

def execWrBack (h : Hdr) (flits : List DFlit) (s : State) : Host.Outcome State Fault Refusal :=
  finish (request h 0x10 3 .wrBack false 0 flits (some 4)) s

def execWrFull (h : Hdr) (flits : List DFlit) (s : State) : Host.Outcome State Fault Refusal :=
  finish (request h 0x11 3 .wrFull false 0 flits (some 4)) s

def execWrPartial (h : Hdr) (be : BitVec 16) (flits : List DFlit) (s : State) : Host.Outcome State Fault Refusal :=
  finish (request h 0x12 3 .wrPartial false be.toNat flits (some 1)) s

/-- The operation of `HAtom` (R212). -/
def atomOp : Nat → Option (ReqOp × Nat)
  | 0 => some (.fetchAdd, 1)
  | 1 => some (.swap, 1)
  | 2 => some (.cmpSwap, 2)
  | _ => none

def execHAtom (h : Hdr) (op : Fin 4) (flits : List DFlit) (s : State) : Host.Outcome State Fault Refusal :=
  match atomOp op.val with
  | some (o, n) => finish (request h 0x13 3 o false 0 flits (some n)) s
  | none => finish (reservedAtom h flits) s

/-! ### Snoop responses -/

def execRspI (r : RspHdr) (s : State) : Host.Outcome State Fault Refusal := finish (response r 0x60 2 [] 0) s

def execRspS (r : RspHdr) (s : State) : Host.Outcome State Fault Refusal := finish (response r 0x61 2 [] 0) s

def execRspIWb (r : RspHdr) (flits : List DFlit) (s : State) : Host.Outcome State Fault Refusal :=
  finish (response r 0x62 3 flits 4) s

def execRspSWb (r : RspHdr) (flits : List DFlit) (s : State) : Host.Outcome State Fault Refusal :=
  finish (response r 0x63 3 flits 4) s

def execRspFwd (r : RspHdr) (flits : List DFlit) (s : State) : Host.Outcome State Fault Refusal :=
  finish (response r 0x64 3 flits 4) s

def execRspIWbp (r : RspHdr) (s : State) : Host.Outcome State Fault Refusal := finish (response r 0x65 2 [] 0) s

/-- `RspErr`: the port enters PROTO_ERR with code 0x1 (R197). -/
def doRspErr (r : RspHdr) : M Unit := do
  match r.src with
  | .agent p =>
    if ← acceptMsg p.val r.ft.val r.vc.val 2 0x66 r.sid.val [] (some 0) then protoErr p.val 1 0x66
  | _ => pure ()

def execRspErr (r : RspHdr) (s : State) : Host.Outcome State Fault Refusal := finish (doRspErr r) s

end Sys2Proof.Machine
end

