-- ==== Sys2Proof/Machine/Firefly.lean ====
section
/-! DEFINITION. Firefly (13 R589-R597): SYNC EDGE and SYNC STRETCH. -/

namespace Sys2Proof.Machine

/-- A number rounded to a tenth, half away from zero (R592). -/
def roundTenth (e : Int) : Int := if 0 ≤ e then (e + 5) / 10 else -((-e + 5) / 10)

def clampTo (lo hi x : Int) : Int := if x < lo then lo else if hi < x then hi else x

/-- A signed difference of tick numbers. -/
def tickDiff (a b : Nat) : Int := signedOf 32 ((a + 2 ^ 32 - b % 2 ^ 32) % 2 ^ 32)

/-- LOCK after an accepted SYNC (R594). -/
def lockCount (u : Int) : M Unit := do
  let s ← get
  let lim : Int := getF s R.FABRIC_FF_CTL_LOCK_UNITS
  if -lim ≤ u ∧ u ≤ lim then
    setFabric fun f => { f with okRun := f.okRun + 1, badRun := 0 }
    onlyIf (decide (8 ≤ s.fabric.okRun + 1)) (wrF R.FABRIC_FF_STAT_LOCK 1)
  else
    setFabric fun f => { f with badRun := f.badRun + 1, okRun := 0 }
    onlyIf (decide (8 ≤ s.fabric.badRun + 1)) loseLock

/-- An accepted SYNC with error e in ns (R592, R593): trim, accumulator, the length of the tick. -/
def acceptSync (e : Int) : M Unit := do
  let s ← get
  let u := roundTenth e
  let m : Int := getF s R.FABRIC_FF_CTL_STEP_MAX
  let trim := clampTo (-32768) 32767 (trimOf s - 32 * clampTo (-m) m u)
  let a := s.fabric.acc + trim
  let len := (s.tick.period : Int) + clampTo (-m) m (-u) + a / 256
  wrF R.FABRIC_FF_TRIM_TRIM (ofSigned 16 trim)
  wrF R.FABRIC_FF_ERR_NS (ofSigned 32 e)
  wrF R.FABRIC_FF_STAT_HOLDOVER 0
  setFabric fun f => { f with acc := a % 256, accepted := true, holdRun := 0 }
  setTick fun t => { t with base := len.toNat, len := len.toNat + (t.len - t.base) }
  lockCount u

/-- What a following hub makes of SYNC EDGE: `t` its tick number, `trx` the local time of its arrival from the edge in ns. -/
def followEdge (t period corr d trx : Nat) : M Unit := do
  let s ← get
  if period ≠ getF s R.TICK_PERIOD_NS10 then
    wrF R.FABRIC_FF_STAT_PERIOD_MISMATCH 1
    raise pgFab 6
  else
    wrF R.FABRIC_FF_STAT_PERIOD_MISMATCH 0
    if !s.tick.running || s.tick.noMark then pure ()
    else
      let p : Int := 10 * s.tick.period
      let e : Int := tickDiff t (tickNum s) * p + d + corr - trx
      if e ≤ -p ∨ p ≤ e then
        wrF R.FABRIC_FF_STAT_NUM_MISMATCH 1
        raise pgFab 5
      else
        wrF R.FABRIC_FF_STAT_NUM_MISMATCH 0
        if t = tickNum s && !s.fabric.accepted && decide (trx < 5 * s.tick.period) then acceptSync e

/-- SYNC_EDGE at the SYNC_UP port: regenerated downstream (R591), then followed (R592-R597). `sub` is the place of the
arrival inside its 10 ns unit, `turn` the time from the arrival to the regenerated frames. -/
def doSyncEdge (p : Nat) (f : Frame) (sub turn : Nat) : M Unit := do
  if ← fReceive p f then
    let s ← get
    if f.cls.val == 0 && pfield f 0 1 == 1 && p == s.fabric.syncUp && !isCoord s then
      let t := pfield f 1 4
      let period := pfield f 5 3 % 2 ^ 20
      let corr := pfield f 8 4
      let d := getF s (R.FPORT_DELAY_NS p)
      if f.hops.val < 15 then
        each (fabPorts.filter fun q => s.fabric.syncDown.testBit q) fun q =>
          fSend q { f with hops := f.hops + 1, seq := BitVec.ofNat 16 t,
                           payload := mkPayload ([1] ++ natToBytes 4 t ++ natToBytes 3 period ++ natToBytes 4 (turn + d + corr)) }
      if getF s R.TICK_CTL_FOLLOW = 1 && ownEdges s then
        if getF s R.TICK_CTL_RUN = 0 && !s.tick.running then wrF R.TICK_NUM_NUM t
        followEdge t period corr d (10 * s.tick.offset + sub)

def execSyncEdge (p : Fin 4) (f : Frame) (sub : Fin 10) (turn : BitVec 32) (s : State) : Host.Outcome State Fault Refusal :=
  finish (doSyncEdge p.val f sub.val turn.toNat) s

/-- SYNC_STRETCH (R591, R595). -/
def doSyncStretch (p : Nat) (f : Frame) : M Unit := do
  if ← fReceive p f then
    let s ← get
    if f.cls.val == 0 && pfield f 0 1 == 2 && p == s.fabric.syncUp && !isCoord s then
      let t := pfield f 1 4
      let d := pfield f 5 3 % 2 ^ 14
      if f.hops.val < 15 then
        each (fabPorts.filter fun q => s.fabric.syncDown.testBit q) fun q => fSend q { f with hops := f.hops + 1 }
      if follows s && s.tick.running then
        let x := tickDiff t (tickNum s)
        if x = 0 then setTick fun k => { k with len := k.len + d }
        else if 0 < x then setFabric fun fb => { fb with early := some (t, d) }
        else incF R.FABRIC_FF_STRETCH_LATE_CNT_CNT

def execSyncStretch (p : Fin 4) (f : Frame) (s : State) : Host.Outcome State Fault Refusal := finish (doSyncStretch p.val f) s

end Sys2Proof.Machine
end

