-- ==== Sys2Proof/Machine/Jtag.lean ====
section
/-! DEFINITION. The JTAG port (19 R849-R851). -/

namespace Sys2Proof.Machine

/-! ### The boundary register (R850)

Cell 0 is the one next to TDI. Lands EVT0-EVT15, SCL and SDA have cells input, output, enable from cell 3k on; SDO, nIRQ and SMBALERT#
have output and enable from cell 54 on; the inputs stand in cells 60 to 70. -/

/-- The level that EXTEST drives a land with from an output cell and the enable cell after it. -/
def cellLevel (cells : BitVec 71) (o : Nat) : Option Bool := if cells.getLsbD (o + 1) then some (cells.getLsbD o) else none

/-- The levels of the scanned lands that can be driven, in the order of the register. -/
def cellLands (cells : BitVec 71) : List (Option Bool) :=
  ((List.range 18).map fun k => cellLevel cells (3 * k + 1)) ++ (List.range 3).map fun j => cellLevel cells (54 + 2 * j)

/-- The captured bits in the order of the register: `lands` gives what each cell samples. -/
def cellBits (b : BitVec 71) : List Bool := (List.range 71).map b.getLsbD

/-- The port answers from stage 1 on (R851). -/
def jtagOk (s : State) : Bool := powered s && stage s != 0

/-- After EXTEST or HIGHZ the lands follow the hub again. -/
def reEmit : M Unit := do
  let s ← get
  each (List.range 16) fun n => emit (.pin n (kvGet (fun _ => none) s.evt.drive n))
  emit (.nirq s.nirqLow)
  emit (.alert s.alertLow)

/-- Put an instruction in force. -/
def setIr (ir : Nat) : M Unit := do
  let was := landsOff (← get)
  modify fun s => { s with jtag := { s.jtag with ir := ir } }
  if !was && landsOff (← get) then
    -- transfers in that time are lost (R851)
    modify fun s => { s with svc := { s.svc with driveFF := false, i2c := none } }
  onlyIf (was && !landsOff (← get)) reEmit

/-- A scan of the boundary register: the captured bits go out, `cells` comes in. -/
def scan (cells lands : BitVec 71) : M Unit := do
  emit (.jtag (cellBits lands))
  modify fun s => { s with jtag := { s.jtag with cells := cells } }

/-- EXTEST: input cells sample the lands, and the lands follow the register. -/
def doExtest (cells lands : BitVec 71) : M Unit := do
  setIr 0
  scan cells lands
  emit (.lands (cellLands cells))

def execExtest (cells lands : BitVec 71) (s : State) : Host.Outcome State Fault Refusal :=
  finish (onlyIf (jtagOk s) (doExtest cells lands)) s

/-- SAMPLE/PRELOAD: the register samples the lands and takes the bits shifted in, with no effect on the lands. -/
def doSample (cells lands : BitVec 71) : M Unit := do
  setIr 1
  scan cells lands

def execSamplePreload (cells lands : BitVec 71) (s : State) : Host.Outcome State Fault Refusal :=
  finish (onlyIf (jtagOk s) (doSample cells lands)) s

/-- HIGHZ: the scanned lands float. -/
def doHighz : M Unit := do
  setIr 2
  emit (.lands (List.replicate 21 none))

def execHighz (s : State) : Host.Outcome State Fault Refusal := finish (onlyIf (jtagOk s) doHighz) s

/-- Codes 0x0 to 0x2 name the other instructions; the rest act as BYPASS. -/
def isBypass (code : Nat) : Bool := decide (3 ≤ code)

/-- BYPASS: the one-bit path gives the bit shifted in before; Capture-DR puts 0 there first (IEEE 1149.1, log 64). -/
def doBypass (code : Nat) (tdi : Bool) : M Unit := do
  setIr code
  emit (.jtag [false])
  modify fun s => { s with jtag := { s.jtag with bypass := tdi } }

def execBypass (code : Fin 16) (tdi : Bool) (s : State) : Host.Outcome State Fault Refusal :=
  finish (onlyIf (jtagOk s && isBypass code.val) (doBypass code.val tdi)) s

end Sys2Proof.Machine
end

