-- ==== Sys2Proof/Machine/Dispatch.lean ====
section
/-! DEFINITION. The dispatch: one arm per command. -/

namespace Sys2Proof.Machine

/-- The effect of a command on everything but the queue. -/
def exec (i : Instr) (s : State) : Host.Outcome State Fault Refusal :=
  match i with
  | .registerWrite path ca v => Sys2Proof.Machine.execRegisterWrite path ca v s
  | .multiWordLowRead path ca => Sys2Proof.Machine.execMultiWordLowRead path ca s
  | .multiWordHighWrite path ca v => Sys2Proof.Machine.execMultiWordHighWrite path ca v s
  | .tickEdge => Sys2Proof.Machine.execTickEdge s
  | .tickRunSet path v => Sys2Proof.Machine.execTickRunSet path v s
  | .tickRunClear path v => Sys2Proof.Machine.execTickRunClear path v s
  | .tickPeriodWrite path v => Sys2Proof.Machine.execTickPeriodWrite path v s
  | .phaseRegisterWrite path r v => Sys2Proof.Machine.execPhaseRegisterWrite path r v s
  | .faultClr path v => Sys2Proof.Machine.execFaultClr path v s
  | .commitBudgetCheck => Sys2Proof.Machine.execCommitBudgetCheck s
  | .stretchMaxExpiry => Sys2Proof.Machine.execStretchMaxExpiry s
  | .preCommitStart => Sys2Proof.Machine.execPreCommitStart s
  | .preReleaseStart => Sys2Proof.Machine.execPreReleaseStart s
  | .preCarryCopy => Sys2Proof.Machine.execPreCarryCopy s
  | .commitReady => Sys2Proof.Machine.execCommitReady s
  | .commitFlip => Sys2Proof.Machine.execCommitFlip s
  | .commitWindowClose => Sys2Proof.Machine.execCommitWindowClose s
  | .releasePoint => Sys2Proof.Machine.execReleasePoint s
  | .releaseBudgetCheck remote => Sys2Proof.Machine.execReleaseBudgetCheck remote s
  | .releaseFlip remote => Sys2Proof.Machine.execReleaseFlip remote s
  | .scheduleLoad remote => Sys2Proof.Machine.execScheduleLoad remote s
  | .scheduleEntryApply k => Sys2Proof.Machine.execScheduleEntryApply k s
  | .pulseEnd pin => Sys2Proof.Machine.execPulseEnd pin s
  | .evtInputEdge pin rising => Sys2Proof.Machine.execEvtInputEdge pin rising s
  | .captureRecordWrite => Sys2Proof.Machine.execCaptureRecordWrite s
  | .housekeepingSliceStart => Sys2Proof.Machine.execHousekeepingSliceStart s
  | .housekeepingSliceEnd => Sys2Proof.Machine.execHousekeepingSliceEnd s
  | .inCutoff => Sys2Proof.Machine.execInCutoff s
  | .tickMark num => Sys2Proof.Machine.execTickMark num s
  | .tickMarkMissing => Sys2Proof.Machine.execTickMarkMissing s
  | .flipMark release => Sys2Proof.Machine.execFlipMark release s
  | .winCtlWrite path p k v => Sys2Proof.Machine.execWinCtlWrite path p k v s
  | .descriptorWrite path r reg v => Sys2Proof.Machine.execDescriptorWrite path r reg v s
  | .apply path v => Sys2Proof.Machine.execApply path v s
  | .revert path v => Sys2Proof.Machine.execRevert path v s
  | .retireDone => Sys2Proof.Machine.execRetireDone s
  | .tenantReset path t v => Sys2Proof.Machine.execTenantReset path t v s
  | .tenantResetComplete t => Sys2Proof.Machine.execTenantResetComplete t s
  | .rdS h exclOk => Sys2Proof.Machine.execRdS h exclOk s
  | .rdU h => Sys2Proof.Machine.execRdU h s
  | .upg h fromF => Sys2Proof.Machine.execUpg h fromF s
  | .rdOnce h => Sys2Proof.Machine.execRdOnce h s
  | .evClean h => Sys2Proof.Machine.execEvClean h s
  | .lkRd h needData => Sys2Proof.Machine.execLkRd h needData s
  | .ulWr h wr flits => Sys2Proof.Machine.execUlWr h wr flits s
  | .wrBack h flits => Sys2Proof.Machine.execWrBack h flits s
  | .wrFull h flits => Sys2Proof.Machine.execWrFull h flits s
  | .wrPartial h be flits => Sys2Proof.Machine.execWrPartial h be flits s
  | .hAtom h op flits => Sys2Proof.Machine.execHAtom h op flits s
  | .arbiterGrant => Sys2Proof.Machine.execArbiterGrant s
  | .chainHeadStart line => Sys2Proof.Machine.execChainHeadStart line s
  | .allocQueueRetry set => Sys2Proof.Machine.execAllocQueueRetry set s
  | .roundEnd => Sys2Proof.Machine.execRoundEnd s
  | .starveClear path v => Sys2Proof.Machine.execStarveClear path v s
  | .rspI r => Sys2Proof.Machine.execRspI r s
  | .rspS r => Sys2Proof.Machine.execRspS r s
  | .rspIWb r flits => Sys2Proof.Machine.execRspIWb r flits s
  | .rspSWb r flits => Sys2Proof.Machine.execRspSWb r flits s
  | .rspFwd r flits => Sys2Proof.Machine.execRspFwd r flits s
  | .rspIWbp r => Sys2Proof.Machine.execRspIWbp r s
  | .rspErr r => Sys2Proof.Machine.execRspErr r s
  | .edataWaitTimeout p tag => Sys2Proof.Machine.execEdataWaitTimeout p tag s
  | .holdDue p tag => Sys2Proof.Machine.execHoldDue p tag s
  | .resnoopTimeout p sid => Sys2Proof.Machine.execResnoopTimeout p sid s
  | .snoopDeadTimeout p sid => Sys2Proof.Machine.execSnoopDeadTimeout p sid s
  | .wrBackMatchTimeout p sid => Sys2Proof.Machine.execWrBackMatchTimeout p sid s
  | .reclaimSweepStep => Sys2Proof.Machine.execReclaimSweepStep s
  | .reclaimSweepEnd => Sys2Proof.Machine.execReclaimSweepEnd s
  | .restart path v => Sys2Proof.Machine.execRestart path v s
  | .autoRestartExpiry => Sys2Proof.Machine.execAutoRestartExpiry s
  | .failCtlHalt path v => Sys2Proof.Machine.execFailCtlHalt path v s
  | .internalParityError store => Sys2Proof.Machine.execInternalParityError store s
  | .status lk ack freed => Sys2Proof.Machine.execStatus lk ack freed s
  | .nak lk ack freed => Sys2Proof.Machine.execNak lk ack freed s
  | .badFlit lk rd groups => Sys2Proof.Machine.execBadFlit lk rd groups s
  | .statusSend lk => Sys2Proof.Machine.execStatusSend lk s
  | .skipSend lk => Sys2Proof.Machine.execSkipSend lk s
  | .signalDetect lk => Sys2Proof.Machine.execSignalDetect lk s
  | .ts1 lk lanes => Sys2Proof.Machine.execTs1 lk lanes s
  | .ts2 lk caps => Sys2Proof.Machine.execTs2 lk caps s
  | .trainingTimeout lk => Sys2Proof.Machine.execTrainingTimeout lk s
  | .trainingRetry lk => Sys2Proof.Machine.execTrainingRetry lk s
  | .retrain lk => Sys2Proof.Machine.execRetrain lk s
  | .ackStallTimeout lk => Sys2Proof.Machine.execAckStallTimeout lk s
  | .silenceTimeout lk => Sys2Proof.Machine.execSilenceTimeout lk s
  | .alignmentLoss lk => Sys2Proof.Machine.execAlignmentLoss lk s
  | .retrainTimeout lk => Sys2Proof.Machine.execRetrainTimeout lk s
  | .lreset path p v => Sys2Proof.Machine.execLreset path p v s
  | .aportDisable path p v => Sys2Proof.Machine.execAportDisable path p v s
  | .linkActive lk => Sys2Proof.Machine.execLinkActive lk s
  | .cfgRd h ca nreg => Sys2Proof.Machine.execCfgRd h ca nreg s
  | .cfgWr h ca nreg flits => Sys2Proof.Machine.execCfgWr h ca nreg flits s
  | .post h reserved mbx flits => Sys2Proof.Machine.execPost h reserved mbx flits s
  | .dbMask h flits => Sys2Proof.Machine.execDbMask h flits s
  | .cargoWrite h handle hub word nw flits => Sys2Proof.Machine.execCargoWrite h handle hub word nw flits s
  | .take h reserved mbx => Sys2Proof.Machine.execTake h reserved mbx s
  | .mbxStatus h mbx => Sys2Proof.Machine.execMbxStatus h mbx s
  | .dbTake h => Sys2Proof.Machine.execDbTake h s
  | .cargoRead h handle hub word nw => Sys2Proof.Machine.execCargoRead h handle hub word nw s
  | .cargoAlloc h hub => Sys2Proof.Machine.execCargoAlloc h hub s
  | .cargoGive h handle hub target => Sys2Proof.Machine.execCargoGive h handle hub target s
  | .cargoFree h handle hub => Sys2Proof.Machine.execCargoFree h handle hub s
  | .dbNotify t => Sys2Proof.Machine.execDbNotify t s
  | .svcPost path mbx v => Sys2Proof.Machine.execSvcPost path mbx v s
  | .svcTake path mbx v => Sys2Proof.Machine.execSvcTake path mbx v s
  | .mbxPostFrame p f => Sys2Proof.Machine.execMbxPostFrame p f s
  | .mbxAckFrame p f => Sys2Proof.Machine.execMbxAckFrame p f s
  | .mbxRetryTimeout mbx => Sys2Proof.Machine.execMbxRetryTimeout mbx s
  | .snpFlushSetSend => Sys2Proof.Machine.execSnpFlushSetSend s
  | .setRecoveryEnd => Sys2Proof.Machine.execSetRecoveryEnd s
  | .repairFlow line => Sys2Proof.Machine.execRepairFlow line s
  | .dirInject path v => Sys2Proof.Machine.execDirInject path v s
  | .flush path v => Sys2Proof.Machine.execFlush path v s
  | .flushDone => Sys2Proof.Machine.execFlushDone s
  | .syndromeSearch => Sys2Proof.Machine.execSyndromeSearch s
  | .ebufDrainStart => Sys2Proof.Machine.execEbufDrainStart s
  | .ebufWriteDone => Sys2Proof.Machine.execEbufWriteDone s
  | .hcacheInject path v => Sys2Proof.Machine.execHcacheInject path v s
  | .memInject path v => Sys2Proof.Machine.execMemInject path v s
  | .lockForce path v => Sys2Proof.Machine.execLockForce path v s
  | .mantisEdgeEvent add waiter holder tag lk tick offset line => Sys2Proof.Machine.execMantisEdgeEvent add waiter holder tag lk tick offset line s
  | .mantisBreak victim tag line => Sys2Proof.Machine.execMantisBreak victim tag line s
  | .pairTrainTimeout => Sys2Proof.Machine.execPairTrainTimeout s
  | .pairTrainRetry => Sys2Proof.Machine.execPairTrainRetry s
  | .echo n => Sys2Proof.Machine.execEcho n s
  | .echoRsp rtt => Sys2Proof.Machine.execEchoRsp rtt s
  | .join => Sys2Proof.Machine.execJoin s
  | .joined => Sys2Proof.Machine.execJoined s
  | .joinTimeout => Sys2Proof.Machine.execJoinTimeout s
  | .mirrorRecord ca v => Sys2Proof.Machine.execMirrorRecord ca v s
  | .mirrorAck => Sys2Proof.Machine.execMirrorAck s
  | .decision release d => Sys2Proof.Machine.execDecision release d s
  | .boundReport release bound => Sys2Proof.Machine.execBoundReport release bound s
  | .readyReport release => Sys2Proof.Machine.execReadyReport release s
  | .holdReasonReport p tag reason => Sys2Proof.Machine.execHoldReasonReport p tag reason s
  | .abandon agent tag => Sys2Proof.Machine.execAbandon agent tag s
  | .removed p tag => Sys2Proof.Machine.execRemoved p tag s
  | .ended p tag => Sys2Proof.Machine.execEnded p tag s
  | .deadAgentReport agent => Sys2Proof.Machine.execDeadAgentReport agent s
  | .deadClearReport ids => Sys2Proof.Machine.execDeadClearReport ids s
  | .haltOrder cause => Sys2Proof.Machine.execHaltOrder cause s
  | .pairLreset path v => Sys2Proof.Machine.execPairLreset path v s
  | .doorbellSetRecord t bit => Sys2Proof.Machine.execDoorbellSetRecord t bit s
  | .anComplete p matched => Sys2Proof.Machine.execAnComplete p matched s
  | .syncAcquired p => Sys2Proof.Machine.execSyncAcquired p s
  | .fabricLinkDown p => Sys2Proof.Machine.execFabricLinkDown p s
  | .frameForward p f => Sys2Proof.Machine.execFrameForward p f s
  | .frameDiscard p why => Sys2Proof.Machine.execFrameDiscard p why s
  | .credit p f => Sys2Proof.Machine.execCredit p f s
  | .creditSend p => Sys2Proof.Machine.execCreditSend p s
  | .hello p f => Sys2Proof.Machine.execHello p f s
  | .helloSend p => Sys2Proof.Machine.execHelloSend p s
  | .electStable => Sys2Proof.Machine.execElectStable s
  | .links p f => Sys2Proof.Machine.execLinks p f s
  | .reportTimeout => Sys2Proof.Machine.execReportTimeout s
  | .route p f => Sys2Proof.Machine.execRoute p f s
  | .routeAck p f => Sys2Proof.Machine.execRouteAck p f s
  | .routeTimeout => Sys2Proof.Machine.execRouteTimeout s
  | .redisc path v => Sys2Proof.Machine.execRedisc path v s
  | .fabricEcho p f turn => Sys2Proof.Machine.execFabricEcho p f turn s
  | .fabricEchoRsp p f rtt => Sys2Proof.Machine.execFabricEchoRsp p f rtt s
  | .fabricEchoSend p => Sys2Proof.Machine.execFabricEchoSend p s
  | .syncEdge p f sub turn => Sys2Proof.Machine.execSyncEdge p f sub turn s
  | .syncStretch p f => Sys2Proof.Machine.execSyncStretch p f s
  | .fportLreset path p v => Sys2Proof.Machine.execFportLreset path p v s
  | .stnIn p f => Sys2Proof.Machine.execStnIn p f s
  | .bindSend e => Sys2Proof.Machine.execBindSend e s
  | .bindAck p f => Sys2Proof.Machine.execBindAck p f s
  | .stationEntryEnable path e v => Sys2Proof.Machine.execStationEntryEnable path e v s
  | .stationEnable path qual v => Sys2Proof.Machine.execStationEnable path qual v s
  | .cfgErrClear path page v => Sys2Proof.Machine.execCfgErrClear path page v s
  | .irqStatClear path page v => Sys2Proof.Machine.execIrqStatClear path page v s
  | .irqForce path page v => Sys2Proof.Machine.execIrqForce path page v s
  | .irqEnWrite path page v => Sys2Proof.Machine.execIrqEnWrite path page v s
  | .alertResponse => Sys2Proof.Machine.execAlertResponse s
  | .freeze path page v => Sys2Proof.Machine.execFreeze path page v s
  | .lock path page v => Sys2Proof.Machine.execLock path page v s
  | .pageCtlEn path page v => Sys2Proof.Machine.execPageCtlEn path page v s
  | .read addr count remote => Sys2Proof.Machine.execRead addr count remote s
  | .write addr bytes => Sys2Proof.Machine.execWrite addr bytes s
  | .spiStatus => Sys2Proof.Machine.execSpiStatus s
  | .spiReservedCommand cmd => Sys2Proof.Machine.execSpiReservedCommand cmd s
  | .partnerWriteDone => Sys2Proof.Machine.execPartnerWriteDone s
  | .i2cWriteTransfer addr bytes => Sys2Proof.Machine.execI2cWriteTransfer addr bytes s
  | .i2cReadTransfer addr nbytes remote => Sys2Proof.Machine.execI2cReadTransfer addr nbytes remote s
  | .i2cStop => Sys2Proof.Machine.execI2cStop s
  | .sclTimeout => Sys2Proof.Machine.execSclTimeout s
  | .aliasAccess path ca wr => Sys2Proof.Machine.execAliasAccess path ca wr s
  | .perfSelWrite path k v => Sys2Proof.Machine.execPerfSelWrite path k v s
  | .peek path v => Sys2Proof.Machine.execPeek path v s
  | .peekDone => Sys2Proof.Machine.execPeekDone s
  | .traceCtlWrite path v => Sys2Proof.Machine.execTraceCtlWrite path v s
  | .coldReset => Sys2Proof.Machine.execColdReset s
  | .vinLow => Sys2Proof.Machine.execVinLow s
  | .nReset => Sys2Proof.Machine.execNReset s
  | .softReset path v => Sys2Proof.Machine.execSoftReset path v s
  | .dReset path v => Sys2Proof.Machine.execDReset path v s
  | .domainResetOrder => Sys2Proof.Machine.execDomainResetOrder s
  | .domainResetLinkPhase => Sys2Proof.Machine.execDomainResetLinkPhase s
  | .powerStageReady => Sys2Proof.Machine.execPowerStageReady s
  | .loadComplete => Sys2Proof.Machine.execLoadComplete s
  | .go path v => Sys2Proof.Machine.execGo path v s
  | .restoreDone => Sys2Proof.Machine.execRestoreDone s
  | .flashRead path v => Sys2Proof.Machine.execFlashRead path v s
  | .flashProgram path v => Sys2Proof.Machine.execFlashProgram path v s
  | .flashErase path v => Sys2Proof.Machine.execFlashErase path v s
  | .flashOpDone => Sys2Proof.Machine.execFlashOpDone s
  | .load path v => Sys2Proof.Machine.execLoad path v s
  | .loadStart path v => Sys2Proof.Machine.execLoadStart path v s
  | .loadCheck path v => Sys2Proof.Machine.execLoadCheck path v s
  | .otpProgram path v => Sys2Proof.Machine.execOtpProgram path v s
  | .runRequest path v => Sys2Proof.Machine.execRunRequest path v s
  | .idleRequest path v => Sys2Proof.Machine.execIdleRequest path v s
  | .standbyRequest path v => Sys2Proof.Machine.execStandbyRequest path v s
  | .laneWake p => Sys2Proof.Machine.execLaneWake p s
  | .standbyExitDone => Sys2Proof.Machine.execStandbyExitDone s
  | .powerFailTrigger => Sys2Proof.Machine.execPowerFailTrigger s
  | .shutdown path v => Sys2Proof.Machine.execShutdown path v s
  | .retainSaveDone => Sys2Proof.Machine.execRetainSaveDone s
  | .retainEraseDone => Sys2Proof.Machine.execRetainEraseDone s
  | .holdExit => Sys2Proof.Machine.execHoldExit s
  | .referenceStop => Sys2Proof.Machine.execReferenceStop s
  | .overTemperature => Sys2Proof.Machine.execOverTemperature s
  | .extest cells lands => Sys2Proof.Machine.execExtest cells lands s
  | .samplePreload cells lands => Sys2Proof.Machine.execSamplePreload cells lands s
  | .highz => Sys2Proof.Machine.execHighz s
  | .bypass code tdi => Sys2Proof.Machine.execBypass code tdi s
  | .remoteSnoop p kind noData ha set => Sys2Proof.Machine.execRemoteSnoop p kind noData ha set s
  | .forwardedAnswer p tag a => Sys2Proof.Machine.execForwardedAnswer p tag a s
  | .chipSelectRise => Sys2Proof.Machine.execChipSelectRise s
  | .testHigh => Sys2Proof.Machine.execTestHigh s
  | .overTemperatureRestart => Sys2Proof.Machine.execOverTemperatureRestart s

end Sys2Proof.Machine
end

