-- ==== Sys2Proof/Machine/Idle.lean ====
section
/-! DEFINITION. What happens at a clock whatever is commanded: the step on an empty queue, one unit of 10 ns, 8 core cycles (log 1). -/

namespace Sys2Proof.Machine

/-- Counts of the core cycles of one unit: all eviction-buffer entries used, a Busy-line request held by a full chain, a selected
requester ready and not granted (07 R301, 09 R391, 18 R807). -/
def unitCounts : M Unit := do
  let s ← get
  onlyIf (decide (32 ≤ s.ebuf.length)) (addF R.HCACHE_EBUF_FULL_CNT_CNT 8)
  onlyIf (decide (1024 ≤ s.chain.length)) (addF R.GLOBAL_CHAIN_FULL_CNT_CNT 8)
  each (List.range 8) fun k => do
    let src ← rdF (R.LEDGER_PERF_SEL_SRC k)
    onlyIf (getF s (R.LEDGER_PERF_SEL_EVENT k) == 9 &&
        (if src == 31 then (List.range 22).any (isReady s) else isReady s src))
      (addF (R.LEDGER_PERF_CNT_CNT k) 8)

/-- One unit of time: the tick's offset, the arbiter's cycles, the counters, the checks of the Mantis that wait. A hub that is held in
reset or off counts nothing. -/
def idleUnit : M Unit := do
  modify fun s => { s with
    now := s.now + 10,
    tick := if s.tick.running then { s.tick with offset := s.tick.offset + 1 } else s.tick,
    arb := { s.arb with cycles := if s.dreset then 0 else s.arb.cycles + 8 } }
  if isRunning (← get) then
    unitCounts
    holderCycle
    runChecks 17

/-- The step on an empty queue. -/
def idle (s : State) : Host.Outcome State Fault Refusal := finish idleUnit s

end Sys2Proof.Machine
end

