-- ==== Sys2Proof/Safety.lean ====
section
/-! DEFINITION. The terms that claims use: a safe step, how a command ends, what it hands to a port, the partner or the fabric, and
the conditions on a state under which a command is taken. -/

namespace Sys2Proof.Machine

/-! ### Safe steps -/

/-- The command completes in the state: `exec` answers a next state. -/
def Completes (c : Instr) (s : State) : Prop := ∃ t, exec c s = .next t

/-- A step from the state answers a next state. -/
def StepSafe (s : State) : Prop := ∃ t, step s = .next t

/-! ### How a command ends -/

/-- The next state of a command whose own action leaves `x`: the deliveries of interrupts and the lines follow (15 R703-R706), and
the queue is as before. -/
def settled (s x : State) : State := { settle x with pending := s.pending }

/-- The command answers a next state: its own action leaves exactly `x`. -/
def EndsIn (c : Instr) (s x : State) : Prop := exec c s = .next (settled s x)

/-- The command answers a next state: its own action leaves a state with the property. -/
def Leaves (c : Instr) (s : State) (P : State → Prop) : Prop := ∃ x, EndsIn c s x ∧ P x

/-- The registers that a delivery can write: the INTAGG, FPORT, TENANT, MBOX and LEDGER pages, and in GLOBAL the interrupt bits and
the security count and record. -/
def deliveryKey (k : Nat) : Bool :=
  let page := k / 4096
  page == 0x04 || decide (0x1C ≤ page ∧ page ≤ 0x1F) || decide (0x40 ≤ page ∧ page ≤ 0x67) || page == 0x78 ||
    [0x010, 0x018, 0x0E0, 0x0E4].contains k

/-- Fields written in order. -/
def sets (s : State) (l : List (Fld × Nat)) : State := l.foldl (fun s e => setF s e.1 e.2) s

/-- The state after an event of a page (17 R791). -/
def raised (page bit : Nat) (s : State) : State := ran (raise page bit) s

/-- The state after outputs. -/
def put (s : State) (os : List Out) : State := { s with outs := s.outs ++ os }

/-- Registers other than those of the keys are as before. -/
def RegsKept (ks : List Nat) (s x : State) : Prop := ∀ k, k ∉ ks → getReg x.regs k = getReg s.regs k

/-- Registers of the other pages are as before. -/
def PagesKept (ps : List Nat) (s x : State) : Prop := ∀ k, k / 4096 ∉ ps → getReg x.regs k = getReg s.regs k

/-- The stored data are as before: every byte of memory with its check bits, the home cache, the eviction buffer, the snoop filter
and the flash. -/
abbrev DataKept (s x : State) : Prop :=
  x.mem = s.mem ∧ x.memChk = s.memChk ∧ x.slots = s.slots ∧ x.ebuf = s.ebuf ∧ x.dir = s.dir ∧ x.flash = s.flash

/-- Outputs without the SKIP units, which may stand between any two flits (04 R154). -/
def noSkips (os : List Out) : List Out := os.filter fun o => match o with | .ctl _ .skip => false | _ => true

/-- The state after flits of a link have gone out, with the SKIP units due. -/
def flitsOut (s : State) (lk : LinkSel) (os : List Out) : List Out := s.outs ++ (spaced lk outFlits (linkOf s lk).sinceSkip os).1

/-- A message of a port, handed to it since `s`: it waits for a credit there, or has gone out as its flits. -/
def Answered (s x : State) (p : Nat) (m : Msg) : Prop :=
  m ∈ (portOf x p).txq ∨ ∃ os q l r, x.outs = s.outs ++ os ∧ noSkips os = l ++ (flitsOf q m).map (Out.flit p) ++ r

/-- A message for the partner, handed over since `s`: it waits for a credit of the pair link, or has gone out. -/
def ToldPartner (s x : State) (m : PairMsg) : Prop :=
  m ∈ x.pair.txq ∨ ∃ q l r, x.outs = s.outs ++ (l ++ Out.pair q m :: r)

/-- A frame of a fabric port, handed to it since `s`: it waits there, or has gone out. -/
def FrameSent (s x : State) (p : Nat) (f : Frame) : Prop :=
  f ∈ (fportOf x p).txq ∨ ∃ l r, x.outs = s.outs ++ (l ++ Out.frame p f :: r)

/-- A frame as it waits at a port of a dateline (13 R569). -/
def datelined (s : State) (p : Nat) (f : Frame) : Frame :=
  if usesBuf f && s.fabric.dateline.testBit p then { f with vc := 1 } else f

/-- A frame of this hub, or one it passes on, is handed to the port that its route names, when that port routes (13 R565). -/
def Routed (s x : State) (f : Frame) : Prop :=
  (decide (getF s (R.FABRIC_ROUTE_PORT f.dst.toNat) < 4) && fRoutes s (getF s (R.FABRIC_ROUTE_PORT f.dst.toNat))) = true →
    FrameSent s x (getF s (R.FABRIC_ROUTE_PORT f.dst.toNat)) (datelined s (getF s (R.FABRIC_ROUTE_PORT f.dst.toNat)) f)

/-- SEQ of the next frame that this hub originates (13 R564). -/
def seqTo (s : State) (cls dst : Nat) : Nat := kvGet (fun _ => 0) s.fabric.seq (cls * 64 + dst)

/-- The machine at the start of a reset sequence that began in `s`: nothing of the coherence state, the memory view, the ports and
the tick is left; time, OTP and the strap lands are as they were. -/
def AtStart (s x : State) : Prop :=
  stage x = 0 ∧ x.mem = [] ∧ x.flows = [] ∧ x.chain = [] ∧ x.locks = [] ∧ x.dir = [] ∧ x.ports = [] ∧ x.active = [] ∧
    x.tick = Tick.empty ∧ x.now = s.now ∧ x.otp = s.otp

/-- Every register has its reset value (a cold reset). -/
def RegsReset (x : State) : Prop := ∀ k, getReg x.regs k = regDflt k

/-- Every register but the RWS ones has its reset value (a warm reset). -/
def RegsWarm (s x : State) : Prop :=
  ∀ k, getReg x.regs k = if rwsKeys.contains k then getReg s.regs k else regDflt k

/-! ### When a configuration access is taken -/

/-- Room among the advertised buffers of the pair link for one message on channel `c` with `n` data flits. -/
def pairRoom (s : State) (c n : Nat) : Bool :=
  let l := s.pair.link
  let room := fun (d k : Nat) =>
    decide (kvGet (fun _ => 0) l.rxCount d + k - kvGet (fun _ => 0) l.rxReported d ≤ pairAdvertised.getD d 0)
  pairLstate s == 6 && room c 1 && room 3 ((if c = 3 then 1 else 0) + n)

/-- The state once such a message of the partner has been taken. -/
def tookPair (s : State) (c n : Nat) : State := ran (takePairFlits 3 n) (ran (takePairFlits c 1) s)

/-- The path may read now. -/
def reads (path : Path) (s : State) : Bool :=
  match path with
  | .partner _ => hasPartner s && pairRoom s 5 0
  | p => pathOk p s

/-- The path may write registers of the page now (17 R800, 16 R731). -/
def served (path : Path) (page : Nat) (s : State) : Bool :=
  match path with
  | .partner _ => hasPartner s && pairRoom s 5 1
  | p => pathOk p s && !authGated s p page

/-- A configuration address of this hub that the path can name. -/
def ownCa (path : Path) (ca : Nat) : Bool :=
  match path with
  | .partner _ => true
  | p => decide (ca < 0x200000) && caHub ca == 0 && (!isService p || ca % 4 == 0)

/-- What the write of a word makes of a register, with the codes of the fields it refuses (R7, R16, R17, R876). -/
def writeResult (path : Path) (s : State) (page off : Nat) (v : Word) : Word × List Nat :=
  wordWrite s (isImage path) page off (getReg s.regs (regKey page off)) v (rowsAt page off)

/-- The write is taken and no field of it is refused. -/
def accepted (path : Path) (page off : Nat) (v : Word) (s : State) : Bool :=
  served path page s && (writeResult path s page off v).2 == []

/-- The image passes every check of 16 R738, each of its records is taken, and the configuration it gives stands, when it is applied
in this state; no reset cuts it short. -/
def imageGood (s : State) (src : ImgSrc) : Bool :=
  imageErr s src == 0 && (applyImage (pure ()) src s).1 == 0 && !cutShort (ran (applyImage (pure ()) src) s)

/-- Registers whose write sets their fields and does nothing else: pages GLOBAL, ARB, LOCK, DIR, HCACHE, SCRUB, CARGO and COMMIT
without their acting registers. -/
def quietReg (page off : Nat) : Bool :=
  rowsAt page off != [] && (groupOf page off).isNone && decide (0x040 ≤ off ∧ off < 0x1000) &&
    regKey page off != R.GLOBAL_SVC_STAT_REFUSED.key &&
    ((page == 0x00 && off != 0x040 && off != 0x0C0) || (page == 0x28 && off != 0x040 && off != 0x044) || (page == 0x29 && off != 0x078) ||
      (page == 0x30 && off != 0x08C) || (page == 0x31 && off != 0x040 && off != 0x080) || page == 0x33 || page == 0x68 ||
      page == 0x70)

/-! ### When a message of an agent is taken -/

/-- A buffer for `n` flits of channel `c` that the port has advertised (04 R165-R167). -/
def roomAt (s : State) (p c n : Nat) : Bool :=
  let l := (portOf s p).link
  decide (kvGet (fun _ => 0) l.rxCount c + n - kvGet (fun _ => 0) l.rxReported c ≤ advertised c)

/-- The port takes flits now, and the message is as R197 asks: FT 0, its channel, credits, its number of data flits. -/
def flitsOk (s : State) (p ft vc chan : Nat) (fs : List DFlit) (n : Nat) : Bool :=
  receives s p && ft == 0 && vc == chan && (chan == 0 || chan == 2 || chan == 3 || chan == 5) && roomAt s p chan 1 &&
    (fs.isEmpty || roomAt s p 3 ((if chan = 3 then 1 else 0) + fs.length)) && framed n fs

/-- The port and the tag are ready for a new request or MSG operation. -/
def tagFree (s : State) (p tag : Nat) : Bool :=
  lstate s p == 4 && !discards s && (tagOf (portOf s p) tag).isNone

/-- An MSG operation of a header is taken at port `p` and passes steps 1 and 2 of admission (03 R143). -/
def msgReady (s : State) (h : Hdr) (p : Fin 16) (fs : List DFlit) (n : Nat) : Bool :=
  h.src == .agent p && flitsOk s p.val h.ft.val h.vc.val 5 fs n && tagFree s p.val h.tag.val &&
    tenantOk s p.val h.tenant.val && !tenantResetting s h.tenant.val

/-- A request command as the opcode table of 05 R209-R212 has it: header, opcode, channel, operation, its flag, byte enables, data
flits and their number. `HAtom` with the reserved OP is none. -/
structure ReqForm where
  h : Hdr
  opcode : Nat
  chan : Nat
  op : ReqOp
  flag : Bool
  be : Nat
  flits : List DFlit
  n : Nat
  deriving DecidableEq, Repr

/-- The request that a command presents. -/
def reqForm : Instr → Option ReqForm
  | .rdS h e => some ⟨h, 0x01, 0, .rdS, e, 0, [], 0⟩
  | .rdU h => some ⟨h, 0x02, 0, .rdU, false, 0, [], 0⟩
  | .upg h f => some ⟨h, 0x03, 0, .upg, f, 0, [], 0⟩
  | .rdOnce h => some ⟨h, 0x04, 0, .rdOnce, false, 0, [], 0⟩
  | .evClean h => some ⟨h, 0x05, 0, .evClean, false, 0, [], 0⟩
  | .lkRd h d => some ⟨h, 0x06, 0, .lkRd, d, 0, [], 0⟩
  | .ulWr h w fs => some ⟨h, 0x07, if w then 3 else 0, .ulWr, w, 0, fs, if w then 4 else 0⟩
  | .wrBack h fs => some ⟨h, 0x10, 3, .wrBack, false, 0, fs, 4⟩
  | .wrFull h fs => some ⟨h, 0x11, 3, .wrFull, false, 0, fs, 4⟩
  | .wrPartial h be fs => some ⟨h, 0x12, 3, .wrPartial, false, be.toNat, fs, 1⟩
  | .hAtom h o fs =>
    if o.val = 0 then some ⟨h, 0x13, 3, .fetchAdd, false, 0, fs, 1⟩
    else if o.val = 1 then some ⟨h, 0x13, 3, .swap, false, 0, fs, 1⟩
    else if o.val = 2 then some ⟨h, 0x13, 3, .cmpSwap, false, 0, fs, 2⟩
    else none
  | _ => none

/-- The request's flits are taken at port `p`, whose tag is free; an `EvClean` comes from an agent that has it. -/
def reqReady (s : State) (r : ReqForm) (p : Fin 16) : Bool :=
  r.h.src == .agent p && flitsOk s p.val r.h.ft.val r.h.vc.val r.chan r.flits r.n && tagFree s p.val r.h.tag.val &&
    (r.op != .evClean || getF s (R.APORT_CAP_EVCLEAN p.val) == 1)

/-- A snoop response command: header, opcode, channel, data flits, their number (05 R225). -/
structure RspForm where
  r : RspHdr
  opcode : Nat
  chan : Nat
  flits : List DFlit
  n : Nat
  deriving DecidableEq, Repr

/-- The response that a command presents. -/
def rspForm : Instr → Option RspForm
  | .rspI r => some ⟨r, 0x60, 2, [], 0⟩
  | .rspS r => some ⟨r, 0x61, 2, [], 0⟩
  | .rspIWb r fs => some ⟨r, 0x62, 3, fs, 4⟩
  | .rspSWb r fs => some ⟨r, 0x63, 3, fs, 4⟩
  | .rspFwd r fs => some ⟨r, 0x64, 3, fs, 4⟩
  | .rspIWbp r => some ⟨r, 0x65, 2, [], 0⟩
  | _ => none

/-- The response is taken at port `p` and answers the snoop `sn` outstanding under its SNOOP_ID. -/
def rspReady (s : State) (r : RspForm) (p : Fin 16) (sn : Snoop) : Bool :=
  r.r.src == .agent p && flitsOk s p.val r.r.ft.val r.r.vc.val r.chan r.flits r.n &&
    kvGet (fun _ => false) (portOf s p.val).issued r.r.sid.val && snoopOf (portOf s p.val) r.r.sid.val == some sn && !sn.wbp &&
    allowed sn.kind sn.noData r.opcode && (r.opcode != 0x64 || (profileF s && getF s (R.APORT_CAP_VER p.val) != 1))

/-! ### Frames of the fabric -/

/-- A frame of a class that a port takes now (13 R561, R563). -/
def frameOkAt (s : State) (p : Fin 4) (f : Frame) (cls : Nat) : Bool :=
  fLink s p.val && f.cls.val == cls && decide (f.payload.length ≤ 256)

/-- A routed frame for this node. -/
def forHere (s : State) (f : Frame) : Bool := getF s R.FABRIC_STAT_ID_VALID == 1 && f.dst.toNat == nodeId s

/-- A DISC frame of a kind. -/
def discAt (s : State) (p : Fin 4) (f : Frame) (kind : Nat) : Bool := frameOkAt s p f 1 && pfield f 0 1 == kind

end Sys2Proof.Machine
end

