-- ==== Sys2Proof/Certificates/Slice0/Obligations.lean ====
section
/-! DEFINITION. The statements for the provers. -/

open Sys2Proof Sys2Proof.Machine

/-- For every command c and state s, a step of s with c at the front of its queue is exec of c on s with the queue's rest.
The queue is the model's, as the row's form asks (log 1). (17_register_conventions_and_map.md) -/
def Obligations.StepRunsFrontCommand : Prop :=
  ∀ (c : Instr) (s : State), Machine.step { s with pending := c :: s.pending } = Machine.exec c s

/-- On an empty queue the model's step is one unit of time (DESIGN CHOICE, log 1): it answers a next state in which time
is 10 ns on, the offset of a running tick is one further, and a tick that does not run is as it was.
(02_frame_tick_and_time.md (R28)) -/
def Obligations.IdleStepCountsTime : Prop :=
  ∀ s : State, s.pending = [] → ∃ x, Machine.step s = .next (settled s x) ∧ x.now = s.now + 10 ∧ x.tick.offset = (if
    s.tick.running then s.tick.offset + 1 else s.tick.offset) ∧ x.tick.running = s.tick.running ∧ DataKept s x

/-- What follows a command's own action - the delivery of pages that became pending and the driving of nIRQ and SMBALERT#
- leaves every register outside the delivery pages, the stored data, the flows, locks, tick and event state as they
are. So what a statement says of the state a command's action leaves holds of the next state too.
(15_failure_containment.md (R703-R706), 17_register_conventions_and_map.md (R791)) -/
def Obligations.DeliveriesKeepTheState : Prop :=
  ∀ s x : State, (∀ k, deliveryKey k = false → getReg (settled s x).regs k = getReg x.regs k) ∧ DataKept x (settled s x) ∧
    (settled s x).flows = x.flows ∧ (settled s x).chain = x.chain ∧ (settled s x).arb = x.arb ∧ (settled s x).locks = x.locks
    ∧ (settled s x).tick = x.tick ∧ (settled s x).evt = x.evt ∧ (settled s x).fv = x.fv ∧ (settled s x).active = x.active ∧
    (settled s x).cargo = x.cargo ∧ (settled s x).pending = s.pending

/-- For every command c and state s, exec of c on s answers a next state, whose queue is that of s. The queue is the
model's own. (17_register_conventions_and_map.md) -/
def Obligations.EveryCommandKeepsTheQueue : Prop :=
  ∀ (c : Instr) (s : State), ∃ t, Machine.exec c s = .next t ∧ t.pending = s.pending

/-- Whatever state a step starts in, the next state drives nIRQ low exactly when the hub is in stage RUN and some pending
page has INTAGG.ROUTE.NIRQ=1, and INTAGG.LEVEL.NIRQ shows it. (15_failure_containment.md (R703, R704),
16_reset_power_retain_boot.md (R714)) -/
def Obligations.NirqFollowsPendingPages : Prop :=
  ∀ s t : State, Machine.step s = .next t → t.nirqLow = ((stage t == 4) && (pendingPages t).any fun p => routeBit t p 0) ∧
    (getF t R.INTAGG_LEVEL_NIRQ = 1 ↔ t.nirqLow = true)

/-- Whatever state a step starts in, the next state drives SMBALERT# low exactly when the hub is in stage RUN, some
pending page has INTAGG.ROUTE.ALERT=1, and no Alert Response Address was answered since such a page last became
pending; INTAGG.LEVEL.ALERT shows it. (15_failure_containment.md (R704, R710), 16_reset_power_retain_boot.md (R714)) -/
def Obligations.AlertFollowsPendingPages : Prop :=
  ∀ s t : State, Machine.step s = .next t → t.alertLow = ((stage t == 4) && !t.alertAcked && (pendingPages t).any fun p =>
    routeBit t p 1) ∧ (getF t R.INTAGG_LEVEL_ALERT = 1 ↔ t.alertLow = true)

/-- State.reset satisfies what every step keeps of nIRQ: no page is pending and nIRQ is high. The model's own fields intQ
and the queue are empty there (logs 1, 2). (15_failure_containment.md (R703, R704)) -/
def Obligations.NirqAtReset : Prop :=
  State.reset.nirqLow = false ∧ pendingPages State.reset = [] ∧ getF State.reset R.INTAGG_LEVEL_NIRQ = 0 ∧
    State.reset.pending = []

/-- For every path and every register whose write only sets fields: a write that no field refuses leaves the register as
R7 and R876 make it, every other register but the path's own status and PAIR.MIRROR_PEND as before, and the stored
data and the tick as they are. With one refusal code and an empty capture, ERR_CAP0 holds that code, VALID and COUNT
1, and the register the fields that were taken. (00_scope.md (R7, R876), 17_register_conventions_and_map.md (R769,
R785)) -/
def Obligations.RegisterWriteSetsFields : Prop :=
  (∀ (path : Path) (ca : BitVec 24) (v : Word) (s : State), ownCa path ca.toNat → quietReg (caPage ca.toNat) (caOff ca.toNat)
    → accepted path (caPage ca.toNat) (caOff ca.toNat) v s → Leaves (.registerWrite path ca v) s fun x => getReg x.regs
    (regKey (caPage ca.toNat) (caOff ca.toNat)) = (writeResult path s (caPage ca.toNat) (caOff ca.toNat) v).1 ∧ RegsKept
    [regKey (caPage ca.toNat) (caOff ca.toNat), R.GLOBAL_SVC_STAT_REFUSED.key, R.PAIR_MIRROR_PEND_N.key] s x ∧ DataKept s x ∧
    x.tick = s.tick) ∧
  (∀ (path : Path) (ca : BitVec 24) (v : Word) (c : Nat) (s : State), ownCa path ca.toNat → quietReg (caPage ca.toNat) (caOff
    ca.toNat) → served path (caPage ca.toNat) s → (writeResult path s (caPage ca.toNat) (caOff ca.toNat) v).2 = [c] → getF s
    (capValid (caPage ca.toNat)) = 0 → c < 256 → Leaves (.registerWrite path ca v) s fun x => getReg x.regs (regKey (caPage
    ca.toNat) (caOff ca.toNat)) = (writeResult path s (caPage ca.toNat) (caOff ca.toNat) v).1 ∧ getF x (capCode (caPage
    ca.toNat)) = c ∧ getF x (capValid (caPage ca.toNat)) = 1 ∧ getF x (capCount (caPage ca.toNat)) = 1 ∧ DataKept s x)

/-- For rows of fields that share no bit: after a write each field holds what the write makes of that field alone. A
read-only field keeps its value, a write-one-to-clear field loses the written ones, and an RW, RWL or RWS field takes
the written value, or keeps its own where it is out of range, locked, mirrored on hub 1, or closed once the tick has
started; writing the present value is never refused. (00_scope.md (R7, R876, R877), 17_register_conventions_and_map.md
(R790), 12_pair_operation.md (R532)) -/
def Obligations.FieldsAreWrittenOneByOne : Prop :=
  (∀ (s : State) (img : Bool) (page off : Nat) (old v : Word) (rows : List FieldRow), rows.Pairwise (fun a b => a.lo + a.w ≤
    b.lo ∨ b.lo + b.w ≤ a.lo) → (∀ r ∈ rows, r.lo + r.w ≤ 32) → ∀ r ∈ rows, fieldOf (wordWrite s img page off old v rows).1
    r.lo r.w = (fieldWrite s img page off old v r).1) ∧
  (∀ (s : State) (img : Bool) (page off : Nat) (old v : Word) (r : FieldRow), (r.acc = .ro → (fieldWrite s img page off old v
    r).1 = fieldOf old r.lo r.w) ∧ (r.acc = .w1c → fieldOf v r.lo r.w = 2 ^ r.w - 1 → (fieldWrite s img page off old v r).1 =
    0) ∧ ((r.acc = .rw ∨ r.acc = .rwl ∨ r.acc = .rws) → img = false → refusals s img page off r (fieldOf v r.lo r.w) = [] →
    fieldWrite s img page off old v r = (fieldOf v r.lo r.w, [])) ∧ ((r.acc = .rw ∨ r.acc = .rwl ∨ r.acc = .rws) → refusals s
    img page off r (fieldOf v r.lo r.w) ≠ [] → (fieldWrite s img page off old v r).1 = fieldOf old r.lo r.w) ∧ (fieldOf v
    r.lo r.w = fieldOf old r.lo r.w → (r.acc = .rw ∨ r.acc = .rwl ∨ r.acc = .rws) → fieldWrite s img page off old v r =
    (fieldOf old r.lo r.w, [])))

/-- A read of the lowest word of a multi-word value latches its higher words for the path, and a read of a higher word
answers the latched one. A write of a word below the highest is held for the path and changes no register but the
path's status; a write of the highest word of FABRIC.ASSIGN (two words) writes the held lower word and the written
one. (00_scope.md (R11-R13), 17_register_conventions_and_map.md (R769, R773)) -/
def Obligations.MultiWordValues : Prop :=
  (∀ (path : Path) (ca : BitVec 24) (base n : Nat) (s : State), ownCa path ca.toNat → reads path s → groupOf (caPage
    ca.toNat) (caOff ca.toNat) = some (base, 0, n) → rowsAt (caPage ca.toNat) (caOff ca.toNat) ≠ [] → Leaves
    (.multiWordLowRead path ca) s fun x => (∀ i, 0 < i → i < n → noted (pathSt x (pathNo path)).latch (regKey (caPage
    ca.toNat) base + 4 * i) = some (viewReg s (caPage ca.toNat) (base + 4 * i))) ∧ RegsKept [] s x ∧ DataKept s x) ∧
  (∀ (path : Path) (ca : BitVec 24) (base i n : Nat) (w : Word) (s : State), ownCa path ca.toNat → reads path s → pathNo path
    < 19 → groupOf (caPage ca.toNat) (caOff ca.toNat) = some (base, i, n) → 0 < i → rowsAt (caPage ca.toNat) (caOff ca.toNat)
    ≠ [] → noted (pathSt s (pathNo path)).latch (regKey (caPage ca.toNat) (caOff ca.toNat)) = some w → Leaves
    (.multiWordLowRead path ca) s fun x => x.outs = s.outs ++ [.word (pathNo path) w] ∧ x.regs = s.regs) ∧
  (∀ (path : Path) (ca : BitVec 24) (base i n : Nat) (v : Word) (s : State), ownCa path ca.toNat → served path (caPage
    ca.toNat) s → groupOf (caPage ca.toNat) (caOff ca.toNat) = some (base, i, n) → i + 1 < n → groupWritable (caPage
    ca.toNat) (caOff ca.toNat) → rowsAt (caPage ca.toNat) (caOff ca.toNat) ≠ [] → Leaves (.registerWrite path ca v) s fun x
    => noted (pathSt x (pathNo path)).held (regKey (caPage ca.toNat) (caOff ca.toNat)) = some v ∧ RegsKept
    [R.GLOBAL_SVC_STAT_REFUSED.key] s x ∧ DataKept s x) ∧
  (∀ (path : Path) (a : Fin 16) (lo v : Word) (s : State), noted (pathSt s (pathNo path)).held (regKey 0x20 (0x100 + 16 *
    a.val)) = some lo → accepted path 0x20 (0x100 + 16 * a.val) lo s → accepted path 0x20 (0x104 + 16 * a.val) v s → Leaves
    (.multiWordHighWrite path (BitVec.ofNat 24 (regKey 0x20 (0x104 + 16 * a.val))) v) s fun x => getReg x.regs (regKey 0x20
    (0x100 + 16 * a.val)) = (writeResult path s 0x20 (0x100 + 16 * a.val) lo).1 ∧ getReg x.regs (regKey 0x20 (0x104 + 16 *
    a.val)) = (writeResult path s 0x20 (0x104 + 16 * a.val) v).1 ∧ RegsKept [regKey 0x20 (0x100 + 16 * a.val), regKey 0x20
    (0x104 + 16 * a.val), R.GLOBAL_SVC_STAT_REFUSED.key] s x ∧ DataKept s x)

/-- Setting RUN where the tick may start starts it: offset 0, the length of the period register, edges not yet begun; on a
master that has not joined, RUN reads 0 and is held. Clearing RUN stops the edges. A period or phase write that keeps
the layout sets the register and leaves the tick in progress alone; one that breaks it keeps the register and sets
LAYOUT_ERR. FAULT_CLR with FAULTED set makes commits resume at the next edge. The frame of each is stated.
(02_frame_tick_and_time.md (R30, R32, R41, R42, R55, R94, R878), 12_pair_operation.md (R530, R532)) -/
def Obligations.TickRegistersAct : Prop :=
  (∀ (path : Path) (v : Word) (s : State), ownCa path R.TICK_CTL_RUN.key → accepted path 0x01 0x040 (withField v 0 1 1) s →
    mayStart s → (isHub1 s && !pairOn s) = false → s.tick.running = false → bitOf v R.TICK_CTL_FAULT_CLR = false → Leaves
    (.tickRunSet path v) s fun x => getF x R.TICK_CTL_RUN = 1 ∧ x.tick.running = true ∧ x.tick.started = true ∧ x.tick.offset
    = 0 ∧ x.tick.len = getF s R.TICK_PERIOD_NS10 ∧ RegsKept [R.TICK_CTL_RUN.key, R.GLOBAL_SVC_STAT_REFUSED.key,
    R.PAIR_MIRROR_PEND_N.key] s x ∧ DataKept s x) ∧
  (∀ (path : Path) (v : Word) (s : State), ownCa path R.TICK_CTL_RUN.key → accepted path 0x01 0x040 (withField v 0 1 1) s →
    awaitsJoin s → bitOf v R.TICK_CTL_FAULT_CLR = false → Leaves (.tickRunSet path v) s fun x => getF x R.TICK_CTL_RUN = 0 ∧
    x.pair.runHeld = true ∧ x.tick = s.tick ∧ RegsKept [R.TICK_CTL_RUN.key, R.GLOBAL_SVC_STAT_REFUSED.key,
    R.PAIR_MIRROR_PEND_N.key] s x ∧ DataKept s x) ∧
  (∀ (path : Path) (v : Word) (s : State), ownCa path R.TICK_CTL_RUN.key → accepted path 0x01 0x040 (withField v 0 1 0) s →
    awaitsJoin s = false → (isHub1 s && !pairOn s) = false → s.tick.running → getF s R.TICK_CTL_RUN = 1 → s.fv.commit = none
    → s.fv.release = none → s.pendSet = none → Leaves (.tickRunClear path v) s fun x => getF x R.TICK_CTL_RUN = 0 ∧
    x.tick.running = false ∧ x.tick.started = s.tick.started ∧ x.evt.loadDue = false ∧ x.evt.nextSched = none ∧ RegsKept
    [R.TICK_CTL_RUN.key, R.EVT_LEVEL_PINS.key, R.GLOBAL_SVC_STAT_REFUSED.key, R.PAIR_MIRROR_PEND_N.key] s x ∧ DataKept s x) ∧
  (∀ (path : Path) (v : Word) (s : State), ownCa path R.TICK_PERIOD_NS10.key → accepted path 0x01 0x044 v s → breaksLayout s
    R.TICK_PERIOD_NS10.key (writeResult path s 0x01 0x044 v).1 = false → Leaves (.tickPeriodWrite path v) s fun x => getF x
    R.TICK_PERIOD_NS10 = fieldOf v 0 20 ∧ x.tick = s.tick ∧ RegsKept [R.TICK_PERIOD_NS10.key, R.GLOBAL_SVC_STAT_REFUSED.key,
    R.PAIR_MIRROR_PEND_N.key] s x ∧ DataKept s x) ∧
  (∀ (path : Path) (r : PhaseReg) (v : Word) (s : State), ownCa path (phaseFld r).key → accepted path 0x01 (phaseFld r).off v
    s → breaksLayout s (phaseFld r).key (writeResult path s 0x01 (phaseFld r).off v).1 = false → Leaves (.phaseRegisterWrite
    path r v) s fun x => getF x (phaseFld r) = fieldOf v 0 20 ∧ x.tick = s.tick ∧ RegsKept [(phaseFld r).key,
    R.GLOBAL_SVC_STAT_REFUSED.key, R.PAIR_MIRROR_PEND_N.key] s x ∧ DataKept s x) ∧
  (∀ (path : Path) (r : PhaseReg) (v : Word) (s : State), ownCa path (phaseFld r).key → served path 0x01 s → isImage path =
    false → breaksLayout s (phaseFld r).key (writeResult path s 0x01 (phaseFld r).off v).1 → Leaves (.phaseRegisterWrite path
    r v) s fun x => getF x (phaseFld r) = getF s (phaseFld r) ∧ getF x R.TICK_STAT_LAYOUT_ERR = 1 ∧ x.tick = s.tick ∧
    DataKept s x) ∧
  (∀ (path : Path) (v : Word) (s : State), ownCa path R.TICK_CTL_RUN.key → accepted path 0x01 0x040 (withField v 8 1 1) s →
    s.tick.running → fieldOf v 0 1 = 1 → getF s R.TICK_CTL_RUN = 1 → awaitsJoin s = false → (isHub1 s && !pairOn s) = false →
    getF s R.TICK_STAT_FAULTED = 1 → Leaves (.faultClr path v) s fun x => x.tick = { s.tick with resumeAtEdge := true } ∧
    getF x R.TICK_STAT_FAULTED = 1 ∧ RegsKept [R.TICK_CTL_RUN.key, R.GLOBAL_SVC_STAT_REFUSED.key, R.PAIR_MIRROR_PEND_N.key] s
    x ∧ DataKept s x)

/-- On a hub that generates its edges, a due edge numbers the new tick one on, modulo 2^32, and starts it at offset 0 with
the period register's value and nothing of it done. On hub 1 a marker's tick takes the marker's number; a missing
marker is noted - PAIR_SYNC_LOST, no marker for this tick - and hub 1 numbers the tick itself. The ledger's published
tick is the one that ended. Stated where no region, window, lock or live cell is there; registers of other pages and
the stored data stay. (02_frame_tick_and_time.md (R28, R36, R38, R42, R45, R67), 12_pair_operation.md (R535, R538)) -/
def Obligations.TickEdgeStartsANewTick : Prop :=
  (∀ (s : State), s.tick.running → ownEdges s → s.tick.len ≤ s.tick.offset → linkOut s = false → isMirror s = false →
    s.active = [] → s.fv.commit = none → s.fv.release = none → s.pendSet = none → s.live = [] → s.locks = [] → s.waits = [] →
    s.pair.mirrorQ = [] → s.pair.acked = [] → 120 ≤ getF s R.TICK_COMMIT_BUDGET_NS10 → isCoord s = false → Leaves (.tickEdge)
    s fun x => tickNum x = (tickNum s + 1) % 2 ^ 32 ∧ getF x R.LEDGER_PUB_TICK_NUM = tickNum s ∧ x.tick.offset = 0 ∧
    x.tick.running = true ∧ x.tick.period = getF s R.TICK_PERIOD_NS10 ∧ x.tick.relDone = false ∧ x.tick.budgetDone = false ∧
    x.tick.hkDone = false ∧ x.tick.noMark = false ∧ PagesKept [0x01, 0x20, 0x70, 0x78] s x ∧ DataKept s x) ∧
  (∀ (num : Word) (s : State), isMirror s → hasPartner s → pairLstate s = 6 → s.tick.running → num.toNat ≠ tickNum s →
    ownEdges s = false → s.active = [] → s.fv.commit = none → s.fv.release = none → s.pendSet = none → s.live = [] → s.locks
    = [] → s.waits = [] → s.pair.mirrorQ = [] → s.pair.acked = [] → 120 ≤ getF s R.TICK_COMMIT_BUDGET_NS10 → isCoord s =
    false → Leaves (.tickMark num) s fun x => tickNum x = num.toNat ∧ getF x R.LEDGER_PUB_TICK_NUM = tickNum s ∧
    x.tick.offset = 0 ∧ x.tick.running = true ∧ x.tick.period = getF s R.TICK_PERIOD_NS10 ∧ x.tick.relDone = false ∧
    x.tick.budgetDone = false ∧ x.tick.hkDone = false ∧ x.tick.noMark = false ∧ PagesKept [0x01, 0x20, 0x70, 0x78] s x ∧
    DataKept s x) ∧
  (∀ (s : State), isMirror s → hasPartner s → s.tick.running → s.tick.len ≤ s.tick.offset → ownEdges s = false → s.active =
    [] → s.fv.commit = none → s.fv.release = none → s.pendSet = none → s.live = [] → s.locks = [] → s.waits = [] →
    s.pair.mirrorQ = [] → s.pair.acked = [] → 120 ≤ getF s R.TICK_COMMIT_BUDGET_NS10 → isCoord s = false → Leaves
    (.tickMarkMissing) s fun x => tickNum x = (tickNum s + 1) % 2 ^ 32 ∧ getF x R.TICK_STAT_PAIR_SYNC_LOST = 1 ∧
    x.tick.offset = 0 ∧ x.tick.running = true ∧ x.tick.period = getF s R.TICK_PERIOD_NS10 ∧ x.tick.relDone = false ∧
    x.tick.budgetDone = false ∧ x.tick.hkDone = false ∧ x.tick.noMark = true ∧ PagesKept [0x01, 0x18, 0x20, 0x70, 0x78] s x ∧
    DataKept s x)

/-- At COMMIT_BUDGET a tick without an open window only notes the check; a window still in its carry counts CARRY_LATE;
one not flipped is a detected overrun, skipped under OVR_POL SKIP on an unpaired hub, which abandons the window,
counts it and leaves every VER as it was. At COMMIT_BUDGET+STRETCH_MAX an unflipped window under STRETCH is a FAULT.
Pre-commit and pre-release ask once for the invalidation of every line that needs it, and pre-carry for the next line
that needs carry. (02_frame_tick_and_time.md (R48-R54), 11_frame_versioned_images.md (R485-R489)) -/
def Obligations.CommitChecksAndVisits : Prop :=
  (∀ (s : State), s.tick.running → s.tick.budgetDone = false → s.tick.budget ≤ s.tick.offset → s.fv.commit = none → EndsIn
    (.commitBudgetCheck) s ({ s with tick := { s.tick with budgetDone := true } })) ∧
  (∀ (w : Window) (s : State), s.tick.running → s.tick.budgetDone = false → s.tick.budget ≤ s.tick.offset → s.fv.commit =
    some w → w.flipped → s.tick.overrun = false → Leaves (.commitBudgetCheck) s fun x => getF x R.TICK_CARRY_LATE_CNT_CNT =
    min (getF s R.TICK_CARRY_LATE_CNT_CNT + 1) (2 ^ 32 - 1) ∧ x.tick = { s.tick with budgetDone := true } ∧ x.fv = s.fv ∧
    RegsKept [R.TICK_CARRY_LATE_CNT_CNT.key, regKey pgTick offIrqRaw, regKey pgTick offIrqStat] s x ∧ DataKept s x) ∧
  (∀ (w : Window) (s : State), s.tick.running → s.tick.budgetDone = false → s.tick.budget ≤ s.tick.offset → s.fv.commit =
    some w → w.flipped = false → ovrPol s = 0 → isMirror s = false → hasPartner s = false → Leaves (.commitBudgetCheck) s fun
    x => getF x R.TICK_SKIP_CNT_CNT = min (getF s R.TICK_SKIP_CNT_CNT + 1) (2 ^ 32 - 1) ∧ getF x R.TICK_STAT_SKIPPED = 1 ∧
    x.fv.commit = none ∧ (∀ r, getF x (R.COMMIT_COPY_VER r) = getF s (R.COMMIT_COPY_VER r)) ∧ DataKept s x) ∧
  (∀ (w : Window) (s : State), s.tick.running → s.fv.commit = some w → w.flipped = false → ovrPol s = 1 → isMirror s = false
    → hasPartner s = false → s.fv.release = none → s.tick.budget + getF s R.TICK_STRETCH_MAX_NS10 ≤ s.tick.offset → Leaves
    (.stretchMaxExpiry) s fun x => getF x R.TICK_STAT_FAULTED = 1 ∧ getF x R.TICK_FAULT_CNT_CNT = min (getF s
    R.TICK_FAULT_CNT_CNT + 1) (2 ^ 32 - 1) ∧ x.tick.stopped = true ∧ x.fv.commit = none ∧ DataKept s x) ∧
  (∀ (s : State), s.tick.running → isRunning s → commitsStopped s = false → 0 < s.tick.precommit → s.fv.commit = none →
    s.tick.len ≤ s.tick.offset + s.tick.precommit → Leaves (.preCommitStart) s fun x => (x.fv.visited = s.fv.visited ++
    ((linesOf s (partRegions s false) needsInv).filter fun l => !s.fv.visited.contains l).mergeSort) ∧ (x.fv.nv = s.fv.nv ∧
    x.fv.diff = s.fv.diff ∧ x.fv.commit = s.fv.commit ∧ x.fv.release = s.fv.release) ∧ (x.arb.waiting.length =
    s.arb.waiting.length + ((linesOf s (partRegions s false) needsInv).filter fun l => !s.fv.visited.contains l).length) ∧
    x.regs = s.regs ∧ DataKept s x) ∧
  (∀ (s : State), s.tick.running → isRunning s → commitsStopped s = false → 0 < s.tick.precommit → s.fv.commit = none →
    s.tick.relDone = false → phaseAt s s.tick.release ≤ s.tick.offset + s.tick.precommit → Leaves (.preReleaseStart) s fun x
    => (x.fv.visited = s.fv.visited ++ ((linesOf s (partRegions s true) needsInv).filter fun l => !s.fv.visited.contains
    l).mergeSort) ∧ (x.fv.nv = s.fv.nv ∧ x.fv.diff = s.fv.diff ∧ x.fv.commit = s.fv.commit ∧ x.fv.release = s.fv.release) ∧
    (x.arb.waiting.length = s.arb.waiting.length + ((linesOf s (partRegions s true) needsInv).filter fun l =>
    !s.fv.visited.contains l).length) ∧ x.regs = s.regs ∧ DataKept s x) ∧
  (∀ (l : Nat) (s : State), isRunning s → inStandby s = false → discards s = false → s.fv.commit = none → s.fv.release = none
    → 0 < getF s R.COMMIT_CTL_PRECARRY → s.fv.carryAt + 1000 ≤ s.now → s.arb.waiting = [] → s.chain = [] → (bySa s (linesOf s
    (List.range 64) needsCarry)).head? = some l → EndsIn (.preCarryCopy) s
    ({ s with fv := { s.fv with carryAt := s.now, carryN := 1 }, arb := { s.arb with waiting := [engineReq s qCommit .preCarry l 0 0 []] }, nextId := s.nextId + 1 }))

/-- A window whose lines are done is ready; a ready window flips: the VER of its region toggles, IN_STAMP takes the number
of the tick before, FLIP_CNT counts, and the window goes on to its carry; with nothing left to carry it closes. A
release flips in the same way and OUT_STAMP takes IN_STAMP; an unflipped one at REL_BUDGET is skipped and counted. On
hub 1 the marker flips the window; the master's decision flips it late, skips it or faults. Hub 1's bound and
readiness are noted on the master. (11_frame_versioned_images.md (R489-R500), 12_pair_operation.md (R535-R539)) -/
def Obligations.CommitAndReleaseFlip : Prop :=
  (∀ (w : Window) (s : State), s.fv.commit = some w → s.fv.release = none → w.ready = false → w.flipped = false →
    boundsChecked s false → windowQuiet s w → ringIn s w = false → linesOf s w.regions needsInv = [] → isMirror s = false →
    EndsIn (.commitReady) s ({ s with fv := { s.fv with commit := some { w with ready := true } } })) ∧
  (∀ (r : Fin 64) (w : Window) (s : State), s.fv.commit = some w → w.regions = [r.val] → mayFlip s w → Leaves (.commitFlip) s
    fun x => getF x (R.COMMIT_COPY_VER r.val) = 1 - getF s (R.COMMIT_COPY_VER r.val) ∧ getF x R.COMMIT_IN_STAMP_NUM =
    (tickNum s + 2 ^ 32 - 1) % 2 ^ 32 ∧ getF x R.COMMIT_FLIP_CNT_CNT = min (getF s R.COMMIT_FLIP_CNT_CNT + 1) (2 ^ 32 - 1) ∧
    x.fv.commit.map (·.flipped) = some true ∧ DataKept s x ∧ PagesKept [0x70] s x) ∧
  (∀ (r : Fin 64) (w : Window) (s : State), isMirror s → hasPartner s → pairLstate s = 6 → s.fv.commit = some w → w.flipped =
    false → w.regions = [r.val] → s.arb.waiting = [] → Leaves (.flipMark false) s fun x => getF x (R.COMMIT_COPY_VER r.val) =
    1 - getF s (R.COMMIT_COPY_VER r.val) ∧ getF x R.COMMIT_IN_STAMP_NUM = (tickNum s + 2 ^ 32 - 1) % 2 ^ 32 ∧ getF x
    R.COMMIT_FLIP_CNT_CNT = min (getF s R.COMMIT_FLIP_CNT_CNT + 1) (2 ^ 32 - 1) ∧ x.fv.commit.map (·.flipped) = some true ∧
    DataKept s x ∧ PagesKept [0x70] s x) ∧
  (∀ (w : Window) (s : State), s.fv.commit = some w → w.flipped → w.carry = [] → w.inv = [] → s.fv.release = none →
    s.tick.overrun = false → Leaves (.commitWindowClose) s fun x => x.fv.commit = none ∧ getF x R.COMMIT_STAT_WINDOW = 0 ∧
    x.tick = s.tick ∧ PagesKept [0x70] s x ∧ DataKept s x) ∧
  (∀ (s : State), s.tick.running → s.tick.relDone = false → phaseAt s s.tick.release ≤ s.tick.offset → s.tick.overrun = false
    → commitsStopped s = false → s.fv.release = none → s.tick.noMark = false → hasPartner s = false → boundOf (linesOf s
    (partRegions s true) needsInv).length (linesOf s (partRegions s true) needsCarry).length ≤ getF s
    R.COMMIT_REL_BUDGET_NS10 → Leaves (.releasePoint) s fun x => x.fv.release.map (·.regions) = some (partRegions s true) ∧
    x.tick = { s.tick with relDone := true } ∧ PagesKept [0x70] s x ∧ DataKept s x) ∧
  (∀ (remote : List (List DFlit)) (w : Window) (s : State), s.tick.running → s.tick.relDone → phaseAt s s.tick.release + getF
    s R.COMMIT_REL_BUDGET_NS10 ≤ s.tick.offset → s.fv.release = some w → w.flipped = false → hasPartner s = false → ovrPol s
    ≠ 2 → s.tick.relSent → Leaves (.releaseBudgetCheck remote) s fun x => x.fv.release = none ∧ getF x
    R.COMMIT_REL_SKIP_CNT_CNT = min (getF s R.COMMIT_REL_SKIP_CNT_CNT + 1) (2 ^ 32 - 1) ∧ getF x R.COMMIT_OUT_STAMP_NUM =
    getF s R.COMMIT_OUT_STAMP_NUM ∧ (∀ r, getF x (R.COMMIT_COPY_VER r) = getF s (R.COMMIT_COPY_VER r)) ∧ PagesKept [0x70] s x
    ∧ DataKept s x) ∧
  (∀ (remote : List (List DFlit)) (r : Fin 64) (w : Window) (s : State), s.fv.release = some w → w.regions = [r.val] →
    mayFlip s w → s.tick.relSent → Leaves (.releaseFlip remote) s fun x => getF x (R.COMMIT_COPY_VER r.val) = 1 - getF s
    (R.COMMIT_COPY_VER r.val) ∧ getF x R.COMMIT_OUT_STAMP_NUM = getF s R.COMMIT_IN_STAMP_NUM ∧ x.tick =
    { s.tick with relFlipped := true } ∧ x.evt.loadDue = true ∧ x.fv.release.map (·.flipped) = some true ∧ PagesKept [0x21,
    0x25, 0x70] s x ∧ DataKept s x) ∧
  (∀ (r : Fin 64) (w : Window) (s : State), pairRoom s 7 0 → isMirror s → hasPartner s → s.fv.commit = some w → w.flipped =
    false → w.regions = [r.val] → s.arb.waiting = [] → Leaves (.decision false 0) s fun x => getF x (R.COMMIT_COPY_VER r.val)
    = 1 - getF s (R.COMMIT_COPY_VER r.val) ∧ getF x R.COMMIT_IN_STAMP_NUM = (tickNum s + 2 ^ 32 - 1) % 2 ^ 32 ∧ getF x
    R.COMMIT_FLIP_CNT_CNT = min (getF s R.COMMIT_FLIP_CNT_CNT + 1) (2 ^ 32 - 1) ∧ x.fv.commit.map (·.flipped) = some true ∧
    DataKept s x ∧ getF x R.PAIR_FLIP_LATE_CNT_CNT = min (getF s R.PAIR_FLIP_LATE_CNT_CNT + 1) (2 ^ 32 - 1) ∧ PagesKept
    [0x18, 0x70] s x) ∧
  (∀ (w : Window) (s : State), pairRoom s 7 0 → isMirror s → hasPartner s → s.fv.commit = some w → w.flipped = false → Leaves
    (.decision false 1) s fun x => x.fv.commit = none ∧ getF x R.TICK_STAT_SKIPPED = 1 ∧ getF x R.TICK_SKIP_CNT_CNT = min
    (getF s R.TICK_SKIP_CNT_CNT + 1) (2 ^ 32 - 1) ∧ PagesKept [0x01, 0x70] s x ∧ DataKept s x) ∧
  (∀ (w : Window) (s : State), pairRoom s 7 0 → isMirror s → hasPartner s → s.fv.commit = some w → w.flipped = false →
    s.fv.release = none → Leaves (.decision false 2) s fun x => x.fv.commit = none ∧ getF x R.TICK_STAT_FAULTED = 1 ∧
    x.tick.stopped = true ∧ DataKept s x) ∧
  (∀ (bound : BitVec 20) (s : State), pairRoom s 7 0 → isMaster s → hasPartner s → s.fv.commit = none → EndsIn (.boundReport
    false bound) s ({ tookPair s 7 0 with fv := { s.fv with partnerBound := some bound.toNat } })) ∧
  (∀ (w : Window) (s : State), pairRoom s 7 0 → isMaster s → hasPartner s → s.fv.commit = some w → EndsIn (.readyReport
    false) s ({ tookPair s 7 0 with fv := { s.fv with commit := some { w with partnerReady := true } } }))

/-- A selected edge of an input is stamped with tick, offset and SEQ and queued, SEQ going on by one; with 32 records
queued it is dropped and counted in LOST_CNT. A queued record of a line outside the FV regions goes to the home
arbiter as one 16-byte write, and RING_WP goes on round the ring. A loaded schedule holds entries of falling-free
offsets and no end action. A due entry drives its output pin, and the end of a pulse drives it low.
(02_frame_tick_and_time.md (R74-R93)) -/
def Obligations.EventUnit : Prop :=
  (∀ (pin : Fin 16) (rising : Bool) (s : State), getF s (R.EVT_PIN_MODE pin.val) = 1 → evtOn s → landsOff s = false → ((getF
    s (R.EVT_PIN_EDGE pin.val)).testBit (if rising then 0 else 1)) → s.evt.fifo.length < 32 → Leaves (.evtInputEdge pin
    rising) s fun x => (x.evt =
    { s.evt with fifo := s.evt.fifo ++ [if s.tick.running && ownEdges s && edgeDue s then ⟨(tickNum s + 1) % 2 ^ 32, s.tick.offset - s.tick.len, pin.val, rising, getF s R.EVT_SEQ_NUM⟩ else ⟨tickNum s, s.tick.offset, pin.val, rising, getF s R.EVT_SEQ_NUM⟩] })
    ∧ getF x R.EVT_SEQ_NUM = (getF s R.EVT_SEQ_NUM + 1) % 2 ^ 32 ∧ (getF x R.EVT_LEVEL_PINS).testBit pin.val = rising ∧
    RegsKept [R.EVT_SEQ_NUM.key, R.EVT_LEVEL_PINS.key] s x ∧ DataKept s x) ∧
  (∀ (pin : Fin 16) (rising : Bool) (s : State), getF s (R.EVT_PIN_MODE pin.val) = 1 → evtOn s → landsOff s = false → ((getF
    s (R.EVT_PIN_EDGE pin.val)).testBit (if rising then 0 else 1)) → 32 ≤ s.evt.fifo.length → Leaves (.evtInputEdge pin
    rising) s fun x => x.evt = { s.evt with lost := true } ∧ getF x R.EVT_LOST_CNT_CNT = min (getF s R.EVT_LOST_CNT_CNT + 1)
    (2 ^ 32 - 1) ∧ DataKept s x) ∧
  (∀ (c : Capture) (rest : List Capture) (s : State), evtOn s → s.evt.fifo = c :: rest → s.evt.stopped = false → inStandby s
    = false → s.evt.wroteAt + 1000 ≤ s.now → (¬(s.tick.running = true ∧ c.tick = (tickNum s + 1) % 2 ^ 32)) → s.fv.commit =
    none → isHome s ((ringPlace s (getF s R.EVT_RING_WP_WP)).1 * 64) → fvRegion s (ringPlace s (getF s R.EVT_RING_WP_WP)).1 =
    none → Leaves (.captureRecordWrite) s fun x => x.evt =
    { s.evt with fifo := rest, lost := false, wroteAt := s.now, wroteN := 1 } ∧ getF x R.EVT_RING_WP_WP = (getF s
    R.EVT_RING_WP_WP + 1) % 2 ^ getF s R.EVT_RING_LEN_LOG2 % 2 ^ 12 ∧ x.arb.waiting = s.arb.waiting ++ [engineReq s qStation
    .wrPartial (ringPlace s (getF s R.EVT_RING_WP_WP)).1 (ringPlace s (getF s R.EVT_RING_WP_WP)).2 0xFFFF [captureWord c
    s.evt.lost]] ∧ RegsKept [R.EVT_RING_WP_WP.key] s x ∧ DataKept s x) ∧
  (∀ (remote : List (List DFlit)) (s : State), evtOn s → s.evt.loadDue → s.fv.release = none → fvHolds s (getF s
    R.EVT_SCHED_BASE_LINE * 64) 1024 true → Leaves (.scheduleLoad remote) s fun x => x.evt.loadDue = false ∧ (∃ l,
    x.evt.nextSched = some l ∧ (l.filterMap id).Pairwise (fun a b => entOff a ≤ entOff b) ∧ ∀ e ∈ l.filterMap id, entAct e ≠
    0)) ∧
  (∀ (k : Fin 256) (e : BitVec 32) (s : State), s.tick.running → evtOn s → s.evt.took → k.val = s.evt.applied → getF s
    R.TICK_STAT_FAULTED = 0 → s.evt.sched[k.val]? = some (some e) → entOff e < s.tick.base → entOff e ≤ s.tick.offset →
    entAct e ≠ 0 → isOutput s (entPin e) → Leaves (.scheduleEntryApply k) s fun x => x.evt.applied = k.val + 1 ∧ (kvGet (fun
    _ => none) x.evt.drive (entPin e) = some (entAct e != 2)) ∧ (getF x R.EVT_LEVEL_PINS).testBit (entPin e) = (entAct e !=
    2) ∧ RegsKept [R.EVT_LEVEL_PINS.key] s x ∧ DataKept s x) ∧
  (∀ (pin : Fin 16) (t : Nat) (s : State), (s.evt.pulses.find? (fun e => e.1 == pin.val) = some (pin.val, t)) → t ≤ s.now →
    isOutput s pin.val → Leaves (.pulseEnd pin) s fun x => x.evt.pulses = kvDel s.evt.pulses pin.val ∧ (kvGet (fun _ => none)
    x.evt.drive pin.val = some false) ∧ (getF x R.EVT_LEVEL_PINS).testBit pin.val = false ∧ RegsKept [R.EVT_LEVEL_PINS.key] s
    x ∧ DataKept s x)

/-- A due slice with no line, slot or set to visit starts and is noted as done for the tick; at its end DONE_LAST shows
its scrub steps, and a slice cut short counts HK_SHORT_CNT. At the cut-off every station entry in use shows whether
its frame of this tick came: Q 1 and MISS_CUR 0, or Q 0 and MISS_CNT one more. (02_frame_tick_and_time.md (R43),
09_home_cache_and_stored_data.md (R419, R421), 13_daber_fabric_and_stations.md (R610)) -/
def Obligations.HousekeepingAndCutoff : Prop :=
  (∀ (s : State), s.tick.running → weevilOn s → s.tick.hkDone = false → phaseAt s s.tick.hkStart ≤ s.tick.offset →
    stretchOpen s = false → s.weevil.revisit = [] → getF s R.DIR_CTL_AUDIT_EN = 0 → s.weevil.linesInForce = 0 →
    s.weevil.hcInForce = 0 → EndsIn (.housekeepingSliceStart) s
    ({ s with tick := { s.tick with hkDone := true }, weevil := { s.weevil with done := 0, inSlice := true, cut := false } })) ∧
  (∀ (s : State), s.tick.running → s.weevil.inSlice → phaseAt s (s.tick.hkStart + s.tick.hkLen) ≤ s.tick.offset →
    s.weevil.cut → scrubOn s = false → s.weevil.done < 2 ^ 13 → Leaves (.housekeepingSliceEnd) s fun x => x.weevil =
    { s.weevil with inSlice := false, cut := false } ∧ getF x R.SCRUB_DONE_LAST_N = s.weevil.done ∧ getF x
    R.TICK_HK_SHORT_CNT_CNT = min (getF s R.TICK_HK_SHORT_CNT_CNT + 1) (2 ^ 32 - 1) ∧ PagesKept [0x01, 0x33] s x ∧ DataKept s
    x) ∧
  (∀ (e : Fin 48) (s : State), s.tick.running → s.tick.cutDone = false → s.tick.cutoff + s.tick.stretch ≤ s.tick.offset →
    stretchOpen s = false → stationOn s → s.qualOk = false → stnState s e.val ≠ 0 → Leaves (.inCutoff) s fun x => x.tick =
    { s.tick with cutDone := true } ∧ getF x (R.STATION_STATUS_Q e.val) = (stnOf s e.val).got.toNat ∧ ((stnOf s e.val).got =
    true → getF x (R.STATION_MISS_CUR e.val) = 0) ∧ ((stnOf s e.val).got = false → (stnOf s e.val).late = false → getF x
    (R.STATION_MISS_CNT_CNT e.val) = min (getF s (R.STATION_MISS_CNT_CNT e.val) + 1) (2 ^ 32 - 1)) ∧ DataKept s x)

/-- A window that breaches no rule of R110 takes its EN and SIZE_LOG2 and, unless it is enabled on a live port, its bases;
one that does keeps its register. A descriptor write changes the shadow set and not the active one. APPLY of a set
that fails a check shows the first failing row and its region and changes no active region; one that passes is pending
while the tick runs and in effect at once while it does not. REVERT copies the active set back. A retire with nothing
cached ends: the region is gone. A tenant reset sets RESETTING and the next EPOCH; its completion clears RESETTING.
(03_addresses_regions_tenants.md (R110, R119-R130), 16_reset_power_retain_boot.md (R724, R725)) -/
def Obligations.RegionsAndTenants : Prop :=
  (∀ (path : Path) (p k : Fin 16) (v : Word) (s : State), ownCa path (R.APORT_WIN_CTL_EN p.val k.val).key → accepted path
    (0x08 + p.val) (0x20C + 16 * k.val) v s → winBreach s p.val k.val (fieldOf v 0 1 != 0) (fieldOf v 4 5) = none → Leaves
    (.winCtlWrite path p k v) s fun x => getF x (R.APORT_WIN_CTL_EN p.val k.val) = fieldOf v 0 1 ∧ getF x
    (R.APORT_WIN_CTL_SIZE_LOG2 p.val k.val) = fieldOf v 4 5 ∧ ((winEn s p.val k.val && portUp s p.val) = false → winAa x
    p.val k.val = baseAa s p.val k.val ∧ winHa x p.val k.val = baseHa s p.val k.val) ∧ RegsKept [(R.APORT_WIN_CTL_EN p.val
    k.val).key, R.GLOBAL_SVC_STAT_REFUSED.key, R.PAIR_MIRROR_PEND_N.key] s x ∧ DataKept s x) ∧
  (∀ (path : Path) (p k : Fin 16) (v : Word) (c : Nat) (s : State), ownCa path (R.APORT_WIN_CTL_EN p.val k.val).key → served
    path (0x08 + p.val) s → winBreach s p.val k.val (fieldOf v 0 1 != 0) (fieldOf v 4 5) = some c → getF s (capValid (pgAport
    p.val)) = 0 → Leaves (.winCtlWrite path p k v) s fun x => getReg x.regs (R.APORT_WIN_CTL_EN p.val k.val).key = getReg
    s.regs (R.APORT_WIN_CTL_EN p.val k.val).key ∧ getF x (capCode (pgAport p.val)) = c ∧ getF x (capValid (pgAport p.val)) =
    1 ∧ DataKept s x) ∧
  (∀ (path : Path) (r : Fin 64) (reg : Fin 5) (v : Word) (s : State), ownCa path (regKey 0x38 (0x400 + 0x20 * r.val + 4 *
    reg.val)) → accepted path 0x38 (0x400 + 0x20 * r.val + 4 * reg.val) v s → Leaves (.descriptorWrite path r reg v) s fun x
    => getReg x.regs (regKey 0x38 (0x400 + 0x20 * r.val + 4 * reg.val)) = (writeResult path s 0x38 (0x400 + 0x20 * r.val + 4
    * reg.val) v).1 ∧ x.active = s.active ∧ x.pendSet = s.pendSet ∧ RegsKept [regKey 0x38 (0x400 + 0x20 * r.val + 4 *
    reg.val), R.GLOBAL_SVC_STAT_REFUSED.key, R.PAIR_MIRROR_PEND_N.key] s x ∧ DataKept s x) ∧
  (∀ (path : Path) (v : Word) (code r : Nat) (s : State), ownCa path R.REGION_CTL_APPLY.key → isMirror s = false → accepted
    path 0x38 0x040 (withField v 0 1 1) s → fieldOf v 1 1 = 0 → applyFails s (shadowSet s) = some (code, r) → Leaves (.apply
    path v) s fun x => getF x R.REGION_STAT_APPLY_ERR = code ∧ getF x R.REGION_STAT_ERR_REGION = r ∧ x.active = s.active ∧
    x.pendSet = none ∧ DataKept s x) ∧
  (∀ (path : Path) (v : Word) (s : State), ownCa path R.REGION_CTL_APPLY.key → isMirror s = false → accepted path 0x38 0x040
    (withField v 0 1 1) s → fieldOf v 1 1 = 0 → applyFails s (shadowSet s) = none → getF s R.TICK_CTL_RUN = 1 → Leaves
    (.apply path v) s fun x => x.pendSet = some (shadowSet s) ∧ getF x R.REGION_STAT_APPLY_PEND = 1 ∧ getF x
    R.REGION_STAT_APPLY_ERR = 0 ∧ x.active = s.active ∧ DataKept s x) ∧
  (∀ (path : Path) (v : Word) (r : Fin 64) (s : State), ownCa path R.REGION_CTL_APPLY.key → isMirror s = false → accepted
    path 0x38 0x040 (withField v 0 1 1) s → fieldOf v 1 1 = 0 → applyFails s (shadowSet s) = none → getF s R.TICK_CTL_RUN = 0
    → (shadowDesc s r.val).valid → Leaves (.apply path v) s fun x => x.pendSet = none ∧ descOf x.active r.val = shadowDesc s
    r.val ∧ x.applied = shadowSet s ∧ getF x R.REGION_STAT_APPLY_PEND = 0 ∧ DataKept s x) ∧
  (∀ (path : Path) (v : Word) (r : Fin 64) (s : State), ownCa path R.REGION_CTL_APPLY.key → isMirror s = false → accepted
    path 0x38 0x040 (withField v 1 1 1) s → fieldOf v 0 1 = 0 → Leaves (.revert path v) s fun x => (shadowDesc x r.val).valid
    = (descOf s.applied r.val).valid ∧ ((descOf s.applied r.val).base % 4096 = 0 → (descOf s.applied r.val).base < 2 ^ 30 →
    (shadowDesc x r.val).base = (descOf s.applied r.val).base) ∧ x.pendSet = none ∧ x.active = s.active ∧ x.applied =
    s.applied ∧ DataKept s x) ∧
  (∀ (r : Fin 64) (s : State), isRunning s → s.retiring = [r.val] → isFv (descOf s.active r.val) = false → s.dir = [] →
    s.flows = [] → s.chain = [] → s.arb.waiting = [] → s.locks = [] → s.fv.commit = none → s.fv.release = none → s.slots = []
    → s.ebuf = [] → Leaves (.retireDone) s fun x => x.retiring = [] ∧ (x.active = kvSet (fun _ => Desc.invalid) s.active
    r.val Desc.invalid) ∧ getF x R.REGION_STAT_RETIRE_BUSY = 0 ∧ PagesKept [0x38] s x ∧ DataKept s x) ∧
  (∀ (path : Path) (t : Fin 32) (v : Word) (s : State), ownCa path (R.TENANT_CTL_RESET t.val).key → accepted path (0x40 +
    t.val) 0x040 (withField v 8 1 1) s → isMirror s = false → higherReset s = false → s.chain = [] → s.flows = [] → Leaves
    (.tenantReset path t v) s fun x => tenantResetting x t.val ∧ getF x (R.TENANT_STAT_EPOCH t.val) = (getF s
    (R.TENANT_STAT_EPOCH t.val) + 1) % 256 ∧ DataKept s x) ∧
  (∀ (t : Fin 32) (s : State), isRunning s → tenantResetting s t.val → tenantFlows s t.val = false → s.locks = [] →
    s.cargo.owner = [] → pairOn s = false → Leaves (.tenantResetComplete t) s fun x => tenantResetting x t.val = false ∧ getF
    x (R.TENANT_STAT_EPOCH t.val) = getF s (R.TENANT_STAT_EPOCH t.val) ∧ (getReg x.regs (regKey (pgTenant t.val)
    offIrqRaw)).getLsbD 0 ∧ DataKept s x)

/-- For each of RdS, RdU, Upg, RdOnce, EvClean, LkRd, UlWr, WrBack, WrFull, WrPartial and HAtom whose flits are good and
whose tag is free: admitted for a line homed here it joins the arbiter's waiting requests with its operands and opens
its tag; for a line of the partner's it goes out on the pair link with the HA and the bits of forwardBits (log 66);
for a line of a lost hub its agent gets CmpErr HOME_LOST; refused, its agent gets CmpErr with the code and the
tenant's count goes up. A WrPartial that enables no byte is answered CmpWb at once. The same requests from the
partner, for one of its agents or engines, wait at the home arbiter. HAtom with the reserved OP puts the port into
PROTO_ERR with code 7. Nothing stored changes. (03_addresses_regions_tenants.md (R112, R131-R141), 04_xanotte_link.md
(R163), 05_coherence_protocol.md (R209-R221), 12_pair_operation.md (R540)) -/
def Obligations.RequestsAreAdmitted : Prop :=
  (∀ (i : Instr) (r : ReqForm) (p : Fin 16) (ha : Nat) (s : State), reqForm i = some r → reqReady s r p → admission s p.val
    r.h.tenant.val r.h.addr.toNat r.op = .ok ha → lineTaken s p.val r.op ha = false → isHome s ha → (r.op == .wrPartial &&
    r.be == 0) = false → (r.op == .wrBack && (crossing s (agentOf s p.val) (ha / 64) || !(portOf s p.val).snpWait.isEmpty)) =
    false → Leaves (i) s fun x => x.arb.waiting = s.arb.waiting ++ [mkReq s (.port p.val) (agentOf s p.val) r.op r.h.tag.val
    r.h.tenant.val r.h.addr.toNat ha r.flag r.be (quadsOf r.flits)] ∧ (tagOf (portOf x p.val) r.h.tag.val).isSome ∧ x.flows =
    s.flows ∧ PagesKept [0xF0] s x ∧ DataKept s x) ∧
  (∀ (i : Instr) (r : ReqForm) (p : Fin 16) (ha : Nat) (s : State), reqForm i = some r → reqReady s r p → admission s p.val
    r.h.tenant.val r.h.addr.toNat r.op = .ok ha → lineTaken s p.val r.op ha = false → isHome s ha = false → hasPartner s →
    (r.op == .wrBack && !(portOf s p.val).snpWait.isEmpty) = false → Leaves (i) s fun x => ToldPartner s x (.request r.opcode
    (agentOf s p.val) r.h.tag.val r.h.tenant.val ha (forwardBits r.op r.flag (capFwd s p.val) r.be) (quadsOf r.flits)) ∧
    (tagOf (portOf x p.val) r.h.tag.val).isSome ∧ x.arb = s.arb ∧ x.flows = s.flows ∧ PagesKept [0xF0] s x ∧ DataKept s x) ∧
  (∀ (i : Instr) (r : ReqForm) (p : Fin 16) (code : Nat) (s : State), reqForm i = some r → reqReady s r p → admission s p.val
    r.h.tenant.val r.h.addr.toNat r.op = .err code → Leaves (i) s fun x => Answered s x p.val ⟨0x37, r.h.tag.val,
    r.h.tenant.val, agentOf s p.val, r.h.addr.toNat, code, 0, []⟩ ∧ getF x (R.TENANT_ACC_ERR_CNT_CNT r.h.tenant.val) = min
    (getF s (R.TENANT_ACC_ERR_CNT_CNT r.h.tenant.val) + 1) (2 ^ 32 - 1) ∧ getF x (R.TENANT_LAST_ERR_CODE r.h.tenant.val) =
    code % 256 ∧ x.arb = s.arb ∧ x.flows = s.flows ∧ DataKept s x) ∧
  (∀ (i : Instr) (r : ReqForm) (p : Fin 16) (ha : Nat) (s : State), reqForm i = some r → reqReady s r p → admission s p.val
    r.h.tenant.val r.h.addr.toNat r.op = .lost ha → Leaves (i) s fun x => Answered s x p.val ⟨0x37, r.h.tag.val,
    r.h.tenant.val, agentOf s p.val, r.h.addr.toNat, 0x40, 0, []⟩ ∧ getF x R.PAIR_HOME_LOST_CNT_CNT = min (getF s
    R.PAIR_HOME_LOST_CNT_CNT + 1) (2 ^ 32 - 1) ∧ x.arb = s.arb ∧ x.flows = s.flows ∧ DataKept s x) ∧
  (∀ (h : Hdr) (fs : List DFlit) (p : Fin 16) (ha : Nat) (s : State), reqReady s ⟨h, 0x12, 3, .wrPartial, false, 0, fs, 1⟩ p
    → admission s p.val h.tenant.val h.addr.toNat .wrPartial = .ok ha → lineTaken s p.val .wrPartial ha = false → isHome s ha
    → Leaves (.wrPartial h 0 fs) s fun x => Answered s x p.val ⟨0x35, h.tag.val, h.tenant.val, agentOf s p.val, h.addr.toNat,
    0, 0, []⟩ ∧ x.arb = s.arb ∧ DataKept s x) ∧
  (∀ (h : Hdr) (fs : List DFlit) (p : Fin 16) (s : State), h.src = .agent p → (flitsOk s p.val h.ft.val h.vc.val 3 fs
    fs.length ∨ (flitsOk s p.val h.ft.val h.vc.val 3 [] 0 ∧ fs = [])) → lstate s p.val = 4 → s.trackers = [] → Leaves (.hAtom
    h 3 fs) s fun x => lstate x p.val = 6 ∧ getF x (R.APORT_PROTO_CODE p.val) = 7 ∧ x.arb = s.arb ∧ x.flows = s.flows ∧
    DataKept s x) ∧
  (∀ (i : Instr) (r : ReqForm) (a : Fin 32) (s : State), reqForm i = some r → r.h.src = .partner a → (pairRoom s (if
    r.flits.isEmpty then 0 else 3) r.flits.length) → hasPartner s → discards s = false → isHome s (r.h.addr.toNat % 2 ^ 30) →
    shareBlocked s r.op (r.h.addr.toNat % 2 ^ 30) = false → (r.op == .wrPartial && r.be == 0) = false → r.op ≠ .wrBack →
    Leaves (i) s fun x => x.arb.waiting = s.arb.waiting ++
    [{ mkReq s (.pair a.val) a.val r.op r.h.tag.val r.h.tenant.val (r.h.addr.toNat % 2 ^ 30) (r.h.addr.toNat % 2 ^ 30) r.flag r.be (quadsOf r.flits) with fwd := r.h.addr.getLsbD 47 }]
    ∧ x.regs = s.regs ∧ x.flows = s.flows ∧ DataKept s x) ∧
  (∀ (i : Instr) (r : ReqForm) (q : Fin 22) (s : State), reqForm i = some r → r.h.src = .engine q → pairRoom s 6
    r.flits.length → hasPartner s → discards s = false → isHome s (r.h.addr.toNat % 2 ^ 30) → shareBlocked s r.op
    (r.h.addr.toNat % 2 ^ 30) = false → r.op ≠ .wrBack → Leaves (i) s fun x => x.arb.waiting = s.arb.waiting ++ [mkReq s
    (.pairEng q.val) 32 r.op 0 r.h.tenant.val (r.h.addr.toNat % 2 ^ 30) (r.h.addr.toNat % 2 ^ 30) false r.be (quadsOf
    r.flits)] ∧ x.regs = s.regs ∧ x.flows = s.flows ∧ DataKept s x)

/-- A grant for a Busy line takes the request from the waiting ones, stamps it with tick and offset, puts it at the end of
the line's chain and counts the grant. Where the filter is empty and nothing runs, an EvClean - granted from the chain
or from a set's allocation queue - leaves with CmpWb and changes no stored data. The end of a round counts one wait
for every requester that waits, and none for the others. Clearing a starvation flag clears it and the requester's
greatest wait. (10_arbitration_and_locks.md (R433-R445), 07_serialization_and_early_data.md (R299-R305),
05_coherence_protocol.md (R240)) -/
def Obligations.ArbiterAndChains : Prop :=
  (∀ (q : Nat) (r : Req) (s : State), isRunning s → discards s = false → nextGrant s = some q → offer s q = some r → q < 22 →
    needsSearch s (slotIx (curLoc s r.line)) = false → r.op ≠ .ulWr → busyFor s r → (beforeWindow s r && (flowOf s
    r.line).isNone && !searchBusyFor s r.line) = false → lockOn s r.line = none → reqNo r ≠ 16 → Leaves (.arbiterGrant) s fun
    x => x.chain = s.chain ++ [{ r with granted := s.now, stampTick := tickNum s, stampOff := s.tick.offset }] ∧
    (x.arb.waiting = s.arb.waiting.filter fun y => y.id != r.id) ∧ getF x (R.ARB_GRANT_CNT_CNT q) = min (getF s
    (R.ARB_GRANT_CNT_CNT q) + 1) (2 ^ 32 - 1) ∧ x.flows = s.flows ∧ DataKept s x) ∧
  (∀ (p : Fin 16) (line : BitVec 24) (r : Req) (s : State), s.dir = [] → s.flows = [] → s.recov = none → s.recovWait = [] →
    s.inject = [] → s.locks = [] → s.search = none → needsSearch s (slotIx (curLoc s line.toNat)) = false → chainHead s
    line.toNat = some r → r.op = .evClean → r.src = .port p.val → r.gone = false → r.line = line.toNat → Leaves
    (.chainHeadStart line) s fun x => Answered s x p.val ⟨0x35, r.tag, r.tenant, r.agent, r.aa, 0, 0, []⟩ ∧ (x.chain =
    s.chain.filter fun y => y.id != r.id) ∧ x.flows = [] ∧ DataKept s x) ∧
  (∀ (p : Fin 16) (set : Fin 32768) (f : Flow) (s : State), s.dir = [] → s.recov = none → s.recovWait = [] → s.inject = [] →
    s.flows = [f] → f.phase = .alloc → Machine.setOf f.line = set.val → f.req.op = .evClean → f.req.src = .port p.val →
    f.req.gone = false → Leaves (.allocQueueRetry set) s fun x => Answered s x p.val ⟨0x35, f.req.tag, f.req.tenant,
    f.req.agent, f.req.aa, 0, 0, []⟩ ∧ x.flows = [] ∧ DataKept s x) ∧
  (∀ (q : Fin 22) (s : State), (s.arb.rotated ∨ 64 ≤ s.arb.cycles) → Leaves (.roundEnd) s fun x => (getF x (R.ARB_WAIT_CUR
    q.val) = (if waitingAt s q.val = [] then getF s (R.ARB_WAIT_CUR q.val) else min (getF s (R.ARB_WAIT_CUR q.val) + 1) (2 ^
    (R.ARB_WAIT_CUR q.val).w - 1))) ∧ x.arb.rotated = false ∧ x.arb.waiting.length = s.arb.waiting.length ∧ DataKept s x) ∧
  (∀ (path : Path) (v : Word) (q : Fin 22) (s : State), ownCa path R.ARB_STARVE_FLAG.key → accepted path 0x28 0x044 v s →
    v.getLsbD q.val → Leaves (.starveClear path v) s fun x => (getF x R.ARB_STARVE_FLAG).testBit q.val = false ∧ getF x
    (R.ARB_WAIT_MAX q.val) = 0 ∧ PagesKept [0x00, 0x28] s x ∧ DataKept s x)

/-- ARBITER_GRANT of a ready request of a port takes it from the waiting requests, counts the grant, clears the
requester's wait and moves the port's tenant selection; the request is then in its line's chain, has a flow, or is
answered - or its agent's port is in PROTO_ERR, as for a request its state forbids. CHAIN_HEAD_START of a line whose
head is a port's request takes it from the chain with the same outcomes, the chain excepted. ALLOC_QUEUE_RETRY of a
set with a free way gives the head of its queue a way: the allocation is counted, the LFSR steps, and the flow no
longer waits in the queue. (10_arbitration_and_locks.md (R433, R434, R440, R442), 07_serialization_and_early_data.md
(R299, R300, R305), 08_snoop_filter.md (R350, R353)) -/
def Obligations.QueuedRequestsAreServed : Prop :=
  (∀ (p : Fin 16) (r : Req) (s : State), isRunning s → discards s = false → nextGrant s = some p.val → offer s p.val = some r
    → needsSearch s (slotIx (curLoc s r.line)) = false → r.src = .port p.val → r.gone = false → r.id < s.nextId → Leaves
    (.arbiterGrant) s fun x => r.id ∉ x.arb.waiting.map (·.id) ∧ getF x (R.ARB_GRANT_CNT_CNT p.val) = min (getF s
    (R.ARB_GRANT_CNT_CNT p.val) + 1) (2 ^ 32 - 1) ∧ getF x (R.ARB_WAIT_CUR p.val) = 0 ∧ (portOf x p.val).selTenant = r.tenant
    ∧ (r.id ∈ x.chain.map (·.id) ∨ r.id ∈ x.flows.map (·.req.id) ∨ (∃ m : Msg, m.tag = r.tag ∧ Answered s x p.val m) ∨ lstate
    x p.val = 6)) ∧
  (∀ (p : Fin 16) (line : BitVec 24) (r : Req) (s : State), chainHead s line.toNat = some r → r.line = line.toNat → s.search
    = none → needsSearch s (slotIx (curLoc s line.toNat)) = false → ran (checkSet (Machine.setOf r.line) 0) s = s → r.src =
    .port p.val → r.gone = false → r.id < s.nextId → Leaves (.chainHeadStart line) s fun x => r.id ∉ x.chain.map (·.id) ∧
    (r.id ∈ x.flows.map (·.req.id) ∨ (∃ m : Msg, m.tag = r.tag ∧ Answered s x p.val m) ∨ lstate x p.val = 6)) ∧
  (∀ (set : Fin 32768) (f : Flow) (s : State), inRecovery s set.val = false → ((s.flows.find? fun g => g.phase == .alloc &&
    Machine.setOf g.line == set.val) = some f) → flowOf s f.line = some f → f.req.op ≠ .evClean → f.req.op ≠ .preCarry →
    f.req.op ≠ .lkRd → ran (checkSet set.val 1) s = s → lookup s f.line = none → ((List.range 16).any fun w => viewWay s
    set.val w == some .free) → Leaves (.allocQueueRetry set) s fun x => getF x R.DIR_ALLOC_CNT_CNT = min (getF s
    R.DIR_ALLOC_CNT_CNT + 1) (2 ^ 32 - 1) ∧ getF x R.DIR_LFSR_STATE_S = lfsrStep (getF s R.DIR_LFSR_STATE_S) ∧ (∀ g ∈
    x.flows, g.line = f.line → g.phase ≠ .alloc))

/-- At the end of a round, due after a rotation or 64 core cycles, each requester with a request waiting has WAIT.CUR one
greater, saturating, its WAIT.MAX at least that, and the others' CUR stands; every waiting request counts one more
round and none leaves; the rotation starts anew. STARVE_CLEAR with a requester's bit set clears its flag and its
greatest wait and keeps the flags whose bits are 0. Nothing stored changes. (10_arbitration_and_locks.md (R441-R445)) -/
def Obligations.RoundsAndStarvation : Prop :=
  (∀ (q : Fin 22) (s : State), (s.arb.rotated ∨ 64 ≤ s.arb.cycles) → Leaves (.roundEnd) s fun x => (getF x (R.ARB_WAIT_CUR
    q.val) = (if waitingAt s q.val = [] then getF s (R.ARB_WAIT_CUR q.val) else min (getF s (R.ARB_WAIT_CUR q.val) + 1) (2 ^
    (R.ARB_WAIT_CUR q.val).w - 1))) ∧ (waitingAt s q.val = [] ∨ getF x (R.ARB_WAIT_CUR q.val) ≤ getF x (R.ARB_WAIT_MAX
    q.val)) ∧ x.arb.waiting.map (·.rounds) = s.arb.waiting.map (·.rounds + 1) ∧ x.arb.waiting.map (·.id) = s.arb.waiting.map
    (·.id) ∧ x.arb.rotated = false ∧ x.flows = s.flows ∧ x.chain = s.chain ∧ DataKept s x) ∧
  (∀ (path : Path) (v : Word) (q : Fin 22) (s : State), ownCa path R.ARB_STARVE_FLAG.key → accepted path 0x28 0x044 v s →
    Leaves (.starveClear path v) s fun x => (getF x R.ARB_STARVE_FLAG).testBit q.val = ((getF s R.ARB_STARVE_FLAG).testBit
    q.val && !v.getLsbD q.val) ∧ (getF x (R.ARB_WAIT_MAX q.val) = (if v.getLsbD q.val then 0 else getF s (R.ARB_WAIT_MAX
    q.val))) ∧ x.arb = s.arb ∧ x.flows = s.flows ∧ PagesKept [0x00, 0x28] s x ∧ DataKept s x)

/-- For each of RspI, RspS, RspIWb, RspSWb, RspFwd and RspIWbp that answers an outstanding snoop as R225 allows: to a
snoop of the partner's, the response and its data go out on the pair link; to a flow here that still waits for others,
its agent leaves the pending ones and its data is kept; RspIWbp keeps the snoop for the WrBack to come, and takes the
data of one that has come, which is answered CmpWb and counted as a crossing; an answer to SnpFlushSet leaves the
recovery's pending agents. RspErr puts the port into PROTO_ERR with code 1. Nothing stored changes.
(04_xanotte_link.md (R194-R197), 05_coherence_protocol.md (R225, R226, R237), 08_snoop_filter.md (R372),
12_pair_operation.md (R540)) -/
def Obligations.SnoopResponses : Prop :=
  (∀ (i : Instr) (r : RspForm) (p : Fin 16) (sn : Snoop) (s : State), rspForm i = some r → rspReady s r p sn → sn.remote →
    hasPartner s → r.opcode ≠ 0x65 → (portOf s p.val).snpWait = [] → Leaves (i) s fun x => (ToldPartner s x (.response
    (agentOf s p.val) r.opcode (if sn.kind = .snpFlushSet then sn.set else sn.line * 64) (quadsOf r.flits))) ∧ snoopOf
    (portOf x p.val) r.r.sid.val = none ∧ x.flows = s.flows ∧ DataKept s x) ∧
  (∀ (i : Instr) (r : RspForm) (p : Fin 16) (sn : Snoop) (f : Flow) (s : State), rspForm i = some r → rspReady s r p sn →
    sn.remote = false → sn.kind ≠ .snpFlushSet → r.opcode ≠ 0x65 → (portOf s p.val).snpWait = [] → flowOf s sn.line = some f
    → f.line = sn.line → f.pend.filter (· != agentOf s p.val) ≠ [] → Leaves (i) s fun x => (flowOf x sn.line).map (·.pend) =
    some (f.pend.filter (· != agentOf s p.val)) ∧ ((flowOf x sn.line).map (·.got) = some (if r.flits.isEmpty then f.got else
    some (quadsOf r.flits))) ∧ snoopOf (portOf x p.val) r.r.sid.val = none ∧ DataKept s x) ∧
  (∀ (r : RspHdr) (p : Fin 16) (sn : Snoop) (f : Flow) (s : State), rspReady s ⟨r, 0x65, 2, [], 0⟩ p sn → sn.remote = false →
    sn.kind ≠ .snpFlushSet → flowOf s sn.line = some f → f.line = sn.line → waitingWb s (agentOf s p.val) sn.line = none →
    wrBackHere s p.val sn.line = false → Leaves (.rspIWbp r) s fun x => flowOf x sn.line = some
    { f with pend := f.pend.filter (· != agentOf s p.val), wbp := f.wbp ++ [agentOf s p.val] } ∧ (snoopOf (portOf x p.val)
    r.sid.val).map (·.wbp) = some true ∧ DataKept s x) ∧
  (∀ (r : RspHdr) (p : Fin 16) (sn : Snoop) (f : Flow) (b : Req) (s : State), rspReady s ⟨r, 0x65, 2, [], 0⟩ p sn → sn.remote
    = false → sn.kind ≠ .snpFlushSet → (portOf s p.val).snpWait = [] → flowOf s sn.line = some f → f.line = sn.line →
    f.pend.filter (· != agentOf s p.val) ≠ [] → waitingWb s (agentOf s p.val) sn.line = some b → b.line = sn.line → b.agent =
    agentOf s p.val → b.src = .port p.val → b.gone = false → Leaves (.rspIWbp r) s fun x => (flowOf x sn.line).map (·.pend) =
    some (f.pend.filter (· != agentOf s p.val)) ∧ (flowOf x sn.line).map (·.got) = some (some b.data) ∧ (x.arb.waiting =
    s.arb.waiting.filter fun y => y.id != b.id) ∧ Answered s x p.val ⟨0x35, b.tag, b.tenant, b.agent, b.aa, 0, 0, []⟩ ∧ getF
    x R.GLOBAL_COH_WB_CROSS_CNT = min (getF s R.GLOBAL_COH_WB_CROSS_CNT + 1) (2 ^ 32 - 1) ∧ DataKept s x) ∧
  (∀ (r : RspHdr) (p : Fin 16) (sn : Snoop) (s : State), rspReady s ⟨r, 0x60, 2, [], 0⟩ p sn → sn.remote = false → sn.kind =
    .snpFlushSet → (portOf s p.val).snpWait = [] → Leaves (.rspI r) s fun x => (x.recov = s.recov.map fun c =>
    { c with pend := c.pend.filter (· != agentOf s p.val) }) ∧ DataKept s x) ∧
  (∀ (r : RspHdr) (p : Fin 16) (s : State), r.src = .agent p → flitsOk s p.val r.ft.val r.vc.val 2 [] 0 → lstate s p.val = 4
    → s.trackers = [] → Leaves (.rspErr r) s fun x => lstate x p.val = 6 ∧ getF x (R.APORT_PROTO_CODE p.val) = 1 ∧ getF x
    (R.APORT_PROTO_OPCODE p.val) = 0x66 ∧ x.flows = s.flows ∧ DataKept s x)

/-- A due HOLD goes to the agent with its count and the reason, and the next is H later; at the 65th instant a request
that waits is answered HOLD_LIMIT, and for a forwarded one ABANDON goes to its home. Early data without a verdict
within WAIT is cancelled with reason TIMEOUT. A snoop without its response is sent once more; then, or when the WrBack
after RspIWbp does not come, the agent is declared dead, which under DEAD_POL HALT halts the domain with cause 1.
(04_xanotte_link.md (R188-R195), 05_coherence_protocol.md (R239), 07_serialization_and_early_data.md (R321),
12_pair_operation.md (R541, R542)) -/
def Obligations.TimersOfRequestsAndSnoops : Prop :=
  (∀ (p : Fin 16) (tag : Fin 64) (t : TagSt) (s : State), tagOf (portOf s p.val) tag.val = some t → portSends s p.val →
    isHalted s = false → t.due ≤ s.now → (((portOf s p.val).txq.any fun m => m.op == 0x36 && m.tag == tag.val) = false) →
    t.holds < 64 → t.remote = false → Leaves (.holdDue p tag) s fun x => Answered s x p.val ⟨0x36, tag.val, t.tenant, agentOf
    s p.val, t.aa, t.holds + holdReason s t.req * 2 ^ 8, 0, []⟩ ∧ (tagOf (portOf x p.val) tag.val).map (·.holds) = some
    (t.holds + 1) ∧ DataKept s x) ∧
  (∀ (p : Fin 16) (tag : Fin 64) (t : TagSt) (s : State), tagOf (portOf s p.val) tag.val = some t → portSends s p.val →
    isHalted s = false → t.due ≤ s.now → (((portOf s p.val).txq.any fun m => m.op == 0x36 && m.tag == tag.val) = false) → 64
    ≤ t.holds → t.remote = false → ((s.arb.waiting.find? fun r => r.id == t.req).any fun w => !awaitsMatch s w) → trackerOf s
    p.val tag.val = none → Leaves (.holdDue p tag) s fun x => Answered s x p.val ⟨0x37, tag.val, t.tenant, agentOf s p.val,
    t.aa, 0x10, 0, []⟩ ∧ getF x (R.APORT_HOLD_LIMIT_CNT_CNT p.val) = min (getF s (R.APORT_HOLD_LIMIT_CNT_CNT p.val) + 1) (2 ^
    32 - 1) ∧ ((x.arb.waiting.find? fun r => r.id == t.req) = none) ∧ DataKept s x) ∧
  (∀ (p : Fin 16) (tag : Fin 64) (t : TagSt) (s : State), tagOf (portOf s p.val) tag.val = some t → portSends s p.val →
    isHalted s = false → t.due ≤ s.now → (((portOf s p.val).txq.any fun m => m.op == 0x36 && m.tag == tag.val) = false) →
    t.holds = 64 → t.remote → hasPartner s → Leaves (.holdDue p tag) s fun x => ToldPartner s x (.abandon (agentOf s p.val)
    tag.val) ∧ getF x R.PAIR_ABANDON_CNT_CNT = min (getF s R.PAIR_ABANDON_CNT_CNT + 1) (2 ^ 32 - 1) ∧ DataKept s x) ∧
  (∀ (p : Fin 16) (tag : Fin 64) (t : Tracker) (g : TagSt) (s : State), trackerOf s p.val tag.val = some t → tagOf (portOf s
    p.val) tag.val = some g → t.sent → t.timedOut = false → portSends s p.val → t.start + t.wait ≤ s.now → Leaves
    (.edataWaitTimeout p tag) s fun x => Answered s x p.val ⟨0x3C, tag.val, g.tenant, agentOf s p.val, g.aa, 1, 0, []⟩ ∧
    trackerOf x p.val tag.val = some { t with timedOut := true } ∧ getF x R.GLOBAL_ECANX_TMO_CNT_CNT = min (getF s
    R.GLOBAL_ECANX_TMO_CNT_CNT + 1) (2 ^ 32 - 1) ∧ DataKept s x) ∧
  (∀ (p : Fin 16) (sid : Fin 64) (sn : Snoop) (s : State), snoopOf (portOf s p.val) sid.val = some sn → portSends s p.val →
    sn.resnooped = false → sn.wbp = false → sn.sent + deadlineOf sn ≤ s.now → Leaves (.resnoopTimeout p sid) s fun x =>
    Answered s x p.val (snoopMsg s p.val sid.val { sn with resnooped := true, sent := s.now }) ∧ (snoopOf (portOf x p.val)
    sid.val).map (·.resnooped) = some true ∧ getF x (R.APORT_RESNOOP_CNT_CNT p.val) = min (getF s (R.APORT_RESNOOP_CNT_CNT
    p.val) + 1) (2 ^ 32 - 1) ∧ DataKept s x) ∧
  (∀ (p : Fin 16) (sid : Fin 64) (sn : Snoop) (s : State), snoopOf (portOf s p.val) sid.val = some sn → portSends s p.val →
    isDead s (agentOf s p.val) = false → isHalted s = false → isMaster s → getF s R.GLOBAL_FAIL_CTL_DEAD_POL ≠ 1 →
    sn.resnooped → sn.wbp = false → sn.sent + deadlineOf sn ≤ s.now → Leaves (.snoopDeadTimeout p sid) s fun x => isHalted x
    ∧ getF x R.GLOBAL_FAIL_STAT_CAUSE = 1 ∧ isDead x (agentOf s p.val) ∧ x.tick.stopped = true ∧ x.flows = [] ∧ DataKept s x) ∧
  (∀ (p : Fin 16) (sid : Fin 64) (sn : Snoop) (s : State), snoopOf (portOf s p.val) sid.val = some sn → portSends s p.val →
    isDead s (agentOf s p.val) = false → isHalted s = false → isMaster s → getF s R.GLOBAL_FAIL_CTL_DEAD_POL ≠ 1 → sn.wbp →
    sn.sent + sn.dl ≤ s.now → Leaves (.wrBackMatchTimeout p sid) s fun x => isHalted x ∧ getF x R.GLOBAL_FAIL_STAT_CAUSE = 1
    ∧ isDead x (agentOf s p.val) ∧ x.tick.stopped = true ∧ x.flows = [] ∧ DataKept s x)

/-- A write of HALT, an order of the master, an internal parity error and, under DEAD_POL HALT, a dead agent halt the hub
with their cause: HALTED set, flows and chains ended, commits stopped. A sweep step over an empty or recovering set
goes on to the next set; the end of the sweep clears the swept agents' DEAD bits. A restart, by a write or by
AUTO_RESTART, begins the domain reset: nothing of the filter, the flows or the locks is left; its link phase ends it
and clears HALTED and DEAD. What the partner reports of its agents is noted. (15_failure_containment.md (R674-R686,
R712), 16_reset_power_retain_boot.md (R721)) -/
def Obligations.FailureContainment : Prop :=
  (∀ (path : Path) (v : Word) (s : State), ownCa path R.GLOBAL_FAIL_CTL_HALT.key → accepted path 0x00 0x0C0 (withField v
    R.GLOBAL_FAIL_CTL_HALT.lo 1 1) s → bitOf v R.GLOBAL_FAIL_CTL_RESTART = false → isHalted s = false → Leaves (.failCtlHalt
    path v) s fun x => isHalted x ∧ x.tick.stopped = true ∧ x.flows = [] ∧ x.chain = [] ∧ x.locks = s.locks ∧ DataKept s x ∧
    getF x R.GLOBAL_FAIL_STAT_CAUSE = 4) ∧
  (∀ (store : ParityStore) (s : State), isRunning s → isHalted s = false → Leaves (.internalParityError store) s fun x =>
    isHalted x ∧ x.tick.stopped = true ∧ x.flows = [] ∧ x.chain = [] ∧ x.locks = s.locks ∧ DataKept s x ∧ getF x
    R.GLOBAL_FAIL_STAT_CAUSE = 3) ∧
  (∀ (cause : Fin 16) (s : State), pairRoom s 7 0 → isHalted s = false → Leaves (.haltOrder cause) s fun x => isHalted x ∧
    x.tick.stopped = true ∧ x.flows = [] ∧ x.chain = [] ∧ x.locks = s.locks ∧ DataKept s x ∧ getF x R.GLOBAL_FAIL_STAT_CAUSE
    = cause.val % 2 ^ R.GLOBAL_FAIL_STAT_CAUSE.w) ∧
  (∀ (a : Fin 32) (s : State), pairRoom s 7 0 → isHalted s = false → isMaster s → getF s R.GLOBAL_FAIL_CTL_DEAD_POL ≠ 1 →
    Leaves (.deadAgentReport a) s fun x => isHalted x ∧ x.tick.stopped = true ∧ x.flows = [] ∧ x.chain = [] ∧ x.locks =
    s.locks ∧ DataKept s x ∧ isDead x a.val ∧ getF x R.GLOBAL_FAIL_STAT_CAUSE = 1 ∧ getF x R.GLOBAL_DEAD_CNT_CNT = min (getF
    s R.GLOBAL_DEAD_CNT_CNT + 1) (2 ^ 32 - 1)) ∧
  (∀ (ids : Word) (s : State), pairRoom s 7 0 → Leaves (.deadClearReport ids) s fun x => x.partnerDead = Nat.land
    s.partnerDead (2 ^ 32 - 1 - ids.toNat) ∧ x.regs = s.regs ∧ DataKept s x) ∧
  (∀ (w : Sweep) (s : State), isRunning s → s.sweep = some w → w.left ≠ 0 → inRecovery s w.next → EndsIn (.reclaimSweepStep)
    s ({ s with sweep := some { w with next := (w.next + 1) % 32768, left := w.left - 1, passed := w.passed ++ [w.next] } })) ∧
  (∀ (w : Sweep) (s : State), isRunning s → s.sweep = some w → w.left ≠ 0 → s.recov = none → s.recovWait = [] → s.dir = [] →
    s.inject = [] → Leaves (.reclaimSweepStep) s fun x => x.sweep = some
    { w with next := (w.next + 1) % 32768, left := w.left - 1 } ∧ DataKept s x) ∧
  (∀ (w : Sweep) (s : State), isRunning s → s.sweep = some w → w.left = 0 → w.passed = [] → Leaves (.reclaimSweepEnd) s fun x
    => x.sweep = none ∧ getF x R.GLOBAL_DEAD_IDS = getF s R.GLOBAL_DEAD_IDS &&& (2 ^ 32 - 1 - w.ids.toNat) ∧ getF x
    R.GLOBAL_FAIL_STAT_SWEEP = 0 ∧ (hasPartner s = true → ToldPartner s x (.deadClear w.ids.toNat)) ∧ RegsKept
    [R.GLOBAL_DEAD_IDS.key, R.GLOBAL_FAIL_STAT_SWEEP.key] s x ∧ DataKept s x) ∧
  (∀ (path : Path) (v : Word) (s : State), ownCa path R.GLOBAL_FAIL_CTL_HALT.key → accepted path 0x00 0x0C0 (withField v
    R.GLOBAL_FAIL_CTL_RESTART.lo 1 1) s → bitOf v R.GLOBAL_FAIL_CTL_HALT = false → isHalted s → s.dreset = false →
    s.power.save = false → isMaster s → Leaves (.restart path v) s fun x => x.dreset = true ∧ x.flows = [] ∧ x.chain = [] ∧
    x.locks = [] ∧ x.dir = [] ∧ x.arb.waiting = [] ∧ x.tick.stopped = true) ∧
  (∀ (s : State), getF s R.GLOBAL_FAIL_CTL_AUTO_RESTART ≠ 0 → s.haltAt + 1000000 * getF s R.GLOBAL_FAIL_CTL_AUTO_RESTART ≤
    s.now → isHalted s → s.dreset = false → s.power.save = false → isMaster s → Leaves (.autoRestartExpiry) s fun x =>
    x.dreset = true ∧ x.flows = [] ∧ x.chain = [] ∧ x.locks = [] ∧ x.dir = [] ∧ x.arb.waiting = [] ∧ x.tick.stopped = true) ∧
  (∀ (s : State), pairRoom s 7 0 → isMirror s → hasPartner s → Leaves (.domainResetOrder) s fun x => x.dreset = true ∧
    x.flows = [] ∧ x.chain = [] ∧ x.locks = [] ∧ x.dir = [] ∧ x.arb.waiting = [] ∧ x.tick.stopped = true ∧ ToldPartner s x
    .dresetDone) ∧
  (∀ (s : State), s.dreset → Leaves (.domainResetLinkPhase) s fun x => x.dreset = false ∧ isHalted x = false ∧ getF x
    R.GLOBAL_DEAD_IDS = 0 ∧ getF x R.GLOBAL_STAT_D_BUSY = 0 ∧ x.partnerDead = 0 ∧ DataKept s x)

/-- A set's recovery sends SnpFlushSet to its agents and, with every answer in, ends and is counted. A repair flow's snoop
goes to its agent. The oldest pending eviction starts its write; a completed one leaves its 64 stored bytes in memory,
every other byte as before. A flush of an empty cache is busy until it is done. A search that finds the tag counts the
recovery. DIR.INJECT arms its fault; HCACHE.INJECT inverts the named bits of one slot and no other slot; MEM.INJECT
inverts the named bit of one stored byte and no other byte. (08_snoop_filter.md (R365-R376),
09_home_cache_and_stored_data.md (R389-R393, R410-R424)) -/
def Obligations.FilterAndCacheUpkeep : Prop :=
  (∀ (r : Recovery) (p : Fin 16) (i : Nat) (s : State), s.recov = some r → r.sent = false → r.pend = [] → isRunning s →
    s.flows = [] → (List.range 16).any (windowWay s r.set) = false → r.agents = [agentOf s p.val] → agentOf s p.val < 32 →
    isDead s (agentOf s p.val) = false → portUp s p.val → freeSid (portOf s p.val) = some i → Leaves (.snpFlushSetSend) s fun
    x => x.recov = some { r with sent := true, pend := [agentOf s p.val] } ∧ Answered s x p.val ⟨0x24, i, 0, 0, 0, 0, r.set,
    []⟩ ∧ DataKept s x) ∧
  (∀ (r : Recovery) (s : State), s.recov = some r → r.sent → r.pend = [] → s.recovWait = [] → s.dir = [] → s.inject = [] →
    s.flows = [] → s.chain = [] → s.arb.waiting = [] → Leaves (.setRecoveryEnd) s fun x => x.recov = none ∧ getF x
    R.DIR_RECOVERY_BUSY = 0 ∧ getF x R.DIR_FLUSH_CNT_CNT = min (getF s R.DIR_FLUSH_CNT_CNT + 1) (2 ^ 32 - 1) ∧ PagesKept
    [0x30] s x ∧ DataKept s x) ∧
  (∀ (line : BitVec 24) (p : Fin 16) (i : Nat) (k : SnpKind) (nd : Bool) (f : Flow) (s : State), flowOf s line.toNat = some f
    → f.line = line.toNat → f.req.op = .repair → f.phase = .search → isRunning s → snoopsFor s { f with phase := .snoop } =
    [(agentOf s p.val, k, nd)] → isDead s (agentOf s p.val) = false → portUp s p.val → k ≠ .snpFlushSet → (transHa s p.val
    (line.toNat * 64)).isSome → freeSid (portOf s p.val) = some i → f.pend = [] → Leaves (.repairFlow line) s fun x =>
    (flowOf x line.toNat).map (·.pend) = some [agentOf s p.val] ∧ (flowOf x line.toNat).map (·.phase) = some .snoop ∧
    (snoopOf (portOf x p.val) i).map (·.kind) = some k ∧ DataKept s x) ∧
  (∀ (path : Path) (v : Word) (s : State), ownCa path R.DIR_INJECT_GO.key → accepted path 0x30 0x08C (withField v 31 1 1) s →
    v.toNat / 2 ^ 24 % 4 ≠ 3 → Leaves (.dirInject path v) s fun x => x.inject = s.inject ++ [(entryKey (v.toNat % 32768)
    (v.toNat / 2 ^ 16 % 16), v.toNat / 2 ^ 24 % 4)] ∧ DataKept s x) ∧
  (∀ (path : Path) (v : Word) (s : State), ownCa path R.HCACHE_CTL_FLUSH.key → accepted path 0x31 0x040 (withField v
    R.HCACHE_CTL_FLUSH.lo 1 1) s → s.hflush = none → s.slots = [] → Leaves (.flush path v) s fun x => x.hflush = some ⟨65536,
    []⟩ ∧ getF x R.HCACHE_STAT_FLUSH_BUSY = 1 ∧ DataKept s x) ∧
  (∀ (n : Nat) (s : State), s.hflush = some ⟨n, []⟩ → s.ebuf.any (·.flush) = false → Leaves (.flushDone) s fun x => x.hflush
    = none ∧ getF x R.HCACHE_STAT_FLUSH_BUSY = 0 ∧ (getReg x.regs (regKey pgHcache offIrqRaw)).getLsbD 5 ∧ PagesKept [0x31] s
    x ∧ DataKept s x) ∧
  (∀ (y : SearchSt) (t : Nat) (s : State), s.search = some y → matchesOf (slotOf s y.index) y.index = [t] → s.ebuf.length <
    32 → Leaves (.syndromeSearch) s fun x => x.search = none ∧ getF x R.HCACHE_STAT_SEARCH_BUSY = 0 ∧ getF x
    R.HCACHE_RECOVER_CNT_CNT = min (getF s R.HCACHE_RECOVER_CNT_CNT + 1) (2 ^ 32 - 1) ∧ x.ebuf.length = s.ebuf.length + 1 ∧
    x.mem = s.mem ∧ x.dir = s.dir) ∧
  (∀ (e : EbEntry) (t : List EbEntry) (s : State), s.ebuf = e :: t → e.writing = none → (t.all fun y => y.loc != e.loc) →
    Leaves (.ebufDrainStart) s fun x => x.ebuf.head? = some { e with writing := some s.now } ∧ x.ebuf.tail = t ∧ x.regs =
    s.regs ∧ x.mem = s.mem ∧ x.slots = s.slots ∧ x.dir = s.dir) ∧
  (∀ (e : EbEntry) (a : Nat) (s : State), s.ebuf = [e] → e.writing.isSome → e.data.length = 64 → (s.flows.any (fun f =>
    f.phase == .evict) = false) → Leaves (.ebufWriteDone) s fun x => x.ebuf = [] ∧ (memByte x a = (if e.loc * 64 ≤ a ∧ a <
    e.loc * 64 + 64 then e.data.getD (a - e.loc * 64) 0 else memByte s a)) ∧ x.slots = s.slots ∧ x.dir = s.dir ∧ x.flash =
    s.flash) ∧
  (∀ (path : Path) (v : Word) (j : Nat) (s : State), ownCa path R.HCACHE_INJECT_GO.key → accepted path 0x31 0x080 (withField
    v 31 1 1) s → v.toNat / 2 ^ 16 % 8 < 5 → Leaves (.hcacheInject path v) s fun x => (j ≠ v.toNat % 65536 → slotOf x j =
    slotOf s j) ∧ (j = v.toNat % 65536 → v.toNat / 2 ^ 16 % 8 = 0 → slotOf x j =
    { slotOf s j with tagw := (slotOf s j).tagw ^^^ 0x800#12 }) ∧ (j = v.toNat % 65536 → v.toNat / 2 ^ 16 % 8 = 1 → slotOf x
    j = { slotOf s j with tagw := (slotOf s j).tagw ^^^ 0x200#12 }) ∧ (j = v.toNat % 65536 → v.toNat / 2 ^ 16 % 8 = 2 →
    slotOf x j = { slotOf s j with tagw := (slotOf s j).tagw ^^^ 0x003#12 }) ∧ x.mem = s.mem ∧ x.dir = s.dir) ∧
  (∀ (path : Path) (v : Word) (a : Nat) (s : State), ownCa path R.MEM_INJECT_GO.key → accepted path 0x32 0x064 (withField v
    31 1 1) s → v.toNat / 16 % 16 < 13 → v.toNat / 2 ^ 8 % 4 = 0 → backedSa (getF s R.MEM_INJECT_WA_WA * 16) → Leaves
    (.memInject path v) s fun x => (memByte x a = (if a = getF s R.MEM_INJECT_WA_WA * 16 + v.toNat % 16 then memByte s a ^^^
    BitVec.ofNat 13 (2 ^ (v.toNat / 16 % 16)) else memByte s a)) ∧ x.slots = s.slots ∧ x.dir = s.dir)

/-- FORCE of a registry entry whose line has no chain and no flow frees the entry and counts it, and changes no other
entry. A wait edge that hub 1 reports enters the graph of the master, and its removal takes it out; with no edge back,
nothing is broken. A break order answers the chained LkRd of the victim with LockBroken, takes it out of the chain and
counts it. (10_arbitration_and_locks.md (R447-R459)) -/
def Obligations.LocksAndMantis : Prop :=
  (∀ (path : Path) (v : Word) (l : Lock) (j : Nat) (s : State), ownCa path R.LOCK_FORCE_GO.key → accepted path 0x29 0x078
    (withField v R.LOCK_FORCE_GO.lo 1 1) s → (kvGet (fun _ => (none : Option Lock)) s.locks (fieldOf v 0 8) = some l) →
    s.chain = [] → s.flows = [] → Leaves (.lockForce path v) s fun x => (kvGet (fun _ => (none : Option Lock)) x.locks j =
    (if j = fieldOf v 0 8 then none else kvGet (fun _ => (none : Option Lock)) s.locks j)) ∧ getF x R.LOCK_FORCED_CNT_CNT =
    min (getF s R.LOCK_FORCED_CNT_CNT + 1) (2 ^ 32 - 1) ∧ DataKept s x) ∧
  (∀ (a b : Fin 32) (tag : Fin 64) (lk : Bool) (t : Word) (o : BitVec 20) (line : BitVec 24) (s : State), pairRoom s 7 0 →
    isMaster s → hasPartner s → a ≠ b → s.waits = [] → s.evq = [] → s.breaks = [] → Leaves (.mantisEdgeEvent true a b tag lk
    t o line) s fun x => x.waits = [⟨a.val, b.val, line.toNat, tag.val, lk, t.toNat, o.toNat, true⟩] ∧ x.breaks = [] ∧
    x.locks = s.locks ∧ DataKept s x) ∧
  (∀ (a b : Fin 32) (tag : Fin 64) (lk : Bool) (t : Word) (o : BitVec 20) (line : BitVec 24) (s : State), pairRoom s 7 0 →
    isMaster s → hasPartner s → Leaves (.mantisEdgeEvent false a b tag lk t o line) s fun x => (∀ w ∈ x.waits, ¬(w.waiter =
    a.val ∧ w.tag = tag.val ∧ w.line = line.toNat)) ∧ x.regs = s.regs ∧ x.locks = s.locks ∧ DataKept s x) ∧
  (∀ (a : Fin 32) (tag : Fin 64) (line : BitVec 24) (r : Req) (p : Nat) (s : State), pairRoom s 7 0 → hasPartner s →
    ((s.chain.find? fun r => r.agent == a.val && r.tag == tag.val && r.line == line.toNat) = some r) → lockOn s r.line = none
    → r.op = .lkRd → r.src = .port p → r.gone = false → Leaves (.mantisBreak a tag line) s fun x => Answered s x p ⟨0x39,
    r.tag, r.tenant, r.agent, r.aa, 0, 0, []⟩ ∧ getF x R.LOCK_LOCKBROKEN_CNT_CNT = min (getF s R.LOCK_LOCKBROKEN_CNT_CNT + 1)
    (2 ^ 32 - 1) ∧ (x.chain.all fun y => y.id != r.id) ∧ x.locks = s.locks ∧ DataKept s x)

/-- A good STATUS on an active port frees the acknowledged flits and returns the credits; in CREDIT it takes the port to
ACTIVE, in RETRAIN back to it. A NAK has the unacknowledged flits sent again. A flit with a bad CRC is counted and
answered once with NAK. STATUS reports every freed buffer; SKIP goes out. A RETRAIN flit, an acknowledgement stall of
2 us, 4 us of silence or a loss of alignment put an active port into RETRAIN, counted; a RETRAIN of 20 us is a link
reset, clean where the agent holds nothing. Each leaves other pages' registers, flows and stored data.
(04_xanotte_link.md (R154, R166, R172, R173, R181-R187)) -/
def Obligations.AgentLinkLayer : Prop :=
  (∀ (p : Fin 16) (ack : BitVec 8) (freed : List (BitVec 8)) (s : State), portSends s p.val → (portOf s p.val).txq = [] →
    Leaves (.status (.aport p) ack freed) s fun x => (portOf x p.val).link = takeFreed (takeAck s.now ack.toNat (portOf s
    p.val).link) (freed.map (·.toNat)) ∧ x.regs = s.regs ∧ x.outs = s.outs ∧ DataKept s x ∧ x.flows = s.flows) ∧
  (∀ (p : Fin 16) (s : State), lstate s p.val = 3 → (portOf s p.val).txq = [] → Leaves (.linkActive (.aport p)) s fun x =>
    lstate x p.val = 4 ∧ (getReg x.regs (regKey (pgAport p.val) offIrqRaw)).getLsbD 0 ∧ PagesKept [0x08 + p.val, 0xF0] s x ∧
    DataKept s x ∧ x.flows = s.flows) ∧
  (∀ (p : Fin 16) (ack : BitVec 8) (freed : List (BitVec 8)) (s : State), portSends s p.val → (portOf s p.val).txq = [] →
    (portOf s p.val).link.peerNaks = 0 → (portOf s p.val).link.peerNakSeq ≠ ack.toNat → Leaves (.nak (.aport p) ack freed) s
    fun x => x.outs = flitsOut s (.aport p) (((portOf s p.val).link.replay.drop (ackedCount ack.toNat (portOf s
    p.val).link.replay 0)).map (Out.flit p.val)) ∧ (portOf x p.val).link.peerNaks = 1 ∧ PagesKept [0x08 + p.val, 0xF0] s x ∧
    DataKept s x ∧ x.flows = s.flows) ∧
  (∀ (p : Fin 16) (rd : BitVec 4) (gs : List (BitVec 10)) (s : State), portSends s p.val → readFlit 1 rd.toNat gs = .bad →
    (portOf s p.val).link.rejecting = false → Leaves (.badFlit (.aport p) rd gs) s fun x => getF x (R.APORT_CRC_ERR_CNT_CNT
    p.val) = min (getF s (R.APORT_CRC_ERR_CNT_CNT p.val) + 1) (2 ^ 32 - 1) ∧ x.outs = flitsOut s (.aport p) [.ctl (.aport p)
    (.nak (portOf s p.val).link.lastAcc (freedCounts (portOf s p.val).link 6))] ∧ (portOf x p.val).link.rejecting = true ∧
    PagesKept [0x08 + p.val, 0xF0] s x ∧ DataKept s x ∧ x.flows = s.flows) ∧
  (∀ (p : Fin 16) (rd : BitVec 4) (gs : List (BitVec 10)) (bs : List Nat) (s : State), portSends s p.val → readFlit 1
    rd.toNat gs = .good bs → rxFt bs ≠ 1 → ((portOf s p.val).link.lastAcc + 256 - rxSeq bs) % 256 < 64 → Leaves (.badFlit
    (.aport p) rd gs) s fun x => (portOf x p.val).link = { (portOf s p.val).link with goodAt := s.now } ∧ x.regs = s.regs ∧
    x.outs = s.outs ∧ DataKept s x ∧ x.flows = s.flows) ∧
  (∀ (p : Fin 16) (rd : BitVec 4) (gs : List (BitVec 10)) (bs : List Nat) (s : State), portSends s p.val → readFlit 1
    rd.toNat gs = .good bs → rxFt bs = 1 → rxByte bs 0 ≠ 0x01 → rxByte bs 0 ≠ 0x02 → rxByte bs 0 ≠ 0x20 → Leaves (.badFlit
    (.aport p) rd gs) s fun x => (portOf x p.val).link = { (portOf s p.val).link with goodAt := s.now } ∧ x.regs = s.regs ∧
    x.outs = s.outs ∧ DataKept s x ∧ x.flows = s.flows) ∧
  (∀ (p : Fin 16) (rd : BitVec 4) (gs : List (BitVec 10)) (bs : List Nat) (s : State), portSends s p.val → readFlit 1
    rd.toNat gs = .good bs → isRunning s → lstate s p.val = 4 → rxSeq bs = ((portOf s p.val).link.lastAcc + 1) % 256 → rxFt
    bs = 3 → Leaves (.badFlit (.aport p) rd gs) s fun x => lstate x p.val = 6 ∧ getF x (R.APORT_PROTO_CODE p.val) = 2 ∧
    (portOf x p.val).link.lastAcc = ((portOf s p.val).link.lastAcc + 1) % 256 ∧ getF x (R.APORT_PROTO_OPCODE p.val) = rxByte
    bs 0 % 256 ∧ DataKept s x ∧ x.flows = s.flows) ∧
  (∀ (p : Fin 16) (rd : BitVec 4) (gs : List (BitVec 10)) (bs : List Nat) (s : State), portSends s p.val → readFlit 1
    rd.toNat gs = .good bs → isRunning s → lstate s p.val = 4 → rxSeq bs = ((portOf s p.val).link.lastAcc + 1) % 256 → rxFt
    bs = 0 → (rxVc bs = 1 ∨ rxVc bs = 4 ∨ 6 ≤ rxVc bs) → Leaves (.badFlit (.aport p) rd gs) s fun x => lstate x p.val = 6 ∧
    getF x (R.APORT_PROTO_CODE p.val) = 2 ∧ (portOf x p.val).link.lastAcc = ((portOf s p.val).link.lastAcc + 1) % 256 ∧ getF
    x (R.APORT_PROTO_OPCODE p.val) = rxByte bs 0 % 256 ∧ DataKept s x ∧ x.flows = s.flows) ∧
  (∀ (p : Fin 16) (rd : BitVec 4) (gs : List (BitVec 10)) (bs : List Nat) (s : State), portSends s p.val → readFlit 1
    rd.toNat gs = .good bs → isRunning s → lstate s p.val = 4 → rxSeq bs = ((portOf s p.val).link.lastAcc + 1) % 256 → rxFt
    bs = 0 → (¬(rxVc bs = 1 ∨ rxVc bs = 4 ∨ 6 ≤ rxVc bs)) → rxByte bs 0 ∉ agentOpcodes (rxVc bs) → Leaves (.badFlit (.aport
    p) rd gs) s fun x => lstate x p.val = 6 ∧ getF x (R.APORT_PROTO_CODE p.val) = 4 ∧ (portOf x p.val).link.lastAcc =
    ((portOf s p.val).link.lastAcc + 1) % 256 ∧ getF x (R.APORT_PROTO_OPCODE p.val) = rxByte bs 0 % 256 ∧ DataKept s x ∧
    x.flows = s.flows) ∧
  (∀ (p : Fin 16) (rd : BitVec 4) (gs : List (BitVec 10)) (bs : List Nat) (s : State), portSends s p.val → readFlit 1
    rd.toNat gs = .good bs → isRunning s → lstate s p.val = 4 → rxSeq bs = ((portOf s p.val).link.lastAcc + 1) % 256 → rxFt
    bs = 2 → 0 < (portOf s p.val).link.part → Leaves (.badFlit (.aport p) rd gs) s fun x => (portOf x p.val).link =
    { (portOf s p.val).link with lastAcc := ((portOf s p.val).link.lastAcc + 1) % 256, part := (portOf s p.val).link.part + 1, goodAt := s.now, rejecting := false }
    ∧ x.regs = s.regs ∧ x.outs = s.outs ∧ DataKept s x ∧ x.flows = s.flows) ∧
  (∀ (p : Fin 16) (rd : BitVec 4) (gs : List (BitVec 10)) (s : State), (lstate s p.val = 1 ∨ lstate s p.val = 2 ∨ lstate s
    p.val = 5) → readFlit 1 rd.toNat gs = .bad → Leaves (.badFlit (.aport p) rd gs) s fun x => getF x
    (R.APORT_CRC_ERR_CNT_CNT p.val) = min (getF s (R.APORT_CRC_ERR_CNT_CNT p.val) + 1) (2 ^ 32 - 1) ∧ (portOf x
    p.val).link.tsCount = 0 ∧ (portOf x p.val).link.tsCaps = none ∧ x.outs = s.outs ∧ PagesKept [0x08 + p.val, 0xF0] s x ∧
    DataKept s x ∧ x.flows = s.flows) ∧
  (∀ (p : Fin 16) (s : State), portSends s p.val → Leaves (.statusSend (.aport p)) s fun x => x.outs = flitsOut s (.aport p)
    [.ctl (.aport p) (.status (portOf s p.val).link.lastAcc (freedCounts (portOf s p.val).link 6))] ∧ ((portOf x p.val).link
    =
    { (portOf s p.val).link with rxReported := (portOf s p.val).link.rxCount, sentStatusAt := s.now, sinceSkip := if 1024 ≤ (portOf s p.val).link.sinceSkip then 1 else (portOf s p.val).link.sinceSkip + 1 })
    ∧ x.regs = s.regs ∧ DataKept s x ∧ x.flows = s.flows) ∧
  (∀ (p : Fin 16) (s : State), portSends s p.val → Leaves (.skipSend (.aport p)) s fun x => x.outs = s.outs ++ [.ctl (.aport
    p) .skip] ∧ (portOf x p.val).link.sinceSkip = 0 ∧ x.regs = s.regs ∧ DataKept s x ∧ x.flows = s.flows) ∧
  (∀ (p : Fin 16) (s : State), lstate s p.val = 4 → Leaves (.retrain (.aport p)) s fun x => lstate x p.val = 5 ∧ x.outs =
    flitsOut s (.aport p) [.ctl (.aport p) .retrain, .ctl (.aport p) (.ts1 5)] ∧ getF x (R.APORT_RETRAIN_CNT_CNT p.val) = min
    (getF s (R.APORT_RETRAIN_CNT_CNT p.val) + 1) (2 ^ 32 - 1) ∧ (portOf x p.val).pausedAt = s.now ∧ PagesKept [0x08 + p.val,
    0xF0] s x ∧ DataKept s x ∧ x.flows = s.flows) ∧
  (∀ (p : Fin 16) (s : State), lstate s p.val = 4 → Leaves (.alignmentLoss (.aport p)) s fun x => lstate x p.val = 5 ∧ x.outs
    = flitsOut s (.aport p) [.ctl (.aport p) .retrain, .ctl (.aport p) (.ts1 5)] ∧ getF x (R.APORT_RETRAIN_CNT_CNT p.val) =
    min (getF s (R.APORT_RETRAIN_CNT_CNT p.val) + 1) (2 ^ 32 - 1) ∧ (portOf x p.val).pausedAt = s.now ∧ PagesKept [0x08 +
    p.val, 0xF0] s x ∧ DataKept s x ∧ x.flows = s.flows) ∧
  (∀ (p : Fin 16) (s : State), lstate s p.val = 4 → (portOf s p.val).link.replay ≠ [] → (portOf s p.val).link.ackAt + 2000 ≤
    s.now → Leaves (.ackStallTimeout (.aport p)) s fun x => lstate x p.val = 5 ∧ x.outs = flitsOut s (.aport p) [.ctl (.aport
    p) .retrain, .ctl (.aport p) (.ts1 5)] ∧ getF x (R.APORT_RETRAIN_CNT_CNT p.val) = min (getF s (R.APORT_RETRAIN_CNT_CNT
    p.val) + 1) (2 ^ 32 - 1) ∧ (portOf x p.val).pausedAt = s.now ∧ PagesKept [0x08 + p.val, 0xF0] s x ∧ DataKept s x ∧
    x.flows = s.flows) ∧
  (∀ (p : Fin 16) (s : State), lstate s p.val = 4 → (portOf s p.val).link.goodAt + 4000 ≤ s.now → Leaves (.silenceTimeout
    (.aport p)) s fun x => lstate x p.val = 5 ∧ x.outs = flitsOut s (.aport p) [.ctl (.aport p) .retrain, .ctl (.aport p)
    (.ts1 5)] ∧ getF x (R.APORT_RETRAIN_CNT_CNT p.val) = min (getF s (R.APORT_RETRAIN_CNT_CNT p.val) + 1) (2 ^ 32 - 1) ∧
    (portOf x p.val).pausedAt = s.now ∧ PagesKept [0x08 + p.val, 0xF0] s x ∧ DataKept s x ∧ x.flows = s.flows) ∧
  (∀ (p : Fin 16) (s : State), lstate s p.val = 5 → (portOf s p.val).link.since + 20000 ≤ s.now → isClean s p.val → (portOf s
    p.val).txq = [] → Leaves (.retrainTimeout (.aport p)) s fun x => lstate x p.val = 0 ∧ (portOf x p.val).tags = [] ∧
    (portOf x p.val).txq = [] ∧ getF x (R.APORT_LRESET_CNT_CNT p.val) = min (getF s (R.APORT_LRESET_CNT_CNT p.val) + 1) (2 ^
    32 - 1) ∧ DataKept s x ∧ x.flows = s.flows) ∧
  (∀ (p : Fin 16) (ack : BitVec 8) (freed : List (BitVec 8)) (s : State), lstate s p.val = 5 → (portOf s p.val).txq = [] →
    (portOf s p.val).link.replay = [] → Leaves (.status (.aport p) ack freed) s fun x => lstate x p.val = 4 ∧ PagesKept [0x08
    + p.val, 0xF0] s x ∧ DataKept s x ∧ x.flows = s.flows)

/-- Signal on a port that may train starts ALIGN with its AGENT_ID; its 64th good training flit leads to CAP, and the 16th
identical TS2 that passes R176 to CREDIT with the agent's capabilities; one that fails, or a state that lasts too
long, ends in DOWN with TRAIN_ERR, and 1 ms later the port tries again. LRESET and a cleared EN take an idle port to
DOWN and count a link reset. (04_xanotte_link.md (R173-R180, R199-R205)) -/
def Obligations.AgentLinkTraining : Prop :=
  (∀ (p : Fin 16) (s : State), mayTrain s p.val → (portOf s p.val).link.failed = false → Leaves (.signalDetect (.aport p)) s
    fun x => lstate x p.val = 1 ∧ getF x (R.APORT_CAP_AGENT_ID p.val) = agentOf s p.val % 2 ^ (R.APORT_CAP_AGENT_ID p.val).w
    ∧ x.outs = s.outs ++ [.ctl (.aport p) (.ts1 1)] ∧ PagesKept [0x08 + p.val, 0xF0] s x ∧ DataKept s x ∧ x.flows = s.flows) ∧
  (∀ (p : Fin 16) (s : State), mayTrain s p.val → (portOf s p.val).link.failed → (portOf s p.val).link.since + 1000000 ≤
    s.now → Leaves (.trainingRetry (.aport p)) s fun x => lstate x p.val = 1 ∧ getF x (R.APORT_CAP_AGENT_ID p.val) = agentOf
    s p.val % 2 ^ (R.APORT_CAP_AGENT_ID p.val).w ∧ x.outs = s.outs ++ [.ctl (.aport p) (.ts1 1)] ∧ PagesKept [0x08 + p.val,
    0xF0] s x ∧ DataKept s x ∧ x.flows = s.flows) ∧
  (∀ (p : Fin 16) (lanes : BitVec 20) (s : State), lstate s p.val = 1 → (portOf s p.val).link.tsCount = 63 → Leaves (.ts1
    (.aport p) lanes) s fun x => lstate x p.val = 2 ∧ PagesKept [0x08 + p.val, 0xF0] s x ∧ DataKept s x ∧ x.flows = s.flows) ∧
  (∀ (p : Fin 16) (c : Ts2) (s : State), lstate s p.val = 2 → (portOf s p.val).link.tsCount = 15 → (portOf s
    p.val).link.tsCaps = some c → capCheck s c = 0 → Leaves (.ts2 (.aport p) c) s fun x => lstate x p.val = 3 ∧ getF x
    (R.APORT_CAP_VER p.val) = c.ver.val ∧ getF x (R.APORT_CAP_EVCLEAN p.val) = c.evClean.toNat ∧ PagesKept [0x08 + p.val,
    0xF0] s x ∧ DataKept s x ∧ x.flows = s.flows) ∧
  (∀ (p : Fin 16) (c : Ts2) (e : Nat) (s : State), lstate s p.val = 2 → (portOf s p.val).link.tsCount = 15 → (portOf s
    p.val).link.tsCaps = some c → capCheck s c = e → e ≠ 0 → Leaves (.ts2 (.aport p) c) s fun x => lstate x p.val = 0 ∧ getF
    x (R.APORT_STAT_TRAIN_ERR p.val) = e ∧ PagesKept [0x08 + p.val, 0xF0] s x ∧ DataKept s x ∧ x.flows = s.flows) ∧
  (∀ (p : Fin 16) (s : State), lstate s p.val = 1 → (portOf s p.val).link.since + 100000 ≤ s.now → Leaves (.trainingTimeout
    (.aport p)) s fun x => lstate x p.val = 0 ∧ getF x (R.APORT_STAT_TRAIN_ERR p.val) = 1 ∧ (portOf x p.val).link.failed =
    true ∧ PagesKept [0x08 + p.val, 0xF0] s x ∧ DataKept s x ∧ x.flows = s.flows) ∧
  (∀ (path : Path) (p : Fin 16) (v : Word) (s : State), ownCa path (R.APORT_CTL_EN p.val).key → accepted path (0x08 + p.val)
    0x040 (withField v (R.APORT_CTL_LRESET 0).lo 1 1) s → bitOf v (R.APORT_CTL_EN 0) → higherReset s = false → isClean s
    p.val → isHalted s = false → (portOf s p.val).txq = [] → Leaves (.lreset path p v) s fun x => lstate x p.val = 0 ∧
    (portOf x p.val).tags = [] ∧ getF x (R.APORT_LRESET_CNT_CNT p.val) = min (getF s (R.APORT_LRESET_CNT_CNT p.val) + 1) (2 ^
    32 - 1) ∧ DataKept s x) ∧
  (∀ (path : Path) (p : Fin 16) (v : Word) (s : State), ownCa path (R.APORT_CTL_EN p.val).key → accepted path (0x08 + p.val)
    0x040 (withField v (R.APORT_CTL_EN 0).lo 1 0) s → bitOf v (R.APORT_CTL_LRESET 0) = false → getF s (R.APORT_CTL_EN p.val)
    = 1 → portUp s p.val → higherReset s = false → isClean s p.val → isHalted s = false → (portOf s p.val).txq = [] → Leaves
    (.aportDisable path p v) s fun x => lstate x p.val = 0 ∧ (portOf x p.val).tags = [] ∧ getF x (R.APORT_LRESET_CNT_CNT
    p.val) = min (getF s (R.APORT_LRESET_CNT_CNT p.val) + 1) (2 ^ 32 - 1) ∧ getF x (R.APORT_CTL_EN p.val) = 0 ∧ DataKept s x)

/-- On the pair link: STATUS and SKIP go out; a good STATUS acknowledges, a NAK has the messages sent again, a bad flit is
counted and answered with NAK; RETRAIN, an acknowledgement stall, silence and a loss of alignment lead from ACTIVE to
RETRAIN, and 20 us of it to LOST. In stage RUN with EN set, signal, or 1 ms after a failure, starts ALIGN; 64 training
flits lead to DESKEW; in CAP the 16th identical TS2 that passes R526 leads to DELAY with the partner's UID; a state
that lasts too long fails with its code; a STATUS in CREDIT is ACTIVE. LRESET of a joined pair under DEAD_POL HALT
loses the link and halts with cause 2. (12_pair_operation.md (R517-R528, R547, R548)) -/
def Obligations.PairLinkLayer : Prop :=
  (∀ (ack : BitVec 8) (freed : List (BitVec 8)) (s : State), pairLstate s = 6 → s.pair.txq = [] → Leaves (.status .pair ack
    freed) s fun x => x.pair.sent = s.pair.sent.drop (pairAcked ack.toNat s.pair.sent 0) ∧ x.regs = s.regs ∧ x.outs = s.outs
    ∧ DataKept s x ∧ x.flows = s.flows) ∧
  (∀ (s : State), pairLstate s = 6 → Leaves (.statusSend .pair) s fun x => x.outs = flitsOut s .pair [.ctl .pair (.status
    s.pair.link.lastAcc (freedCounts s.pair.link 8))] ∧ x.regs = s.regs ∧ DataKept s x ∧ x.flows = s.flows) ∧
  (∀ (s : State), pairLstate s = 6 → Leaves (.skipSend .pair) s fun x => x.outs = s.outs ++ [.ctl .pair .skip] ∧ x.regs =
    s.regs ∧ DataKept s x ∧ x.flows = s.flows) ∧
  (∀ (ack : BitVec 8) (freed : List (BitVec 8)) (s : State), pairLstate s = 6 → s.pair.txq = [] → s.pair.link.peerNaks = 0 →
    s.pair.link.peerNakSeq ≠ ack.toNat → Leaves (.nak .pair ack freed) s fun x => (x.outs = flitsOut s .pair
    ((s.pair.sent.drop (pairAcked ack.toNat s.pair.sent 0)).map fun y => Out.pair ((y.last + 257 - y.flits) % 256) y.msg)) ∧
    pairLstate x = 6 ∧ PagesKept [0x18] s x ∧ DataKept s x ∧ x.flows = s.flows) ∧
  (∀ (rd : BitVec 4) (gs : List (BitVec 10)) (s : State), pairLstate s = 6 → readFlit 4 rd.toNat gs = .bad →
    s.pair.link.rejecting = false → Leaves (.badFlit .pair rd gs) s fun x => getF x R.PAIR_CRC_ERR_CNT_CNT = min (getF s
    R.PAIR_CRC_ERR_CNT_CNT + 1) (2 ^ 32 - 1) ∧ x.outs = flitsOut s .pair [.ctl .pair (.nak s.pair.link.lastAcc (freedCounts
    s.pair.link 8))] ∧ PagesKept [0x18] s x ∧ DataKept s x ∧ x.flows = s.flows) ∧
  (∀ (s : State), pairLstate s = 6 → Leaves (.retrain .pair) s fun x => pairLstate x = 7 ∧ getF x R.PAIR_RETRAIN_CNT_CNT =
    min (getF s R.PAIR_RETRAIN_CNT_CNT + 1) (2 ^ 32 - 1) ∧ x.outs = flitsOut s .pair [.ctl .pair .retrain, .ctl .pair (.ts1
    1)] ∧ PagesKept [0x18] s x ∧ DataKept s x ∧ x.flows = s.flows) ∧
  (∀ (s : State), pairLstate s = 6 → Leaves (.alignmentLoss .pair) s fun x => pairLstate x = 7 ∧ getF x
    R.PAIR_RETRAIN_CNT_CNT = min (getF s R.PAIR_RETRAIN_CNT_CNT + 1) (2 ^ 32 - 1) ∧ x.outs = flitsOut s .pair [.ctl .pair
    .retrain, .ctl .pair (.ts1 1)] ∧ PagesKept [0x18] s x ∧ DataKept s x ∧ x.flows = s.flows) ∧
  (∀ (s : State), pairLstate s = 6 → s.pair.sent ≠ [] → s.pair.link.ackAt + 2000 ≤ s.now → Leaves (.ackStallTimeout .pair) s
    fun x => pairLstate x = 7 ∧ getF x R.PAIR_RETRAIN_CNT_CNT = min (getF s R.PAIR_RETRAIN_CNT_CNT + 1) (2 ^ 32 - 1) ∧ x.outs
    = flitsOut s .pair [.ctl .pair .retrain, .ctl .pair (.ts1 1)] ∧ PagesKept [0x18] s x ∧ DataKept s x ∧ x.flows = s.flows) ∧
  (∀ (s : State), pairLstate s = 6 → s.pair.link.goodAt + 4000 ≤ s.now → Leaves (.silenceTimeout .pair) s fun x => pairLstate
    x = 7 ∧ getF x R.PAIR_RETRAIN_CNT_CNT = min (getF s R.PAIR_RETRAIN_CNT_CNT + 1) (2 ^ 32 - 1) ∧ x.outs = flitsOut s .pair
    [.ctl .pair .retrain, .ctl .pair (.ts1 1)] ∧ PagesKept [0x18] s x ∧ DataKept s x ∧ x.flows = s.flows) ∧
  (∀ (s : State), pairLstate s = 7 → s.pair.link.since + 20000 ≤ s.now → isLost s = false → isJoined s = false → Leaves
    (.retrainTimeout .pair) s fun x => isLost x ∧ pairLstate x = 8 ∧ getF x R.PAIR_LOSS_CNT_CNT = min (getF s
    R.PAIR_LOSS_CNT_CNT + 1) (2 ^ 32 - 1) ∧ DataKept s x ∧ x.flows = s.flows) ∧
  (∀ (s : State), pairMayTrain s → s.pair.link.failed = false → Leaves (.signalDetect .pair) s fun x => pairLstate x = 1 ∧
    x.outs = flitsOut s .pair [.ctl .pair (.ts1 1)] ∧ PagesKept [0x18] s x ∧ DataKept s x ∧ x.flows = s.flows) ∧
  (∀ (s : State), pairMayTrain s → s.pair.link.failed → s.pair.link.since + 1000000 ≤ s.now → Leaves (.trainingRetry .pair) s
    fun x => pairLstate x = 1 ∧ x.outs = flitsOut s .pair [.ctl .pair (.ts1 1)] ∧ PagesKept [0x18] s x ∧ DataKept s x ∧
    x.flows = s.flows) ∧
  (∀ (s : State), pairMayTrain s → s.pair.link.failed → s.pair.link.since + 1000000 ≤ s.now → Leaves (.pairTrainRetry) s fun
    x => pairLstate x = 1 ∧ x.outs = flitsOut s .pair [.ctl .pair (.ts1 1)] ∧ PagesKept [0x18] s x ∧ DataKept s x ∧ x.flows =
    s.flows) ∧
  (∀ (t code : Nat) (s : State), pairTimeout s = some (t, code) → s.pair.link.since + t ≤ s.now → Leaves (.trainingTimeout
    .pair) s fun x => pairLstate x = 0 ∧ getF x R.PAIR_STAT_TRAIN_ERR = code ∧ PagesKept [0x18] s x ∧ DataKept s x ∧ x.flows
    = s.flows) ∧
  (∀ (t code : Nat) (s : State), pairTimeout s = some (t, code) → s.pair.link.since + t ≤ s.now → Leaves (.pairTrainTimeout)
    s fun x => pairLstate x = 0 ∧ getF x R.PAIR_STAT_TRAIN_ERR = code ∧ PagesKept [0x18] s x ∧ DataKept s x ∧ x.flows =
    s.flows) ∧
  (∀ (lanes : BitVec 20) (s : State), pairLstate s = 1 → s.pair.link.tsCount = 63 → Leaves (.ts1 .pair lanes) s fun x =>
    pairLstate x = 2 ∧ PagesKept [0x18] s x ∧ DataKept s x ∧ x.flows = s.flows) ∧
  (∀ (c : Ts2) (s : State), pairLstate s = 3 → s.pair.link.tsCount = 15 → s.pair.link.tsCaps = some c → pairCapCheck s c = 0
    → Leaves (.ts2 .pair c) s fun x => pairLstate x = 4 ∧ getF x R.PAIR_PARTNER_UID_LO_UID + 2 ^ 32 * getF x
    R.PAIR_PARTNER_UID_HI_UID = c.uid.toNat ∧ PagesKept [0x18] s x ∧ DataKept s x ∧ x.flows = s.flows) ∧
  (∀ (s : State), pairLstate s = 5 → isHub1 s → s.pair.txq = [] → Leaves (.linkActive .pair) s fun x => pairLstate x = 6 ∧
    PagesKept [0x18] s x ∧ DataKept s x ∧ x.flows = s.flows) ∧
  (∀ (path : Path) (v : Word) (s : State), ownCa path R.PAIR_CTL_LRESET.key → accepted path 0x18 0x040 (withField v
    R.PAIR_CTL_LRESET.lo 1 1) s → bitOf v R.PAIR_CTL_EN → pairOn s → isLost s = false → isJoined s → isHalted s = false →
    getF s R.GLOBAL_FAIL_CTL_DEAD_POL ≠ 1 → Leaves (.pairLreset path v) s fun x => isLost x ∧ pairLstate x = 8 ∧ isHalted x ∧
    getF x R.GLOBAL_FAIL_STAT_CAUSE = 2 ∧ x.pair.txq = [] ∧ DataKept s x)

/-- Hub 1 answers every ECHO and goes to CREDIT after the sixteenth; the master collects sixteen round trips and sets
PAIR_DLY to their mean one-way delay. JOIN makes hub 1 joined and answered with JOINED, which makes the master joined
and lets a held RUN take effect; a join that takes longer than JOIN_TMO raises its event once. A mirror record sets
the mirrored fields of its register, no other register, and is acknowledged; the acknowledgement takes the oldest
record from MIRROR_PEND. (12_pair_operation.md (R528-R533)) -/
def Obligations.PairJoinAndMirror : Prop :=
  (∀ (n : Fin 16) (s : State), isHub1 s → pairOn s → inDelay s → n ≠ 15 → EndsIn (.echo n) s (ran (sendFlits .pair [.pair 0
    (.echoRsp n.val)]) s)) ∧
  (∀ (s : State), isHub1 s → pairOn s → pairLstate s = 4 → Leaves (.echo 15) s fun x => pairLstate x = 5 ∧ PagesKept [0x18] s
    x ∧ DataKept s x) ∧
  (∀ (rtt : BitVec 16) (s : State), isMaster s → pairOn s → inDelay s → s.pair.echoes.length < 15 → EndsIn (.echoRsp rtt) s
    (ran (sendFlits .pair [.pair 0 (.echo (s.pair.echoes.length + 1))])
    { s with pair := { s.pair with echoes := s.pair.echoes ++ [rtt.toNat] } })) ∧
  (∀ (rtt : BitVec 16) (s : State), isMaster s → pairOn s → inDelay s → s.pair.echoes.length = 15 → (((s.pair.echoes ++
    [rtt.toNat]).map (· - 40)).sum + 31) / 32 ≤ 1000 → Leaves (.echoRsp rtt) s fun x => getF x R.TICK_PAIR_DLY_NS =
    (((s.pair.echoes ++ [rtt.toNat]).map (· - 40)).sum + 31) / 32 ∧ x.pair.echoes = [] ∧ PagesKept [0x01, 0x18] s x ∧
    DataKept s x) ∧
  (∀ (s : State), pairRoom s 7 0 → isMirror s → isJoined s = false → isLost s = false → Leaves (.join) s fun x => isJoined x
    ∧ getF x R.REGION_HA_MAP_PAIRED = 1 ∧ ToldPartner s x .joined ∧ DataKept s x) ∧
  (∀ (s : State), pairRoom s 7 0 → isMaster s → pairOn s → s.pair.joining → isJoined s = false → isLost s = false →
    s.tick.running = false → stage s = 4 → Leaves (.joined) s fun x => isJoined x ∧ x.pair.joining = false ∧ getF x
    R.TICK_CTL_RUN = s.pair.runHeld.toNat ∧ x.tick.running = s.pair.runHeld ∧ PagesKept [0x01, 0x18, 0x38] s x ∧ DataKept s
    x) ∧
  (∀ (t : Nat) (s : State), s.pair.loadedAt = some t → pairOn s → isJoined s = false → s.pair.joinTmo = false → t + 1000000 *
    getF s R.PAIR_JOIN_TMO_MS ≤ s.now → Leaves (.joinTimeout) s fun x => x.pair = { s.pair with joinTmo := true } ∧ (getReg
    x.regs (regKey pgPair offIrqRaw)).getLsbD 5 ∧ PagesKept [0x18] s x ∧ DataKept s x) ∧
  (∀ (ca : BitVec 20) (v : Word) (s : State), pairRoom s 7 0 → isMirror s → isLost s = false → ca.toNat ≠ regionCtlKey →
    ca.toNat ≠ pairDlyKey → (isTenantCtl (ca.toNat / 4096) (ca.toNat % 4096) && v.getLsbD 8) = false → Leaves (.mirrorRecord
    ca v) s fun x => getReg x.regs ca.toNat = mirrorWord (getReg s.regs ca.toNat) v (rowsAt (ca.toNat / 4096) (ca.toNat %
    4096)) ∧ ToldPartner s x .mirrorAck ∧ RegsKept [ca.toNat] s x ∧ DataKept s x) ∧
  (∀ (s : State), pairRoom s 7 0 → s.pair.mirrorQ.length ≤ 256 → Leaves (.mirrorAck) s fun x => x.pair.mirrorQ =
    s.pair.mirrorQ.drop 1 ∧ getF x R.PAIR_MIRROR_PEND_N = s.pair.mirrorQ.length - 1 ∧ RegsKept [R.PAIR_MIRROR_PEND_N.key] s x
    ∧ DataKept s x)

/-- A reason that the home hub reports is kept for the tag's next HOLD. ABANDON of a request that still waits here takes
it out and is answered REMOVED, of one that is gone ENDED; REMOVED answers the agent HOLD_LIMIT, ENDED changes nothing
but the link's counts. A doorbell record sets its bit. A snoop for a live agent goes to its port, for a dead one it is
answered RspI at once. A completion of the home hub, or its verdict on early data, goes to the agent under its tag.
(12_pair_operation.md (R540-R545), 14_mailboxes_doorbells_cargo.md (R639)) -/
def Obligations.PairForwarding : Prop :=
  (∀ (p : Fin 16) (tag : Fin 64) (r : Fin 8) (t : TagSt) (s : State), pairRoom s 7 0 → tagOf (portOf s p.val) tag.val = some
    t → t.remote → Leaves (.holdReasonReport p tag r) s fun x => tagOf (portOf x p.val) tag.val = some
    { t with reason := r.val } ∧ x.regs = s.regs ∧ DataKept s x) ∧
  (∀ (a : Fin 32) (tag : Fin 64) (s : State), pairRoom s 7 0 → hasPartner s → forwardedReq s a.val tag.val = none → Leaves
    (.abandon a tag) s fun x => ToldPartner s x (.ended a.val tag.val) ∧ x.arb = s.arb ∧ x.flows = s.flows ∧ DataKept s x) ∧
  (∀ (a : Fin 32) (tag : Fin 64) (r : Req) (s : State), pairRoom s 7 0 → hasPartner s → forwardedReq s a.val tag.val = some r
    → ((s.arb.waiting.find? fun y => y.id == r.id).any fun w => !awaitsMatch s w) → Leaves (.abandon a tag) s fun x =>
    ToldPartner s x (.removed a.val tag.val) ∧ (x.arb.waiting = s.arb.waiting.filter fun y => y.id != r.id) ∧ x.flows =
    s.flows ∧ DataKept s x) ∧
  (∀ (p : Fin 16) (tag : Fin 64) (t : TagSt) (s : State), pairRoom s 7 0 → tagOf (portOf s p.val) tag.val = some t → t.remote
    → trackerOf s p.val tag.val = none → Leaves (.removed p tag) s fun x => Answered s x p.val ⟨0x37, tag.val, t.tenant,
    agentOf s p.val, t.aa, 0x10, 0, []⟩ ∧ getF x (R.APORT_HOLD_LIMIT_CNT_CNT p.val) = min (getF s (R.APORT_HOLD_LIMIT_CNT_CNT
    p.val) + 1) (2 ^ 32 - 1) ∧ x.flows = s.flows ∧ DataKept s x) ∧
  (∀ (p : Fin 16) (tag : Fin 64) (s : State), pairRoom s 7 0 → EndsIn (.ended p tag) s (tookPair s 7 0)) ∧
  (∀ (t b : Fin 32) (s : State), pairRoom s 5 0 → Leaves (.doorbellSetRecord t b) s fun x => getF x (R.TENANT_DB_WORD_BITS
    t.val) = getF s (R.TENANT_DB_WORD_BITS t.val) ||| 2 ^ b.val ∧ RegsKept [(R.TENANT_DB_WORD_BITS t.val).key] s x ∧ DataKept
    s x) ∧
  (∀ (p : Fin 16) (k : SnpKind) (nd : Bool) (ha : BitVec 30) (set : Fin 32768) (s : State), pairRoom s 1 0 → hasPartner s →
    isDead s (agentOf s p.val) → Leaves (.remoteSnoop p k nd ha set) s fun x => (ToldPartner s x (.response (agentOf s p.val)
    0x60 (if k = .snpFlushSet then set.val else ha.toNat / 64 * 64) [])) ∧ x.regs = s.regs ∧ x.ports = s.ports ∧ DataKept s
    x) ∧
  (∀ (p : Fin 16) (k : SnpKind) (nd : Bool) (ha : BitVec 30) (set : Fin 32768) (i : Nat) (s : State), pairRoom s 1 0 →
    hasPartner s → isDead s (agentOf s p.val) = false → portUp s p.val → k ≠ .snpFlushSet → (transHa s p.val (ha.toNat / 64 *
    64)).isSome → freeSid (portOf s p.val) = some i → Leaves (.remoteSnoop p k nd ha set) s fun x => (Answered s x p.val
    ⟨snpOp k, i, 0, 0, (transHa s p.val (ha.toNat / 64 * 64)).getD 0, if nd then 2 else 0, 0, []⟩) ∧ (snoopOf (portOf x
    p.val) i).map (·.remote) = some true ∧ DataKept s x) ∧
  (∀ (p : Fin 16) (tag : Fin 64) (op : BitVec 8) (spec : BitVec 40) (fs : List DFlit) (t : TagSt) (s : State), pairRoom s
    (fwdChan (.completion op spec fs)).1 (fwdChan (.completion op spec fs)).2 → hasPartner s → tagOf (portOf s p.val) tag.val
    = some t → t.remote → Leaves (.forwardedAnswer p tag (.completion op spec fs)) s fun x => Answered s x p.val ⟨op.toNat,
    tag.val, t.tenant, agentOf s p.val, t.aa, spec.toNat, 0, quadsOf fs⟩ ∧ x.flows = s.flows ∧ DataKept s x) ∧
  (∀ (p : Fin 16) (tag : Fin 64) (r : Fin 8) (t : TagSt) (tr : Tracker) (s : State), pairRoom s 4 0 → hasPartner s → tagOf
    (portOf s p.val) tag.val = some t → t.remote → trackerOf s p.val tag.val = some tr → tr.timedOut = false → Leaves
    (.forwardedAnswer p tag (.verdict true r)) s fun x => Answered s x p.val ⟨0x3B, tag.val, t.tenant, agentOf s p.val, t.aa,
    0, 0, []⟩ ∧ trackerOf x p.val tag.val = none ∧ getF x R.GLOBAL_ECONF_CNT_CNT = min (getF s R.GLOBAL_ECONF_CNT_CNT + 1) (2
    ^ 32 - 1) ∧ DataKept s x)

/-- At an agent's port or from the partner: a POST to an enabled inbound mailbox from a tenant of its TX_MASK is stored
last with the stamp of tick, epoch, agent and tenant, and answered stored while the mailbox has a free slot, full when
it has none under REJECT, and overwrote under OVERWRITE with the oldest lost; to a disabled mailbox it is refused
DISABLED, from another tenant SEC. TAKE by the mailbox's receiver answers the oldest message with its stamp and takes
it out, or answers empty; a message whose slot fails its parity is answered with POISON and captured as SLOT_PARITY.
STATUS answers the counts and changes nothing of the mailbox. A reserved KIND is answered MSG_FIELD. No stored data
changes. (14_mailboxes_doorbells_cargo.md (R624-R638), 12_pair_operation.md (R545), 15_failure_containment.md (R697)) -/
def Obligations.Mailboxes : Prop :=
  (∀ (h : Hdr) (p : Fin 16) (m : Fin 256) (fs : List DFlit) (s : State), msgReady s h p fs 1 → mboxHub s m.val = .here → mbEn
    s m.val → (getReg s.regs (regKey (pgMbox (mbG m.val)) (0x104 + 0x40 * mbK m.val))).getLsbD h.tenant.val → mbOut s m.val =
    false → (mboxOf s m.val).q.length < 16 → Leaves (.post h none m fs) s fun x => Answered s x p.val ⟨0x4A, h.tag.val,
    h.tenant.val, agentOf s p.val, 0, 0, 0, []⟩ ∧ (mboxOf x m.val).q = (mboxOf s m.val).q ++ [⟨((quadsOf fs).headD
    Quad.zero), mkStamp (tickNum s) (getF s (R.TENANT_STAT_EPOCH h.tenant.val)) (agentOf s p.val) h.tenant.val 0 0, false⟩] ∧
    PagesKept [pgMbox (mbG m.val), 0x18, 0x40 + getF s (R.MBOX_CTL_RX_TENANT (mbG m.val) (mbK m.val)), 0x78, 0xF0] s x ∧
    DataKept s x) ∧
  (∀ (h : Hdr) (a : Fin 32) (m : Fin 256) (fs : List DFlit) (s : State), h.src = .partner a → pairRoom s 5 fs.length →
    hasPartner s → discards s = false → mboxHub s m.val = .here → mbEn s m.val → (getReg s.regs (regKey (pgMbox (mbG m.val))
    (0x104 + 0x40 * mbK m.val))).getLsbD h.tenant.val → mbOut s m.val = false → (mboxOf s m.val).q.length < 16 → fs ≠ [] →
    Leaves (.post h none m fs) s fun x => ToldPartner s x (.answer a.val ⟨0x4A, h.tag.val, h.tenant.val, a.val, 0, 0, 0, []⟩)
    ∧ (mboxOf x m.val).q = (mboxOf s m.val).q ++ [⟨((quadsOf fs).headD Quad.zero), mkStamp (tickNum s) (h.addr.toNat % 256)
    a.val h.tenant.val 0 0, false⟩] ∧ PagesKept [pgMbox (mbG m.val), 0x18, 0x40 + getF s (R.MBOX_CTL_RX_TENANT (mbG m.val)
    (mbK m.val)), 0x78, 0xF0] s x ∧ DataKept s x) ∧
  (∀ (h : Hdr) (p : Fin 16) (m : Fin 256) (fs : List DFlit) (s : State), msgReady s h p fs 1 → mboxHub s m.val = .here → mbEn
    s m.val → (getReg s.regs (regKey (pgMbox (mbG m.val)) (0x104 + 0x40 * mbK m.val))).getLsbD h.tenant.val → mbOut s m.val =
    false → 16 ≤ (mboxOf s m.val).q.length → getF s (R.MBOX_CTL_FULL_POL (mbG m.val) (mbK m.val)) = 0 → Leaves (.post h none
    m fs) s fun x => Answered s x p.val ⟨0x37, h.tag.val, h.tenant.val, agentOf s p.val, 0, 0x32, 0, []⟩ ∧ x.mboxes =
    s.mboxes ∧ getF x (R.MBOX_REJECT_CNT_CNT (mbG m.val) (mbK m.val)) = min (getF s (R.MBOX_REJECT_CNT_CNT (mbG m.val) (mbK
    m.val)) + 1) (2 ^ 32 - 1) ∧ PagesKept [pgMbox (mbG m.val), 0x18, 0x40 + getF s (R.MBOX_CTL_RX_TENANT (mbG m.val) (mbK
    m.val)), 0x78, 0xF0] s x ∧ DataKept s x) ∧
  (∀ (h : Hdr) (a : Fin 32) (m : Fin 256) (fs : List DFlit) (s : State), h.src = .partner a → pairRoom s 5 fs.length →
    hasPartner s → discards s = false → mboxHub s m.val = .here → mbEn s m.val → (getReg s.regs (regKey (pgMbox (mbG m.val))
    (0x104 + 0x40 * mbK m.val))).getLsbD h.tenant.val → mbOut s m.val = false → 16 ≤ (mboxOf s m.val).q.length → getF s
    (R.MBOX_CTL_FULL_POL (mbG m.val) (mbK m.val)) = 0 → fs ≠ [] → Leaves (.post h none m fs) s fun x => ToldPartner s x
    (.answer a.val ⟨0x37, h.tag.val, h.tenant.val, a.val, 0, 0x32, 0, []⟩) ∧ x.mboxes = s.mboxes ∧ getF x
    (R.MBOX_REJECT_CNT_CNT (mbG m.val) (mbK m.val)) = min (getF s (R.MBOX_REJECT_CNT_CNT (mbG m.val) (mbK m.val)) + 1) (2 ^
    32 - 1) ∧ PagesKept [pgMbox (mbG m.val), 0x18, 0x40 + getF s (R.MBOX_CTL_RX_TENANT (mbG m.val) (mbK m.val)), 0x78, 0xF0]
    s x ∧ DataKept s x) ∧
  (∀ (h : Hdr) (p : Fin 16) (m : Fin 256) (fs : List DFlit) (s : State), msgReady s h p fs 1 → mboxHub s m.val = .here → mbEn
    s m.val → (getReg s.regs (regKey (pgMbox (mbG m.val)) (0x104 + 0x40 * mbK m.val))).getLsbD h.tenant.val → mbOut s m.val =
    false → 16 ≤ (mboxOf s m.val).q.length → getF s (R.MBOX_CTL_FULL_POL (mbG m.val) (mbK m.val)) ≠ 0 → (mboxOf s
    m.val).inFlight = false → Leaves (.post h none m fs) s fun x => Answered s x p.val ⟨0x4A, h.tag.val, h.tenant.val,
    agentOf s p.val, 0, 1, 0, []⟩ ∧ (mboxOf x m.val).q = (mboxOf s m.val).q.drop 1 ++ [⟨((quadsOf fs).headD Quad.zero),
    mkStamp (tickNum s) (getF s (R.TENANT_STAT_EPOCH h.tenant.val)) (agentOf s p.val) h.tenant.val 0 0, false⟩] ∧ getF x
    (R.MBOX_STAT_COLLISION (mbG m.val) (mbK m.val)) = 1 ∧ getF x (R.MBOX_LOST_CNT_CNT (mbG m.val) (mbK m.val)) = min (getF s
    (R.MBOX_LOST_CNT_CNT (mbG m.val) (mbK m.val)) + 1) (2 ^ 32 - 1) ∧ PagesKept [pgMbox (mbG m.val), 0x18, 0x40 + getF s
    (R.MBOX_CTL_RX_TENANT (mbG m.val) (mbK m.val)), 0x78, 0xF0] s x ∧ DataKept s x) ∧
  (∀ (h : Hdr) (a : Fin 32) (m : Fin 256) (fs : List DFlit) (s : State), h.src = .partner a → pairRoom s 5 fs.length →
    hasPartner s → discards s = false → mboxHub s m.val = .here → mbEn s m.val → (getReg s.regs (regKey (pgMbox (mbG m.val))
    (0x104 + 0x40 * mbK m.val))).getLsbD h.tenant.val → mbOut s m.val = false → 16 ≤ (mboxOf s m.val).q.length → getF s
    (R.MBOX_CTL_FULL_POL (mbG m.val) (mbK m.val)) ≠ 0 → (mboxOf s m.val).inFlight = false → fs ≠ [] → Leaves (.post h none m
    fs) s fun x => ToldPartner s x (.answer a.val ⟨0x4A, h.tag.val, h.tenant.val, a.val, 0, 1, 0, []⟩) ∧ (mboxOf x m.val).q =
    (mboxOf s m.val).q.drop 1 ++ [⟨((quadsOf fs).headD Quad.zero), mkStamp (tickNum s) (h.addr.toNat % 256) a.val
    h.tenant.val 0 0, false⟩] ∧ getF x (R.MBOX_STAT_COLLISION (mbG m.val) (mbK m.val)) = 1 ∧ getF x (R.MBOX_LOST_CNT_CNT (mbG
    m.val) (mbK m.val)) = min (getF s (R.MBOX_LOST_CNT_CNT (mbG m.val) (mbK m.val)) + 1) (2 ^ 32 - 1) ∧ PagesKept [pgMbox
    (mbG m.val), 0x18, 0x40 + getF s (R.MBOX_CTL_RX_TENANT (mbG m.val) (mbK m.val)), 0x78, 0xF0] s x ∧ DataKept s x) ∧
  (∀ (h : Hdr) (p : Fin 16) (m : Fin 256) (fs : List DFlit) (s : State), msgReady s h p fs 1 → mboxHub s m.val = .here → mbEn
    s m.val = false → Leaves (.post h none m fs) s fun x => Answered s x p.val ⟨0x37, h.tag.val, h.tenant.val, agentOf s
    p.val, 0, 0x30, 0, []⟩ ∧ x.mboxes = s.mboxes ∧ PagesKept [0x78, 0xF0] s x ∧ DataKept s x) ∧
  (∀ (h : Hdr) (a : Fin 32) (m : Fin 256) (fs : List DFlit) (s : State), h.src = .partner a → pairRoom s 5 fs.length →
    hasPartner s → discards s = false → mboxHub s m.val = .here → mbEn s m.val = false → fs ≠ [] → Leaves (.post h none m fs)
    s fun x => ToldPartner s x (.answer a.val ⟨0x37, h.tag.val, h.tenant.val, a.val, 0, 0x30, 0, []⟩) ∧ x.mboxes = s.mboxes ∧
    PagesKept [0x78, 0xF0] s x ∧ DataKept s x) ∧
  (∀ (h : Hdr) (p : Fin 16) (m : Fin 256) (fs : List DFlit) (s : State), msgReady s h p fs 1 → mboxHub s m.val = .here → mbEn
    s m.val → ((getReg s.regs (regKey (pgMbox (mbG m.val)) (0x104 + 0x40 * mbK m.val))).getLsbD h.tenant.val) = false →
    Leaves (.post h none m fs) s fun x => Answered s x p.val ⟨0x37, h.tag.val, h.tenant.val, agentOf s p.val, 0, 0x31, 0, []⟩
    ∧ x.mboxes = s.mboxes ∧ getF x R.GLOBAL_SEC_CNT_CNT = min (getF s R.GLOBAL_SEC_CNT_CNT + 1) (2 ^ 32 - 1) ∧ getF x
    R.GLOBAL_SEC_LAST_KIND = 4 ∧ PagesKept [0x00, pgMbox (mbG m.val), 0x78, 0xF0] s x ∧ DataKept s x) ∧
  (∀ (h : Hdr) (a : Fin 32) (m : Fin 256) (fs : List DFlit) (s : State), h.src = .partner a → pairRoom s 5 fs.length →
    hasPartner s → discards s = false → mboxHub s m.val = .here → mbEn s m.val → ((getReg s.regs (regKey (pgMbox (mbG m.val))
    (0x104 + 0x40 * mbK m.val))).getLsbD h.tenant.val) = false → fs ≠ [] → Leaves (.post h none m fs) s fun x => ToldPartner
    s x (.answer a.val ⟨0x37, h.tag.val, h.tenant.val, a.val, 0, 0x31, 0, []⟩) ∧ x.mboxes = s.mboxes ∧ getF x
    R.GLOBAL_SEC_CNT_CNT = min (getF s R.GLOBAL_SEC_CNT_CNT + 1) (2 ^ 32 - 1) ∧ getF x R.GLOBAL_SEC_LAST_KIND = 4 ∧ PagesKept
    [0x00, pgMbox (mbG m.val), 0x78, 0xF0] s x ∧ DataKept s x) ∧
  (∀ (h : Hdr) (p : Fin 16) (m : Fin 256) (sl : MSlot) (q : List MSlot) (s : State), msgReady s h p [] 0 → mboxHub s m.val =
    .here → mbEn s m.val → getF s (R.MBOX_CTL_RX_TENANT (mbG m.val) (mbK m.val)) = h.tenant.val → mbOut s m.val = false →
    getF s (R.MBOX_CTL_EPOCH_FILTER (mbG m.val) (mbK m.val)) = 0 → (mboxOf s m.val).q = sl :: q → sl.bad = false → Leaves
    (.take h none m) s fun x => Answered s x p.val ⟨0x4A, h.tag.val, h.tenant.val, agentOf s p.val, 0, 0, 0, [sl.msg,
    ⟨BitVec.ofNat 128 (sl.stamp.toNat + q.length * 2 ^ 64 + getF s (R.MBOX_STAT_COLLISION (mbG m.val) (mbK m.val)) * 2 ^ 72 +
    0 * 2 ^ 76), false⟩]⟩ ∧ (mboxOf x m.val).q = q ∧ getF x (R.MBOX_STAT_COLLISION (mbG m.val) (mbK m.val)) = 0 ∧ PagesKept
    [pgMbox (mbG m.val), 0x78, 0xF0] s x ∧ DataKept s x) ∧
  (∀ (h : Hdr) (a : Fin 32) (m : Fin 256) (sl : MSlot) (q : List MSlot) (s : State), h.src = .partner a → pairRoom s 5 0 →
    hasPartner s → discards s = false → mboxHub s m.val = .here → mbEn s m.val → getF s (R.MBOX_CTL_RX_TENANT (mbG m.val)
    (mbK m.val)) = h.tenant.val → mbOut s m.val = false → getF s (R.MBOX_CTL_EPOCH_FILTER (mbG m.val) (mbK m.val)) = 0 →
    (mboxOf s m.val).q = sl :: q → sl.bad = false → Leaves (.take h none m) s fun x => ToldPartner s x (.answer a.val ⟨0x4A,
    h.tag.val, h.tenant.val, a.val, 0, 0, 0, [sl.msg, ⟨BitVec.ofNat 128 (sl.stamp.toNat + q.length * 2 ^ 64 + getF s
    (R.MBOX_STAT_COLLISION (mbG m.val) (mbK m.val)) * 2 ^ 72 + 0 * 2 ^ 76), false⟩]⟩) ∧ (mboxOf x m.val).q = q ∧ getF x
    (R.MBOX_STAT_COLLISION (mbG m.val) (mbK m.val)) = 0 ∧ PagesKept [pgMbox (mbG m.val), 0x78, 0xF0] s x ∧ DataKept s x) ∧
  (∀ (h : Hdr) (p : Fin 16) (m : Fin 256) (sl : MSlot) (q : List MSlot) (s : State), msgReady s h p [] 0 → mboxHub s m.val =
    .here → mbEn s m.val → getF s (R.MBOX_CTL_RX_TENANT (mbG m.val) (mbK m.val)) = h.tenant.val → mbOut s m.val = false →
    getF s (R.MBOX_CTL_EPOCH_FILTER (mbG m.val) (mbK m.val)) = 0 → (mboxOf s m.val).q = sl :: q → sl.bad → getF s (capValid
    (pgMbox (mbG m.val))) = 0 → Leaves (.take h none m) s fun x => Answered s x p.val ⟨0x4A, h.tag.val, h.tenant.val, agentOf
    s p.val, 0, 0, 0, [⟨sl.msg.bits, true⟩, ⟨BitVec.ofNat 128 (sl.stamp.toNat + q.length * 2 ^ 64 + getF s
    (R.MBOX_STAT_COLLISION (mbG m.val) (mbK m.val)) * 2 ^ 72 + 0 * 2 ^ 76), false⟩]⟩ ∧ (mboxOf x m.val).q = q ∧ getF x
    (capCode (pgMbox (mbG m.val))) = 1 ∧ getF x (capValid (pgMbox (mbG m.val))) = 1 ∧ (getReg x.regs (regKey (pgMbox (mbG
    m.val)) 0x24)).toNat = m.val ∧ getF x (R.MBOX_STAT_COLLISION (mbG m.val) (mbK m.val)) = 0 ∧ PagesKept [pgMbox (mbG
    m.val), 0x78, 0xF0] s x ∧ DataKept s x) ∧
  (∀ (h : Hdr) (a : Fin 32) (m : Fin 256) (sl : MSlot) (q : List MSlot) (s : State), h.src = .partner a → pairRoom s 5 0 →
    hasPartner s → discards s = false → mboxHub s m.val = .here → mbEn s m.val → getF s (R.MBOX_CTL_RX_TENANT (mbG m.val)
    (mbK m.val)) = h.tenant.val → mbOut s m.val = false → getF s (R.MBOX_CTL_EPOCH_FILTER (mbG m.val) (mbK m.val)) = 0 →
    (mboxOf s m.val).q = sl :: q → sl.bad → getF s (capValid (pgMbox (mbG m.val))) = 0 → Leaves (.take h none m) s fun x =>
    ToldPartner s x (.answer a.val ⟨0x4A, h.tag.val, h.tenant.val, a.val, 0, 0, 0, [⟨sl.msg.bits, true⟩, ⟨BitVec.ofNat 128
    (sl.stamp.toNat + q.length * 2 ^ 64 + getF s (R.MBOX_STAT_COLLISION (mbG m.val) (mbK m.val)) * 2 ^ 72 + 0 * 2 ^ 76),
    false⟩]⟩) ∧ (mboxOf x m.val).q = q ∧ getF x (capCode (pgMbox (mbG m.val))) = 1 ∧ getF x (capValid (pgMbox (mbG m.val))) =
    1 ∧ (getReg x.regs (regKey (pgMbox (mbG m.val)) 0x24)).toNat = m.val ∧ getF x (R.MBOX_STAT_COLLISION (mbG m.val) (mbK
    m.val)) = 0 ∧ PagesKept [pgMbox (mbG m.val), 0x78, 0xF0] s x ∧ DataKept s x) ∧
  (∀ (h : Hdr) (p : Fin 16) (m : Fin 256) (s : State), msgReady s h p [] 0 → mboxHub s m.val = .here → mbEn s m.val → getF s
    (R.MBOX_CTL_RX_TENANT (mbG m.val) (mbK m.val)) = h.tenant.val → mbOut s m.val = false → (mboxOf s m.val).q = [] → Leaves
    (.take h none m) s fun x => Answered s x p.val ⟨0x4A, h.tag.val, h.tenant.val, agentOf s p.val, 0, 2, 0, []⟩ ∧ (mboxOf x
    m.val).q = [] ∧ PagesKept [0x78, 0xF0] s x ∧ DataKept s x) ∧
  (∀ (h : Hdr) (a : Fin 32) (m : Fin 256) (s : State), h.src = .partner a → pairRoom s 5 0 → hasPartner s → discards s =
    false → mboxHub s m.val = .here → mbEn s m.val → getF s (R.MBOX_CTL_RX_TENANT (mbG m.val) (mbK m.val)) = h.tenant.val →
    mbOut s m.val = false → (mboxOf s m.val).q = [] → Leaves (.take h none m) s fun x => ToldPartner s x (.answer a.val
    ⟨0x4A, h.tag.val, h.tenant.val, a.val, 0, 2, 0, []⟩) ∧ (mboxOf x m.val).q = [] ∧ PagesKept [0x78, 0xF0] s x ∧ DataKept s
    x) ∧
  (∀ (h : Hdr) (p : Fin 16) (m : Fin 256) (s : State), msgReady s h p [] 0 → mboxHub s m.val = .here → mbEn s m.val → getF s
    (R.MBOX_CTL_RX_TENANT (mbG m.val) (mbK m.val)) ≠ h.tenant.val → Leaves (.take h none m) s fun x => Answered s x p.val
    ⟨0x37, h.tag.val, h.tenant.val, agentOf s p.val, 0, 0x33, 0, []⟩ ∧ x.mboxes = s.mboxes ∧ PagesKept [0x78, 0xF0] s x ∧
    DataKept s x) ∧
  (∀ (h : Hdr) (a : Fin 32) (m : Fin 256) (s : State), h.src = .partner a → pairRoom s 5 0 → hasPartner s → discards s =
    false → mboxHub s m.val = .here → mbEn s m.val → getF s (R.MBOX_CTL_RX_TENANT (mbG m.val) (mbK m.val)) ≠ h.tenant.val →
    Leaves (.take h none m) s fun x => ToldPartner s x (.answer a.val ⟨0x37, h.tag.val, h.tenant.val, a.val, 0, 0x33, 0, []⟩)
    ∧ x.mboxes = s.mboxes ∧ PagesKept [0x78, 0xF0] s x ∧ DataKept s x) ∧
  (∀ (h : Hdr) (p : Fin 16) (m : Fin 256) (s : State), msgReady s h p [] 0 → mboxHub s m.val = .here → mbEn s m.val → getF s
    (R.MBOX_CTL_RX_TENANT (mbG m.val) (mbK m.val)) = h.tenant.val → Leaves (.mbxStatus h m) s fun x => Answered s x p.val
    ⟨0x4A, h.tag.val, h.tenant.val, agentOf s p.val, 0, 0, 0, [⟨BitVec.ofNat 128 (getF s (R.MBOX_STAT_COUNT (mbG m.val) (mbK
    m.val)) + getF s (R.MBOX_STAT_COLLISION (mbG m.val) (mbK m.val)) * 2 ^ 8 + getF s (R.MBOX_STAT_FULL (mbG m.val) (mbK
    m.val)) * 2 ^ 9), false⟩]⟩ ∧ x.mboxes = s.mboxes ∧ PagesKept [0x78, 0xF0] s x ∧ DataKept s x) ∧
  (∀ (h : Hdr) (a : Fin 32) (m : Fin 256) (s : State), h.src = .partner a → pairRoom s 5 0 → hasPartner s → discards s =
    false → mboxHub s m.val = .here → mbEn s m.val → getF s (R.MBOX_CTL_RX_TENANT (mbG m.val) (mbK m.val)) = h.tenant.val →
    Leaves (.mbxStatus h m) s fun x => ToldPartner s x (.answer a.val ⟨0x4A, h.tag.val, h.tenant.val, a.val, 0, 0, 0,
    [⟨BitVec.ofNat 128 (getF s (R.MBOX_STAT_COUNT (mbG m.val) (mbK m.val)) + getF s (R.MBOX_STAT_COLLISION (mbG m.val) (mbK
    m.val)) * 2 ^ 8 + getF s (R.MBOX_STAT_FULL (mbG m.val) (mbK m.val)) * 2 ^ 9), false⟩]⟩) ∧ x.mboxes = s.mboxes ∧ PagesKept
    [0x78, 0xF0] s x ∧ DataKept s x) ∧
  (∀ (h : Hdr) (p : Fin 16) (k : Fin 5) (m : Fin 256) (fs : List DFlit) (s : State), msgReady s h p fs (fs.length) → Leaves
    (.post h (some k) m fs) s fun x => Answered s x p.val ⟨0x37, h.tag.val, h.tenant.val, agentOf s p.val, 0, 0x34, 0, []⟩ ∧
    x.mboxes = s.mboxes ∧ PagesKept [0xF0] s x ∧ DataKept s x) ∧
  (∀ (h : Hdr) (p : Fin 16) (k : Fin 4) (m : Fin 256) (s : State), msgReady s h p [] (0) → Leaves (.take h (some k) m) s fun
    x => Answered s x p.val ⟨0x37, h.tag.val, h.tenant.val, agentOf s p.val, 0, 0x34, 0, []⟩ ∧ x.mboxes = s.mboxes ∧
    PagesKept [0xF0] s x ∧ DataKept s x)

/-- DB_MASK sets the tenant's mask; DB_TAKE answers the tenant's doorbell word, clears it and NOTIFIED; a due DbNotify
goes to the doorbell's agent with the word and sets NOTIFIED. A POST through SVC_CMD to a mailbox that does not allow
it shows RESULT refused, to an empty inbound mailbox that does it stores the words of SVC_MSG with a stamp of SRC 1; a
TAKE through SVC_CMD of an empty mailbox shows RESULT empty, of one with a message takes the oldest that EPOCH_FILTER
leaves out of it and shows it with its stamp, POISON and RESULT 0. (14_mailboxes_doorbells_cargo.md (R639-R643, R652),
12_pair_operation.md (R545)) -/
def Obligations.DoorbellsAndServicePosts : Prop :=
  (∀ (h : Hdr) (p : Fin 16) (fs : List DFlit) (s : State), msgReady s h p fs 1 → wordHub s h.tenant.val = .here → Leaves
    (.dbMask h fs) s fun x => Answered s x p.val ⟨0x4A, h.tag.val, h.tenant.val, agentOf s p.val, 0, 0, 0, []⟩ ∧ getF x
    (R.TENANT_DB_MASK_BITS h.tenant.val) = ((quadsOf fs).headD Quad.zero).bits.toNat % 2 ^ 32 ∧ PagesKept [0x40 +
    h.tenant.val, 0x78, 0xF0] s x ∧ DataKept s x) ∧
  (∀ (h : Hdr) (a : Fin 32) (fs : List DFlit) (s : State), h.src = .partner a → pairRoom s 5 fs.length → hasPartner s →
    discards s = false → wordHub s h.tenant.val = .here → fs ≠ [] → Leaves (.dbMask h fs) s fun x => ToldPartner s x (.answer
    a.val ⟨0x4A, h.tag.val, h.tenant.val, a.val, 0, 0, 0, []⟩) ∧ getF x (R.TENANT_DB_MASK_BITS h.tenant.val) = ((quadsOf
    fs).headD Quad.zero).bits.toNat % 2 ^ 32 ∧ PagesKept [0x40 + h.tenant.val, 0x78, 0xF0] s x ∧ DataKept s x) ∧
  (∀ (h : Hdr) (p : Fin 16)  (s : State), msgReady s h p [] 0 → wordHub s h.tenant.val = .here → Leaves (.dbTake h) s fun x
    => Answered s x p.val ⟨0x4A, h.tag.val, h.tenant.val, agentOf s p.val, 0, 0, 0, [⟨BitVec.ofNat 128 (getF s
    (R.TENANT_DB_WORD_BITS h.tenant.val)), false⟩]⟩ ∧ getF x (R.TENANT_DB_WORD_BITS h.tenant.val) = 0 ∧ getF x
    (R.TENANT_DB_CTL_NOTIFIED h.tenant.val) = 0 ∧ PagesKept [0x40 + h.tenant.val, 0x78, 0xF0] s x ∧ DataKept s x) ∧
  (∀ (h : Hdr) (a : Fin 32)  (s : State), h.src = .partner a → pairRoom s 5 0 → hasPartner s → discards s = false → wordHub s
    h.tenant.val = .here → Leaves (.dbTake h) s fun x => ToldPartner s x (.answer a.val ⟨0x4A, h.tag.val, h.tenant.val,
    a.val, 0, 0, 0, [⟨BitVec.ofNat 128 (getF s (R.TENANT_DB_WORD_BITS h.tenant.val)), false⟩]⟩) ∧ getF x
    (R.TENANT_DB_WORD_BITS h.tenant.val) = 0 ∧ getF x (R.TENANT_DB_CTL_NOTIFIED h.tenant.val) = 0 ∧ PagesKept [0x40 +
    h.tenant.val, 0x78, 0xF0] s x ∧ DataKept s x) ∧
  (∀ (t : Fin 32) (p : Nat) (s : State), portOfAgent s (getF s (R.TENANT_DB_CTL_AGENT t.val)) = some p → isRunning s → getF s
    (R.TENANT_DB_CTL_NOTIFIED t.val) = 0 → tenantOk s p t.val → tenantResetting s t.val = false → lstate s p = 4 → Nat.land
    (getF s (R.TENANT_DB_WORD_BITS t.val)) (getF s (R.TENANT_DB_MASK_BITS t.val)) ≠ 0 → Leaves (.dbNotify t) s fun x =>
    Answered s x p ⟨0x48, 0, t.val, getF s (R.TENANT_DB_CTL_AGENT t.val), 0, getF s (R.TENANT_DB_WORD_BITS t.val), 0, []⟩ ∧
    getF x (R.TENANT_DB_CTL_NOTIFIED t.val) = 1 ∧ getF x (R.TENANT_DB_WORD_BITS t.val) = getF s (R.TENANT_DB_WORD_BITS t.val)
    ∧ DataKept s x) ∧
  (∀ (path : Path) (m : Fin 128) (v : Word) (s : State), ownCa path (R.MBOX_SVC_CMD_POST (mbG m.val) (mbK m.val)).key →
    accepted path (pgMbox (mbG m.val)) (R.MBOX_SVC_CMD_POST (mbG m.val) (mbK m.val)).off (withField v (R.MBOX_SVC_CMD_POST
    (mbG m.val) (mbK m.val)).lo (R.MBOX_SVC_CMD_POST (mbG m.val) (mbK m.val)).w 1) s → bitOf v (R.MBOX_SVC_CMD_TAKE (mbG
    m.val) (mbK m.val)) = false → (mbEn s m.val = false ∨ getF s (R.MBOX_CTL_SVC_OK (mbG m.val) (mbK m.val)) = 0) → Leaves
    (.svcPost path m v) s fun x => getF x (R.MBOX_SVC_CMD_RESULT (mbG m.val) (mbK m.val)) = 4 ∧ x.mboxes = s.mboxes ∧
    PagesKept [0x00, pgMbox (mbG m.val), 0x18, 0xF0] s x ∧ DataKept s x) ∧
  (∀ (path : Path) (m : Fin 128) (v : Word) (s : State), ownCa path (R.MBOX_SVC_CMD_POST (mbG m.val) (mbK m.val)).key →
    accepted path (pgMbox (mbG m.val)) (R.MBOX_SVC_CMD_POST (mbG m.val) (mbK m.val)).off (withField v (R.MBOX_SVC_CMD_POST
    (mbG m.val) (mbK m.val)).lo (R.MBOX_SVC_CMD_POST (mbG m.val) (mbK m.val)).w 1) s → bitOf v (R.MBOX_SVC_CMD_TAKE (mbG
    m.val) (mbK m.val)) = false → mbEn s m.val → mbOut s m.val = false → getF s (R.MBOX_CTL_SVC_OK (mbG m.val) (mbK m.val)) =
    1 → (mboxOf s m.val).q.length < 16 → Leaves (.svcPost path m v) s fun x => getF x (R.MBOX_SVC_CMD_RESULT (mbG m.val) (mbK
    m.val)) = 0 ∧ (mboxOf x m.val).q = (mboxOf s m.val).q ++ [⟨⟨BitVec.ofNat 128 (getF s (R.MBOX_SVC_MSG0_MSG (mbG m.val)
    (mbK m.val)) + getF s (R.MBOX_SVC_MSG1_MSG (mbG m.val) (mbK m.val)) * 2 ^ 32 + getF s (R.MBOX_SVC_MSG2_MSG (mbG m.val)
    (mbK m.val)) * 2 ^ 64 + getF s (R.MBOX_SVC_MSG3_MSG (mbG m.val) (mbK m.val)) * 2 ^ 96), false⟩, mkStamp (tickNum s) 0 0 0
    1 0, false⟩] ∧ DataKept s x) ∧
  (∀ (path : Path) (m : Fin 128) (v : Word) (s : State), ownCa path (R.MBOX_SVC_CMD_TAKE (mbG m.val) (mbK m.val)).key →
    accepted path (pgMbox (mbG m.val)) (R.MBOX_SVC_CMD_TAKE (mbG m.val) (mbK m.val)).off (withField v (R.MBOX_SVC_CMD_TAKE
    (mbG m.val) (mbK m.val)).lo (R.MBOX_SVC_CMD_TAKE (mbG m.val) (mbK m.val)).w 1) s → bitOf v (R.MBOX_SVC_CMD_POST (mbG
    m.val) (mbK m.val)) = false → mbEn s m.val → mbOut s m.val = false → (mboxOf s m.val).q = [] → Leaves (.svcTake path m v)
    s fun x => getF x (R.MBOX_SVC_CMD_RESULT (mbG m.val) (mbK m.val)) = 2 ∧ PagesKept [0x00, pgMbox (mbG m.val), 0x18, 0xF0]
    s x ∧ DataKept s x) ∧
  (∀ (path : Path) (m : Fin 128) (sl : MSlot) (q : List MSlot) (v : Word) (s : State), ownCa path (R.MBOX_SVC_CMD_TAKE (mbG
    m.val) (mbK m.val)).key → accepted path (pgMbox (mbG m.val)) (R.MBOX_SVC_CMD_TAKE (mbG m.val) (mbK m.val)).off (withField
    v (R.MBOX_SVC_CMD_TAKE (mbG m.val) (mbK m.val)).lo (R.MBOX_SVC_CMD_TAKE (mbG m.val) (mbK m.val)).w 1) s → bitOf v
    (R.MBOX_SVC_CMD_POST (mbG m.val) (mbK m.val)) = false → mbEn s m.val → mbOut s m.val = false → ((mboxOf s m.val).q.drop
    (if getF s (R.MBOX_CTL_EPOCH_FILTER (mbG m.val) (mbK m.val)) = 1 then staleHead s (mboxOf s m.val).q else 0) = sl :: q) →
    Leaves (.svcTake path m v) s fun x => getF x (R.MBOX_SVC_CMD_RESULT (mbG m.val) (mbK m.val)) = 0 ∧ (mboxOf x m.val).q = q
    ∧ getF x (R.MBOX_SVC_MSG0_MSG (mbG m.val) (mbK m.val)) = sl.msg.bits.toNat / 2 ^ 0 % 2 ^ 32 ∧ getF x (R.MBOX_SVC_MSG1_MSG
    (mbG m.val) (mbK m.val)) = sl.msg.bits.toNat / 2 ^ 32 % 2 ^ 32 ∧ getF x (R.MBOX_SVC_MSG2_MSG (mbG m.val) (mbK m.val)) =
    sl.msg.bits.toNat / 2 ^ 64 % 2 ^ 32 ∧ getF x (R.MBOX_SVC_MSG3_MSG (mbG m.val) (mbK m.val)) = sl.msg.bits.toNat / 2 ^ 96 %
    2 ^ 32 ∧ getF x (R.MBOX_SVC_STAMP_LO_STAMP (mbG m.val) (mbK m.val)) = sl.stamp.toNat % 2 ^ 32 ∧ getF x
    (R.MBOX_SVC_STAMP_HI_STAMP (mbG m.val) (mbK m.val)) = sl.stamp.toNat / 2 ^ 32 ∧ getF x (R.MBOX_SVC_CMD_POISON (mbG m.val)
    (mbK m.val)) = (sl.msg.poison || sl.bad).toNat ∧ PagesKept [0x00, pgMbox (mbG m.val), 0x18, 0xF0] s x ∧ DataKept s x)

/-- At an agent's port or from the partner: CARGO_ALLOC with the pool enabled, a free buffer and the tenant below its
limit gives the tenant the next buffer and answers its handle; otherwise EMPTY. With a handle that passes the checks,
CARGO_GIVE makes the target tenant the owner, CARGO_FREE ends the ownership and gives the buffer its next generation,
CARGO_WRITE is acknowledged and CARGO_READ answers as many data words as asked; a stale handle is answered STALE and
counted, and nothing else happens. (14_mailboxes_doorbells_cargo.md (R653-R661), 12_pair_operation.md (R545)) -/
def Obligations.Cargo : Prop :=
  (∀ (h : Hdr) (p : Fin 16) (hub : Bool) (s : State), msgReady s h p [] 0 → poolHub s hub = .here → getF s R.CARGO_CTL_EN = 1
    → s.cargo.fresh < 4096 → getF s (R.TENANT_CARGO_HELD_N h.tenant.val) < getF s (R.TENANT_CARGO_LIM_MAX h.tenant.val) →
    Leaves (.cargoAlloc h hub) s fun x => Answered s x p.val ⟨0x4B, h.tag.val, h.tenant.val, agentOf s p.val, 0, (cargoGen s
    s.cargo.fresh * 4096 + s.cargo.fresh) * 2 ^ 16, 0, []⟩ ∧ x.cargo.fresh = s.cargo.fresh + 1 ∧ cargoOwner x s.cargo.fresh =
    some h.tenant.val ∧ getF x R.CARGO_ALLOC_CNT_CNT = min (getF s R.CARGO_ALLOC_CNT_CNT + 1) (2 ^ 32 - 1) ∧ PagesKept [0x40
    + h.tenant.val, 0x68, 0x78, 0xF0] s x ∧ DataKept s x) ∧
  (∀ (h : Hdr) (a : Fin 32) (hub : Bool) (s : State), h.src = .partner a → pairRoom s 5 0 → hasPartner s → discards s = false
    → poolHub s hub = .here → getF s R.CARGO_CTL_EN = 1 → s.cargo.fresh < 4096 → getF s (R.TENANT_CARGO_HELD_N h.tenant.val)
    < getF s (R.TENANT_CARGO_LIM_MAX h.tenant.val) → Leaves (.cargoAlloc h hub) s fun x => ToldPartner s x (.answer a.val
    ⟨0x4B, h.tag.val, h.tenant.val, a.val, 0, (cargoGen s s.cargo.fresh * 4096 + s.cargo.fresh) * 2 ^ 16, 0, []⟩) ∧
    x.cargo.fresh = s.cargo.fresh + 1 ∧ cargoOwner x s.cargo.fresh = some h.tenant.val ∧ getF x R.CARGO_ALLOC_CNT_CNT = min
    (getF s R.CARGO_ALLOC_CNT_CNT + 1) (2 ^ 32 - 1) ∧ PagesKept [0x40 + h.tenant.val, 0x68, 0x78, 0xF0] s x ∧ DataKept s x) ∧
  (∀ (h : Hdr) (p : Fin 16) (hub : Bool) (s : State), msgReady s h p [] 0 → poolHub s hub = .here → (getF s R.CARGO_CTL_EN =
    0 ∨ getF s (R.TENANT_CARGO_LIM_MAX h.tenant.val) ≤ getF s (R.TENANT_CARGO_HELD_N h.tenant.val)) → Leaves (.cargoAlloc h
    hub) s fun x => Answered s x p.val ⟨0x37, h.tag.val, h.tenant.val, agentOf s p.val, 0, 0x38, 0, []⟩ ∧ x.cargo = s.cargo ∧
    getF x R.CARGO_EMPTY_CNT_CNT = min (getF s R.CARGO_EMPTY_CNT_CNT + 1) (2 ^ 32 - 1) ∧ PagesKept [0x40 + h.tenant.val,
    0x68, 0x78, 0xF0] s x ∧ DataKept s x) ∧
  (∀ (h : Hdr) (a : Fin 32) (hub : Bool) (s : State), h.src = .partner a → pairRoom s 5 0 → hasPartner s → discards s = false
    → poolHub s hub = .here → (getF s R.CARGO_CTL_EN = 0 ∨ getF s (R.TENANT_CARGO_LIM_MAX h.tenant.val) ≤ getF s
    (R.TENANT_CARGO_HELD_N h.tenant.val)) → Leaves (.cargoAlloc h hub) s fun x => ToldPartner s x (.answer a.val ⟨0x37,
    h.tag.val, h.tenant.val, a.val, 0, 0x38, 0, []⟩) ∧ x.cargo = s.cargo ∧ getF x R.CARGO_EMPTY_CNT_CNT = min (getF s
    R.CARGO_EMPTY_CNT_CNT + 1) (2 ^ 32 - 1) ∧ PagesKept [0x40 + h.tenant.val, 0x68, 0x78, 0xF0] s x ∧ DataKept s x) ∧
  (∀ (h : Hdr) (p : Fin 16) (handle : BitVec 16) (hub : Bool) (target : Fin 32) (s : State), msgReady s h p [] 0 → poolHub s
    hub = .here → getF s R.CARGO_CTL_EN = 1 → cargoOwner s (handle.toNat % 4096) = some h.tenant.val → cargoGen s
    (handle.toNat % 4096) = handle.toNat / 4096 → getF s (R.TENANT_CTL_EN target.val) = 1 → tenantResetting s target.val =
    false → Leaves (.cargoGive h handle hub target) s fun x => Answered s x p.val ⟨0x4B, h.tag.val, h.tenant.val, agentOf s
    p.val, 0, 0, 0, []⟩ ∧ cargoOwner x (handle.toNat % 4096) = some target.val ∧ x.cargo.gens = s.cargo.gens ∧ x.cargo.freed
    = s.cargo.freed ∧ PagesKept [0x40 + h.tenant.val, 0x40 + target.val, 0x68, 0x78, 0xF0] s x ∧ DataKept s x) ∧
  (∀ (h : Hdr) (a : Fin 32) (handle : BitVec 16) (hub : Bool) (target : Fin 32) (s : State), h.src = .partner a → pairRoom s
    5 0 → hasPartner s → discards s = false → poolHub s hub = .here → getF s R.CARGO_CTL_EN = 1 → cargoOwner s (handle.toNat
    % 4096) = some h.tenant.val → cargoGen s (handle.toNat % 4096) = handle.toNat / 4096 → getF s (R.TENANT_CTL_EN
    target.val) = 1 → tenantResetting s target.val = false → Leaves (.cargoGive h handle hub target) s fun x => ToldPartner s
    x (.answer a.val ⟨0x4B, h.tag.val, h.tenant.val, a.val, 0, 0, 0, []⟩) ∧ cargoOwner x (handle.toNat % 4096) = some
    target.val ∧ x.cargo.gens = s.cargo.gens ∧ x.cargo.freed = s.cargo.freed ∧ PagesKept [0x40 + h.tenant.val, 0x40 +
    target.val, 0x68, 0x78, 0xF0] s x ∧ DataKept s x) ∧
  (∀ (h : Hdr) (p : Fin 16) (handle : BitVec 16) (hub : Bool) (s : State), msgReady s h p [] 0 → poolHub s hub = .here → getF
    s R.CARGO_CTL_EN = 1 → cargoOwner s (handle.toNat % 4096) = some h.tenant.val → cargoGen s (handle.toNat % 4096) =
    handle.toNat / 4096 → Leaves (.cargoFree h handle hub) s fun x => Answered s x p.val ⟨0x4B, h.tag.val, h.tenant.val,
    agentOf s p.val, 0, 0, 0, []⟩ ∧ cargoOwner x (handle.toNat % 4096) = none ∧ x.cargo.freed = s.cargo.freed ++
    [handle.toNat % 4096] ∧ cargoGen x (handle.toNat % 4096) = (cargoGen s (handle.toNat % 4096) + 1) % 16 ∧ PagesKept [0x40
    + h.tenant.val, 0x68, 0x78, 0xF0] s x ∧ DataKept s x) ∧
  (∀ (h : Hdr) (a : Fin 32) (handle : BitVec 16) (hub : Bool) (s : State), h.src = .partner a → pairRoom s 5 0 → hasPartner s
    → discards s = false → poolHub s hub = .here → getF s R.CARGO_CTL_EN = 1 → cargoOwner s (handle.toNat % 4096) = some
    h.tenant.val → cargoGen s (handle.toNat % 4096) = handle.toNat / 4096 → Leaves (.cargoFree h handle hub) s fun x =>
    ToldPartner s x (.answer a.val ⟨0x4B, h.tag.val, h.tenant.val, a.val, 0, 0, 0, []⟩) ∧ cargoOwner x (handle.toNat % 4096)
    = none ∧ x.cargo.freed = s.cargo.freed ++ [handle.toNat % 4096] ∧ cargoGen x (handle.toNat % 4096) = (cargoGen s
    (handle.toNat % 4096) + 1) % 16 ∧ PagesKept [0x40 + h.tenant.val, 0x68, 0x78, 0xF0] s x ∧ DataKept s x) ∧
  (∀ (h : Hdr) (p : Fin 16) (handle : BitVec 16) (hub : Bool) (target : Fin 32) (s : State), msgReady s h p [] 0 → poolHub s
    hub = .here → (getF s R.CARGO_CTL_EN = 0 ∨ cargoOwner s (handle.toNat % 4096) = none ∨ cargoGen s (handle.toNat % 4096) ≠
    handle.toNat / 4096) → Leaves (.cargoGive h handle hub target) s fun x => Answered s x p.val ⟨0x37, h.tag.val,
    h.tenant.val, agentOf s p.val, 0, 0x39, 0, []⟩ ∧ x.cargo = s.cargo ∧ getF x R.CARGO_STALE_CNT_CNT = min (getF s
    R.CARGO_STALE_CNT_CNT + 1) (2 ^ 32 - 1) ∧ PagesKept [0x40 + h.tenant.val, 0x68, 0x78, 0xF0] s x ∧ DataKept s x) ∧
  (∀ (h : Hdr) (a : Fin 32) (handle : BitVec 16) (hub : Bool) (target : Fin 32) (s : State), h.src = .partner a → pairRoom s
    5 0 → hasPartner s → discards s = false → poolHub s hub = .here → (getF s R.CARGO_CTL_EN = 0 ∨ cargoOwner s (handle.toNat
    % 4096) = none ∨ cargoGen s (handle.toNat % 4096) ≠ handle.toNat / 4096) → Leaves (.cargoGive h handle hub target) s fun
    x => ToldPartner s x (.answer a.val ⟨0x37, h.tag.val, h.tenant.val, a.val, 0, 0x39, 0, []⟩) ∧ x.cargo = s.cargo ∧ getF x
    R.CARGO_STALE_CNT_CNT = min (getF s R.CARGO_STALE_CNT_CNT + 1) (2 ^ 32 - 1) ∧ PagesKept [0x40 + h.tenant.val, 0x68, 0x78,
    0xF0] s x ∧ DataKept s x) ∧
  (∀ (h : Hdr) (p : Fin 16) (handle : BitVec 16) (hub : Bool) (s : State), msgReady s h p [] 0 → poolHub s hub = .here →
    (getF s R.CARGO_CTL_EN = 0 ∨ cargoOwner s (handle.toNat % 4096) = none ∨ cargoGen s (handle.toNat % 4096) ≠ handle.toNat
    / 4096) → Leaves (.cargoFree h handle hub) s fun x => Answered s x p.val ⟨0x37, h.tag.val, h.tenant.val, agentOf s p.val,
    0, 0x39, 0, []⟩ ∧ x.cargo = s.cargo ∧ getF x R.CARGO_STALE_CNT_CNT = min (getF s R.CARGO_STALE_CNT_CNT + 1) (2 ^ 32 - 1)
    ∧ PagesKept [0x40 + h.tenant.val, 0x68, 0x78, 0xF0] s x ∧ DataKept s x) ∧
  (∀ (h : Hdr) (a : Fin 32) (handle : BitVec 16) (hub : Bool) (s : State), h.src = .partner a → pairRoom s 5 0 → hasPartner s
    → discards s = false → poolHub s hub = .here → (getF s R.CARGO_CTL_EN = 0 ∨ cargoOwner s (handle.toNat % 4096) = none ∨
    cargoGen s (handle.toNat % 4096) ≠ handle.toNat / 4096) → Leaves (.cargoFree h handle hub) s fun x => ToldPartner s x
    (.answer a.val ⟨0x37, h.tag.val, h.tenant.val, a.val, 0, 0x39, 0, []⟩) ∧ x.cargo = s.cargo ∧ getF x R.CARGO_STALE_CNT_CNT
    = min (getF s R.CARGO_STALE_CNT_CNT + 1) (2 ^ 32 - 1) ∧ PagesKept [0x40 + h.tenant.val, 0x68, 0x78, 0xF0] s x ∧ DataKept
    s x) ∧
  (∀ (h : Hdr) (p : Fin 16) (handle : BitVec 16) (hub : Bool) (word : Fin 16) (nw : Fin 4) (s : State), msgReady s h p [] 0 →
    poolHub s hub = .here → (getF s R.CARGO_CTL_EN = 0 ∨ cargoOwner s (handle.toNat % 4096) = none ∨ cargoGen s (handle.toNat
    % 4096) ≠ handle.toNat / 4096) → wordField word nw = none → Leaves (.cargoRead h handle hub word nw) s fun x => Answered
    s x p.val ⟨0x37, h.tag.val, h.tenant.val, agentOf s p.val, 0, 0x39, 0, []⟩ ∧ x.cargo = s.cargo ∧ getF x
    R.CARGO_STALE_CNT_CNT = min (getF s R.CARGO_STALE_CNT_CNT + 1) (2 ^ 32 - 1) ∧ PagesKept [0x40 + h.tenant.val, 0x68, 0x78,
    0xF0] s x ∧ DataKept s x) ∧
  (∀ (h : Hdr) (a : Fin 32) (handle : BitVec 16) (hub : Bool) (word : Fin 16) (nw : Fin 4) (s : State), h.src = .partner a →
    pairRoom s 5 0 → hasPartner s → discards s = false → poolHub s hub = .here → (getF s R.CARGO_CTL_EN = 0 ∨ cargoOwner s
    (handle.toNat % 4096) = none ∨ cargoGen s (handle.toNat % 4096) ≠ handle.toNat / 4096) → wordField word nw = none →
    Leaves (.cargoRead h handle hub word nw) s fun x => ToldPartner s x (.answer a.val ⟨0x37, h.tag.val, h.tenant.val, a.val,
    0, 0x39, 0, []⟩) ∧ x.cargo = s.cargo ∧ getF x R.CARGO_STALE_CNT_CNT = min (getF s R.CARGO_STALE_CNT_CNT + 1) (2 ^ 32 - 1)
    ∧ PagesKept [0x40 + h.tenant.val, 0x68, 0x78, 0xF0] s x ∧ DataKept s x) ∧
  (∀ (h : Hdr) (p : Fin 16) (handle : BitVec 16) (hub : Bool) (word : Fin 16) (nw : Fin 4) (fs : List DFlit) (s : State),
    msgReady s h p fs (nw.val + 1) → poolHub s hub = .here → (getF s R.CARGO_CTL_EN = 0 ∨ cargoOwner s (handle.toNat % 4096)
    = none ∨ cargoGen s (handle.toNat % 4096) ≠ handle.toNat / 4096) → wordField word nw = none → Leaves (.cargoWrite h
    handle hub word nw fs) s fun x => Answered s x p.val ⟨0x37, h.tag.val, h.tenant.val, agentOf s p.val, 0, 0x39, 0, []⟩ ∧
    x.cargo = s.cargo ∧ getF x R.CARGO_STALE_CNT_CNT = min (getF s R.CARGO_STALE_CNT_CNT + 1) (2 ^ 32 - 1) ∧ PagesKept [0x40
    + h.tenant.val, 0x68, 0x78, 0xF0] s x ∧ DataKept s x) ∧
  (∀ (h : Hdr) (a : Fin 32) (handle : BitVec 16) (hub : Bool) (word : Fin 16) (nw : Fin 4) (fs : List DFlit) (s : State),
    h.src = .partner a → pairRoom s 5 fs.length → hasPartner s → discards s = false → poolHub s hub = .here → (getF s
    R.CARGO_CTL_EN = 0 ∨ cargoOwner s (handle.toNat % 4096) = none ∨ cargoGen s (handle.toNat % 4096) ≠ handle.toNat / 4096)
    → wordField word nw = none → Leaves (.cargoWrite h handle hub word nw fs) s fun x => ToldPartner s x (.answer a.val
    ⟨0x37, h.tag.val, h.tenant.val, a.val, 0, 0x39, 0, []⟩) ∧ x.cargo = s.cargo ∧ getF x R.CARGO_STALE_CNT_CNT = min (getF s
    R.CARGO_STALE_CNT_CNT + 1) (2 ^ 32 - 1) ∧ PagesKept [0x40 + h.tenant.val, 0x68, 0x78, 0xF0] s x ∧ DataKept s x) ∧
  (∀ (h : Hdr) (p : Fin 16) (handle : BitVec 16) (hub : Bool) (word : Fin 16) (nw : Fin 4) (s : State), msgReady s h p [] 0 →
    poolHub s hub = .here → getF s R.CARGO_CTL_EN = 1 → cargoOwner s (handle.toNat % 4096) = some h.tenant.val → cargoGen s
    (handle.toNat % 4096) = handle.toNat / 4096 → wordField word nw = none → Leaves (.cargoRead h handle hub word nw) s fun x
    => (∃ d, d.length = nw.val + 1 ∧ Answered s x p.val ⟨0x4B, h.tag.val, h.tenant.val, agentOf s p.val, 0, 0, 0, d⟩) ∧
    x.cargo = s.cargo) ∧
  (∀ (h : Hdr) (p : Fin 16) (handle : BitVec 16) (hub : Bool) (word : Fin 16) (nw : Fin 4) (fs : List DFlit) (s : State),
    msgReady s h p fs (nw.val + 1) → poolHub s hub = .here → getF s R.CARGO_CTL_EN = 1 → cargoOwner s (handle.toNat % 4096) =
    some h.tenant.val → cargoGen s (handle.toNat % 4096) = handle.toNat / 4096 → wordField word nw = none → Leaves
    (.cargoWrite h handle hub word nw fs) s fun x => Answered s x p.val ⟨0x4B, h.tag.val, h.tenant.val, agentOf s p.val, 0,
    0, 0, []⟩ ∧ x.cargo = s.cargo)

/-- A POST frame for this node to an inbound mailbox that refuses its sender changes no mailbox and is answered with an
ACK of result refused. One to a mailbox that accepts it is stored last with the stamp it brings but SRC 2 and its
source node, once for a SEQ, and acknowledged stored. An ACK stored for the message in flight takes it out of its
outbound mailbox. A message without its answer for RETRY_US is counted as sent once more; at the limit it is lost and
counted. (14_mailboxes_doorbells_cargo.md (R648-R651)) -/
def Obligations.MailboxFrames : Prop :=
  (∀ (p : Fin 4) (f : Frame) (s : State), frameOkAt s p f 2 → forHere s f → pfield f 0 1 = 1 → f.payload.length = 32 →
    f.src.toNat ≠ nodeId s → frameRefused s (pfield f 1 1) f.src.toNat → (((kvGet (fun _ => none) s.mbxLast f.src.toNat).map
    fun e => e.1) ≠ some f.seq.toNat) → Leaves (.mbxPostFrame p f) s fun x => x.mboxes = s.mboxes ∧ Routed s x (mkFrame s 2
    f.src.toNat (seqTo s 2 f.src.toNat) (ackBytes (pfield f 1 1) f.seq.toNat 2)) ∧ getF x R.GLOBAL_SEC_CNT_CNT = min (getF s
    R.GLOBAL_SEC_CNT_CNT + 1) (2 ^ 32 - 1) ∧ getF x R.GLOBAL_SEC_LAST_KIND = 5 ∧ PagesKept [0x00, pgMbox (mbG (pfield f 1
    1)), 0x1C, 0x1D, 0x1E, 0x1F, 0x78] s x ∧ DataKept s x) ∧
  (∀ (p : Fin 4) (f : Frame) (s : State), frameOkAt s p f 2 → forHere s f → pfield f 0 1 = 1 → f.payload.length = 32 →
    f.src.toNat ≠ nodeId s → frameRefused s (pfield f 1 1) f.src.toNat = false → (((kvGet (fun _ => none) s.mbxLast
    f.src.toNat).map fun e => e.1) ≠ some f.seq.toNat) → (mboxOf s (pfield f 1 1)).q.length < 16 → Leaves (.mbxPostFrame p f)
    s fun x => (mboxOf x (pfield f 1 1)).q = (mboxOf s (pfield f 1 1)).q ++ [⟨⟨BitVec.ofNat 128 (pfield f 16 16), (pfield f 2
    1).testBit 0⟩, (BitVec.ofNat 64 (pfield f 8 8 % 2 ^ 50 + 2 * 2 ^ 50 + f.src.toNat % 64 * 2 ^ 52)), false⟩] ∧ (kvGet (fun
    _ => none) x.mbxLast f.src.toNat = some (f.seq.toNat, 0)) ∧ Routed s x (mkFrame s 2 f.src.toNat (seqTo s 2 f.src.toNat)
    (ackBytes (pfield f 1 1) f.seq.toNat 0)) ∧ DataKept s x) ∧
  (∀ (p : Fin 4) (f : Frame) (r : Nat) (s : State), frameOkAt s p f 2 → forHere s f → pfield f 0 1 = 1 → f.payload.length =
    32 → f.src.toNat ≠ nodeId s → (kvGet (fun _ => none) s.mbxLast f.src.toNat = some (f.seq.toNat, r)) → Leaves
    (.mbxPostFrame p f) s fun x => x.mboxes = s.mboxes ∧ Routed s x (mkFrame s 2 f.src.toNat (seqTo s 2 f.src.toNat)
    (ackBytes (pfield f 1 1) f.seq.toNat r)) ∧ PagesKept [0x1C, 0x1D, 0x1E, 0x1F, 0x78] s x ∧ DataKept s x) ∧
  (∀ (p : Fin 4) (f : Frame) (m : Nat) (s : State), frameOkAt s p f 2 → forHere s f → pfield f 0 1 = 2 → f.payload.length = 8
    → f.src.toNat ≠ nodeId s → ackedMbox s f.src.toNat (pfield f 1 1) (pfield f 2 2) = some m → pfield f 4 1 = 0 → Leaves
    (.mbxAckFrame p f) s fun x => (mboxOf x m).q = (mboxOf s m).q.drop 1 ∧ PagesKept [pgMbox (mbG m), 0x1C, 0x1D, 0x1E, 0x1F,
    0x78] s x ∧ DataKept s x) ∧
  (∀ (m : Fin 128) (s : State), (mboxOf s m.val).inFlight → (mboxOf s m.val).sentAt + 1000 * getF s R.MBOX_FAB_RETRY_US ≤
    s.now → (getF s R.FABRIC_STAT_ID_VALID = 0 ∨ getF s (R.MBOX_REMOTE_NODE (mbG m.val) (mbK m.val)) ≠ nodeId s) → (mboxOf s
    m.val).sends < getF s R.MBOX_FAB_RETRY_LIM → Leaves (.mbxRetryTimeout m) s fun x => mboxOf x m.val =
    { mboxOf s m.val with sends := (mboxOf s m.val).sends + 1, sentAt := s.now } ∧ getF x (R.MBOX_RETRY_CNT_CNT (mbG m.val)
    (mbK m.val)) = min (getF s (R.MBOX_RETRY_CNT_CNT (mbG m.val) (mbK m.val)) + 1) (2 ^ 32 - 1) ∧ PagesKept [pgMbox (mbG
    m.val), 0x1C, 0x1D, 0x1E, 0x1F, 0x78] s x ∧ DataKept s x) ∧
  (∀ (m : Fin 128) (s : State), (mboxOf s m.val).inFlight → (mboxOf s m.val).sentAt + 1000 * getF s R.MBOX_FAB_RETRY_US ≤
    s.now → (getF s R.FABRIC_STAT_ID_VALID = 0 ∨ getF s (R.MBOX_REMOTE_NODE (mbG m.val) (mbK m.val)) ≠ nodeId s) → getF s
    R.MBOX_FAB_RETRY_LIM ≤ (mboxOf s m.val).sends → Leaves (.mbxRetryTimeout m) s fun x => (mboxOf x m.val).q = (mboxOf s
    m.val).q.drop 1 ∧ getF x (R.MBOX_LOST_CNT_CNT (mbG m.val) (mbK m.val)) = min (getF s (R.MBOX_LOST_CNT_CNT (mbG m.val)
    (mbK m.val)) + 1) (2 ^ 32 - 1) ∧ PagesKept [pgMbox (mbG m.val), 0x1C, 0x1D, 0x1E, 0x1F, 0x78] s x ∧ DataKept s x)

/-- Auto-negotiation of an enabled port that agrees, or its synchronization where there is none, brings the link up: LINK
set, AN_MISMATCH and credits 0, the change counted; a neighbour that differs sets AN_MISMATCH. A link that goes down,
or is reset, shows LINK and USE 0. Either begins a new election where discovery runs, with the next generation. A bad
frame is counted by its kind. CREDIT adds the freed buffers it names to the credits, and a due CREDIT goes out with
the counts here. (13_daber_fabric_and_stations.md (R558, R560, R563, R566-R568, R620-R622)) -/
def Obligations.FabricLinks : Prop :=
  (∀ (p : Fin 4) (s : State), fabricOn s p.val → fLink s p.val = false → getF s (R.FPORT_CTL_AN_EN p.val) = 1 → Leaves
    (.anComplete p true) s fun x => fLink x p.val ∧ getF x (R.FPORT_STAT_AN_MISMATCH p.val) = 0 ∧ fcredit x p.val 0 = 0 ∧
    fcredit x p.val 1 = 0 ∧ getF x (R.FPORT_LINK_CHG_CNT_CNT p.val) = min (getF s (R.FPORT_LINK_CHG_CNT_CNT p.val) + 1) (2 ^
    32 - 1) ∧ (dstate s ≠ 0 → dstate x = 1 ∧ fabGen x = (fabGen s + 1) % 256) ∧ (dstate s = 0 → dstate x = 0) ∧ PagesKept
    [0x1C, 0x1D, 0x1E, 0x1F, 0x20, 0x78] s x ∧ DataKept s x) ∧
  (∀ (p : Fin 4) (s : State), fabricOn s p.val → fLink s p.val = false → getF s (R.FPORT_CTL_AN_EN p.val) = 1 → Leaves
    (.anComplete p false) s fun x => getF x (R.FPORT_STAT_AN_MISMATCH p.val) = 1 ∧ RegsKept [(R.FPORT_STAT_AN_MISMATCH
    p.val).key] s x ∧ DataKept s x) ∧
  (∀ (p : Fin 4) (s : State), fabricOn s p.val → fLink s p.val = false → getF s (R.FPORT_CTL_AN_EN p.val) = 0 → Leaves
    (.syncAcquired p) s fun x => fLink x p.val ∧ getF x (R.FPORT_STAT_AN_MISMATCH p.val) = 0 ∧ fcredit x p.val 0 = 0 ∧
    fcredit x p.val 1 = 0 ∧ getF x (R.FPORT_LINK_CHG_CNT_CNT p.val) = min (getF s (R.FPORT_LINK_CHG_CNT_CNT p.val) + 1) (2 ^
    32 - 1) ∧ (dstate s ≠ 0 → dstate x = 1 ∧ fabGen x = (fabGen s + 1) % 256) ∧ (dstate s = 0 → dstate x = 0) ∧ PagesKept
    [0x1C, 0x1D, 0x1E, 0x1F, 0x20, 0x78] s x ∧ DataKept s x) ∧
  (∀ (p : Fin 4) (s : State), fLink s p.val → Leaves (.fabricLinkDown p) s fun x => fLink x p.val = false ∧ getF x
    (R.FPORT_STAT_USE p.val) = 0 ∧ (dstate s ≠ 0 → dstate x = 1 ∧ fabGen x = (fabGen s + 1) % 256) ∧ PagesKept [0x1C, 0x1D,
    0x1E, 0x1F, 0x20, 0x78] s x ∧ DataKept s x) ∧
  (∀ (path : Path) (p : Fin 4) (v : Word) (s : State), ownCa path (R.FPORT_CTL_LRESET p.val).key → accepted path (0x1C +
    p.val) 0x040 (withField v (R.FPORT_CTL_LRESET p.val).lo 1 1) s → higherReset s = false → fLink s p.val → Leaves
    (.fportLreset path p v) s fun x => fLink x p.val = false ∧ getF x (R.FPORT_STAT_USE p.val) = 0 ∧ (dstate s ≠ 0 → dstate x
    = 1) ∧ DataKept s x) ∧
  (∀ (p : Fin 4) (s : State), fLink s p.val → Leaves (.frameDiscard p .crc) s fun x => getF x (R.FPORT_CRC_ERR_CNT_CNT p.val)
    = min (getF s (R.FPORT_CRC_ERR_CNT_CNT p.val) + 1) (2 ^ 32 - 1) ∧ PagesKept [0x1C, 0x1D, 0x1E, 0x1F, 0x20, 0x78] s x ∧
    DataKept s x) ∧
  (∀ (p : Fin 4) (why : FrameFault) (s : State), fLink s p.val → why ≠ .crc → Leaves (.frameDiscard p why) s fun x => getF x
    (R.FPORT_DROP_FMT_CNT_CNT p.val) = min (getF s (R.FPORT_DROP_FMT_CNT_CNT p.val) + 1) (2 ^ 32 - 1) ∧ PagesKept [0x1C,
    0x1D, 0x1E, 0x1F, 0x20, 0x78] s x ∧ DataKept s x) ∧
  (∀ (p : Fin 4) (f : Frame) (s : State), discAt s p f 7 → (fportOf s p.val).txq = [] → Leaves (.credit p f) s fun x =>
    fcredit x p.val 0 = min (fcredit s p.val 0 + (pfield f 2 1 + 256 - (fportOf s p.val).peer0) % 256) 255 ∧ fcredit x p.val
    1 = min (fcredit s p.val 1 + (pfield f 3 1 + 256 - (fportOf s p.val).peer1) % 256) 255 ∧ PagesKept [0x1C, 0x1D, 0x1E,
    0x1F, 0x20, 0x78] s x ∧ DataKept s x) ∧
  (∀ (p : Fin 4) (s : State), fLink s p.val → (2 ≤ (((fportOf s p.val).freed0 + 256 - (fportOf s p.val).sent0) % 256 +
    ((fportOf s p.val).freed1 + 256 - (fportOf s p.val).sent1) % 256) ∨ (fportOf s p.val).creditAt + 10000 ≤ s.now) → Leaves
    (.creditSend p) s fun x => FrameSent s x p.val (mkFrame s 1 0 0 [7, fabGen s, (fportOf s p.val).freed0, (fportOf s
    p.val).freed1]) ∧ (fportOf x p.val).creditAt = s.now ∧ PagesKept [0x1C, 0x1D, 0x1E, 0x1F, 0x20, 0x78] s x ∧ DataKept s x)

/-- A HELLO of the own generation names the neighbour's UID and port; one of a later generation begins an election with
it; one with BUF outside 2 to 64 sets BUF_ERR. A due HELLO names this hub, its candidate and its distance. An election
stable for 200 us ends: a hub that is not the coordinator goes to REPORT, shows the coordinator's UID and reports its
links to its parent; a coordinator alone completes discovery as node 0. A report goes on towards the coordinator; at
the timeout the coordinator computes its routes as node 0. A ROUTE that names this hub sets its node ID and route
table and completes discovery; the coordinator's is complete with the last ROUTE_ACK, or at the timeout. REDISC begins
a new election. (13_daber_fabric_and_stations.md (R571-R578, R583, R584)) -/
def Obligations.FabricDiscovery : Prop :=
  (∀ (p : Fin 4) (f : Frame) (s : State), discAt s p f 1 → pfield f 1 1 = fabGen s → 2 ≤ pfield f 20 1 → pfield f 20 1 ≤ 64 →
    getF s (R.FPORT_STAT_BUF_ERR p.val) = 0 → Leaves (.hello p f) s fun x => getF x (R.FPORT_PARTNER_UID_LO_UID p.val) =
    pfield f 2 8 % 2 ^ 32 ∧ getF x (R.FPORT_PARTNER_UID_HI_UID p.val) = pfield f 2 8 / 2 ^ 32 ∧ getF x
    (R.FPORT_PARTNER_PORT_PORT p.val) = pfield f 10 1 / 2 % 4 ∧ (fportOf x p.val).heard ∧ (dstate s = 1 → (fportOf x
    p.val).cand = pfield f 11 8 ∧ (fportOf x p.val).dist = pfield f 19 1) ∧ dstate x = dstate s ∧ PagesKept [0x1C, 0x1D,
    0x1E, 0x1F, 0x20, 0x78] s x ∧ DataKept s x) ∧
  (∀ (p : Fin 4) (f : Frame) (s : State), discAt s p f 1 → later 8 (pfield f 1 1) (fabGen s) → dstate s ≠ 0 → getF s
    (R.FPORT_STAT_BUF_ERR p.val) = 0 → Leaves (.hello p f) s fun x => dstate x = 1 ∧ fabGen x = pfield f 1 1 ∧ getF x
    R.FABRIC_LAST_REDISC_TICK_NUM = getF s R.TICK_NUM_NUM ∧ PagesKept [0x1C, 0x1D, 0x1E, 0x1F, 0x20, 0x78] s x ∧ DataKept s
    x) ∧
  (∀ (p : Fin 4) (f : Frame) (s : State), discAt s p f 1 → (pfield f 20 1 < 2 ∨ 64 < pfield f 20 1) → Leaves (.hello p f) s
    fun x => getF x (R.FPORT_STAT_BUF_ERR p.val) = 1 ∧ PagesKept [0x1C, 0x1D, 0x1E, 0x1F, 0x20, 0x78] s x ∧ DataKept s x) ∧
  (∀ (p : Fin 4) (s : State), fLink s p.val → dstate s ≠ 0 → ((fportOf s p.val).helloAt + 1000000 ≤ s.now ∨ (dstate s ≠ 4 ∧
    (fportOf s p.val).helloAt + 10000 ≤ s.now)) → Leaves (.helloSend p) s fun x => FrameSent s x p.val (mkFrame s 1 0 0 ([1,
    fabGen s] ++ natToBytes 8 (ownUid s) ++ [(coordCap s).toNat + 2 * p.val] ++ natToBytes 8 s.fabric.cand ++ [s.fabric.dist,
    8])) ∧ PagesKept [0x1C, 0x1D, 0x1E, 0x1F, 0x20, 0x78] s x ∧ DataKept s x) ∧
  (∀ (s : State), dstate s = 1 → s.fabric.stableAt + 200000 ≤ s.now → s.fabric.dist ≠ 0 → s.fabric.parent < 4 → Leaves
    (.electStable) s fun x => dstate x = 2 ∧ isCoord x = false ∧ getF x R.FABRIC_COORD_UID_LO_UID = s.fabric.cand % 2 ^ 32 ∧
    FrameSent s x s.fabric.parent (datelined s s.fabric.parent (mkFrame s 1 0 (seqTo s 1 0) (linksBytes (fabGen s) (ownLinks
    s)))) ∧ PagesKept [0x1C, 0x1D, 0x1E, 0x1F, 0x20, 0x78] s x ∧ DataKept s x) ∧
  (∀ (s : State), dstate s = 1 → s.fabric.stableAt + 200000 ≤ s.now → s.fabric.dist = 0 → s.fabric.links = [] → upPorts s =
    [] → Leaves (.electStable) s fun x => dstate x = 4 ∧ isCoord x ∧ nodeId x = 0 ∧ getF x R.FABRIC_STAT_ID_VALID = 1 ∧ getF
    x R.FABRIC_TOPO_NODES = 1 ∧ PagesKept [0x1C, 0x1D, 0x1E, 0x1F, 0x20, 0x78, 0x21, 0x25] s x ∧ DataKept s x) ∧
  (∀ (p : Fin 4) (f : Frame) (s : State), discAt s p f 2 → pfield f 1 1 = fabGen s → s.fabric.dist ≠ 0 → s.fabric.parent < 4
    → f.hops ≠ 15 → Leaves (.links p f) s fun x => FrameSent s x s.fabric.parent (datelined s s.fabric.parent
    { f with hops := f.hops + 1 }) ∧ PagesKept [0x1C, 0x1D, 0x1E, 0x1F, 0x20, 0x78] s x ∧ DataKept s x) ∧
  (∀ (s : State), dstate s = 2 → isCoord s → s.fabric.stateAt + 500000 ≤ s.now → Leaves (.reportTimeout) s fun x => (dstate x
    = 3 ∨ dstate x = 4) ∧ nodeId x = 0 ∧ getF x R.FABRIC_STAT_ID_VALID = 1 ∧ PagesKept [0x1C, 0x1D, 0x1E, 0x1F, 0x20, 0x78,
    0x21, 0x25] s x ∧ DataKept s x) ∧
  (∀ (p : Fin 4) (f : Frame) (d : Fin 64) (s : State), discAt s p f 3 → pfield f 1 1 = fabGen s → isCoord s = false → pfield
    f 2 8 = ownUid s → 1 ≤ dstate s → dstate s ≤ 3 → Leaves (.route p f) s fun x => dstate x = 4 ∧ nodeId x = pfield f 10 1 %
    64 ∧ getF x R.FABRIC_STAT_ID_VALID = 1 ∧ getF x (R.FABRIC_ROUTE_PORT d.val) = pfield f (11 + d.val / 2) 1 / 16 ^ (d.val %
    2) % 16 ∧ x.fabric.dateline = pfield f 43 1 % 16 ∧ PagesKept [0x1C, 0x1D, 0x1E, 0x1F, 0x20, 0x78, 0x21, 0x25] s x ∧
    DataKept s x) ∧
  (∀ (p : Fin 4) (f : Frame) (s : State), discAt s p f 4 → pfield f 1 1 = fabGen s → isCoord s → dstate s = 3 → s.fabric.owed
    = [pfield f 2 8] → Leaves (.routeAck p f) s fun x => dstate x = 4 ∧ x.fabric.owed = [] ∧ PagesKept [0x1C, 0x1D, 0x1E,
    0x1F, 0x20, 0x78] s x ∧ DataKept s x) ∧
  (∀ (s : State), dstate s = 3 → isCoord s → s.fabric.stateAt + 500000 ≤ s.now → Leaves (.routeTimeout) s fun x => dstate x =
    4 ∧ PagesKept [0x1C, 0x1D, 0x1E, 0x1F, 0x20, 0x78] s x ∧ DataKept s x) ∧
  (∀ (path : Path) (v : Word) (s : State), ownCa path R.FABRIC_CTL_REDISC.key → accepted path 0x20 0x040 (withField v
    R.FABRIC_CTL_REDISC.lo 1 1) s → v.getLsbD 0 → dstate s ≠ 0 → Leaves (.redisc path v) s fun x => dstate x = 1 ∧ fabGen x =
    (fabGen s + 1) % 256 ∧ x.mbxLast = [] ∧ DataKept s x)

/-- A routed frame for another node goes on by its route with one more hop; with 15 hops it is dropped and counted. ECHO
is answered with the turnaround; the answer to this hub's last ECHO makes DELAY half the mean of the last sixteen
results, rounded up; a due ECHO goes out with the next number. A SYNC EDGE of another period sets PERIOD_MISMATCH; one
whose error reaches a period sets NUM_MISMATCH; the first of this tick in its first half is accepted: FF_ERR shows its
error, the trim follows it, HOLDOVER falls. A SYNC STRETCH of the tick in progress lengthens it, of a later one is
kept, of an earlier one is counted. (13_daber_fabric_and_stations.md (R565, R587-R597)) -/
def Obligations.FramesDelaysAndFirefly : Prop :=
  (∀ (p : Fin 4) (f : Frame) (s : State), fLink s p.val → 2 ≤ f.cls.val → f.cls.val < 6 → f.payload.length ≤ 256 → forHere s
    f = false → f.hops ≠ 15 → Leaves (.frameForward p f) s fun x => Routed s x { f with hops := f.hops + 1 } ∧ PagesKept
    [0x1C, 0x1D, 0x1E, 0x1F, 0x20, 0x78] s x ∧ DataKept s x) ∧
  (∀ (p : Fin 4) (f : Frame) (s : State), fLink s p.val → 2 ≤ f.cls.val → f.cls.val < 6 → f.payload.length ≤ 256 → forHere s
    f = false → f.hops = 15 → Leaves (.frameForward p f) s fun x => getF x (R.FPORT_DROP_HOPS_CNT_CNT p.val) = min (getF s
    (R.FPORT_DROP_HOPS_CNT_CNT p.val) + 1) (2 ^ 32 - 1) ∧ x.outs = s.outs ∧ PagesKept [0x1C, 0x1D, 0x1E, 0x1F, 0x20, 0x78] s
    x ∧ DataKept s x) ∧
  (∀ (p : Fin 4) (f : Frame) (turn : BitVec 32) (s : State), discAt s p f 5 → Leaves (.fabricEcho p f turn) s fun x =>
    FrameSent s x p.val (mkFrame s 1 0 0 ([6, fabGen s, pfield f 2 1] ++ natToBytes 4 turn.toNat)) ∧ PagesKept [0x1C, 0x1D,
    0x1E, 0x1F, 0x20, 0x78] s x ∧ DataKept s x) ∧
  (∀ (p : Fin 4) (f : Frame) (rtt : BitVec 32) (ds : List Nat) (s : State), discAt s p f 6 → pfield f 2 1 = (fportOf s
    p.val).echoNo → ds = ((fportOf s p.val).delays ++ [rtt.toNat - pfield f 3 4]).drop ((fportOf s p.val).delays.length + 1 -
    16) → (ds.sum + 2 * ds.length - 1) / (2 * ds.length) < 65536 → Leaves (.fabricEchoRsp p f rtt) s fun x => getF x
    (R.FPORT_DELAY_NS p.val) = (ds.sum + 2 * ds.length - 1) / (2 * ds.length) ∧ (fportOf x p.val).delays = ds ∧ PagesKept
    [0x1C, 0x1D, 0x1E, 0x1F, 0x20, 0x78] s x ∧ DataKept s x) ∧
  (∀ (p : Fin 4) (s : State), fLink s p.val → (0 < (fportOf s p.val).echoLeft ∨ 1024 ≤ (tickNum s + 2 ^ 32 - (fportOf s
    p.val).echoTick) % 2 ^ 32) → Leaves (.fabricEchoSend p) s fun x => FrameSent s x p.val (mkFrame s 1 0 0 [5, fabGen s,
    ((fportOf s p.val).echoNo + 1) % 256]) ∧ (fportOf x p.val).echoLeft = (fportOf s p.val).echoLeft - 1 ∧ PagesKept [0x1C,
    0x1D, 0x1E, 0x1F, 0x20, 0x78] s x ∧ DataKept s x) ∧
  (∀ (p : Fin 4) (f : Frame) (sub : Fin 10) (turn : BitVec 32) (s : State), fLink s p.val → f.cls = 0 → f.payload.length ≤
    256 → s.fabric.syncUp = p.val → isCoord s = false → pfield f 0 1 = 1 → getF s R.TICK_CTL_FOLLOW = 1 → ownEdges s → pfield
    f 5 3 % 2 ^ 20 ≠ getF s R.TICK_PERIOD_NS10 → Leaves (.syncEdge p f sub turn) s fun x => getF x
    R.FABRIC_FF_STAT_PERIOD_MISMATCH = 1 ∧ x.tick = s.tick ∧ DataKept s x) ∧
  (∀ (p : Fin 4) (f : Frame) (sub : Fin 10) (turn : BitVec 32) (s : State), fLink s p.val → f.cls = 0 → f.payload.length ≤
    256 → s.fabric.syncUp = p.val → isCoord s = false → pfield f 0 1 = 1 → getF s R.TICK_CTL_FOLLOW = 1 → ownEdges s → pfield
    f 5 3 % 2 ^ 20 = getF s R.TICK_PERIOD_NS10 → s.tick.running → ((tickDiff (pfield f 1 4) (tickNum s) * (10 * s.tick.period
    : Nat) + getF s (R.FPORT_DELAY_NS p.val) + pfield f 8 4 - (10 * s.tick.offset + sub.val : Nat)) ≤ -(10 * s.tick.period :
    Nat) ∨ (10 * s.tick.period : Nat) ≤ (tickDiff (pfield f 1 4) (tickNum s) * (10 * s.tick.period : Nat) + getF s
    (R.FPORT_DELAY_NS p.val) + pfield f 8 4 - (10 * s.tick.offset + sub.val : Nat))) → Leaves (.syncEdge p f sub turn) s fun
    x => getF x R.FABRIC_FF_STAT_NUM_MISMATCH = 1 ∧ x.tick = s.tick ∧ DataKept s x) ∧
  (∀ (p : Fin 4) (f : Frame) (sub : Fin 10) (turn : BitVec 32) (s : State), fLink s p.val → f.cls = 0 → f.payload.length ≤
    256 → s.fabric.syncUp = p.val → isCoord s = false → pfield f 0 1 = 1 → getF s R.TICK_CTL_FOLLOW = 1 → ownEdges s → pfield
    f 5 3 % 2 ^ 20 = getF s R.TICK_PERIOD_NS10 → s.tick.running → -(10 * s.tick.period : Nat) < (tickDiff (pfield f 1 4)
    (tickNum s) * (10 * s.tick.period : Nat) + getF s (R.FPORT_DELAY_NS p.val) + pfield f 8 4 - (10 * s.tick.offset + sub.val
    : Nat)) → (tickDiff (pfield f 1 4) (tickNum s) * (10 * s.tick.period : Nat) + getF s (R.FPORT_DELAY_NS p.val) + pfield f
    8 4 - (10 * s.tick.offset + sub.val : Nat)) < (10 * s.tick.period : Nat) → pfield f 1 4 = tickNum s → s.tick.noMark =
    false → s.fabric.accepted = false → 10 * s.tick.offset + sub.val < 5 * s.tick.period → Leaves (.syncEdge p f sub turn) s
    fun x => getF x R.FABRIC_FF_ERR_NS = ofSigned 32 (tickDiff (pfield f 1 4) (tickNum s) * (10 * s.tick.period : Nat) + getF
    s (R.FPORT_DELAY_NS p.val) + pfield f 8 4 - (10 * s.tick.offset + sub.val : Nat)) ∧ getF x R.FABRIC_FF_STAT_HOLDOVER = 0
    ∧ trimOf x = clampTo (-32768) 32767 (trimOf s - 32 * clampTo (-(getF s R.FABRIC_FF_CTL_STEP_MAX : Nat)) (getF s
    R.FABRIC_FF_CTL_STEP_MAX : Nat) (roundTenth (tickDiff (pfield f 1 4) (tickNum s) * (10 * s.tick.period : Nat) + getF s
    (R.FPORT_DELAY_NS p.val) + pfield f 8 4 - (10 * s.tick.offset + sub.val : Nat)))) ∧ x.fabric.accepted ∧ PagesKept [0x1C,
    0x1D, 0x1E, 0x1F, 0x20, 0x78] s x ∧ DataKept s x) ∧
  (∀ (p : Fin 4) (f : Frame) (s : State), fLink s p.val → f.cls = 0 → f.payload.length ≤ 256 → s.fabric.syncUp = p.val →
    isCoord s = false → pfield f 0 1 = 2 → follows s → s.tick.running → tickDiff (pfield f 1 4) (tickNum s) = 0 → Leaves
    (.syncStretch p f) s fun x => x.tick = { s.tick with len := s.tick.len + pfield f 5 3 % 2 ^ 14 } ∧ PagesKept [0x1C, 0x1D,
    0x1E, 0x1F, 0x20, 0x78] s x ∧ DataKept s x) ∧
  (∀ (p : Fin 4) (f : Frame) (s : State), fLink s p.val → f.cls = 0 → f.payload.length ≤ 256 → s.fabric.syncUp = p.val →
    isCoord s = false → pfield f 0 1 = 2 → follows s → s.tick.running → 0 < tickDiff (pfield f 1 4) (tickNum s) → Leaves
    (.syncStretch p f) s fun x => x.fabric.early = some (pfield f 1 4, pfield f 5 3 % 2 ^ 14) ∧ x.tick = s.tick ∧ PagesKept
    [0x1C, 0x1D, 0x1E, 0x1F, 0x20, 0x78] s x ∧ DataKept s x) ∧
  (∀ (p : Fin 4) (f : Frame) (s : State), fLink s p.val → f.cls = 0 → f.payload.length ≤ 256 → s.fabric.syncUp = p.val →
    isCoord s = false → pfield f 0 1 = 2 → follows s → s.tick.running → tickDiff (pfield f 1 4) (tickNum s) < 0 → Leaves
    (.syncStretch p f) s fun x => getF x R.FABRIC_FF_STRETCH_LATE_CNT_CNT = min (getF s R.FABRIC_FF_STRETCH_LATE_CNT_CNT + 1)
    (2 ^ 32 - 1) ∧ x.tick = s.tick ∧ PagesKept [0x1C, 0x1D, 0x1E, 0x1F, 0x20, 0x78] s x ∧ DataKept s x)

/-- The first STN_IN of an entry for the tick in progress before the cut-off is accepted: LAST_SAMPLE shows the tick, and
a connecting or dropped entry is returning with RECONNECT_TICK. One for another tick counts STEP_ERR_CNT; one after
the cut-off is late and counted in LATE_IN_CNT. A BIND without its answer for 1 ms goes out again; after sixteen
BIND_FAIL is raised. BIND_ACK of the entry's node sets BOUND. Enabling an entry that is not usable leaves it off and
sets CFG_ERR; one that is usable and not in use connects. STATION.CTL.EN and QUAL_HA check the quality line.
(13_daber_fabric_and_stations.md (R602-R610)) -/
def Obligations.Stations : Prop :=
  (∀ (p : Fin 4) (f : Frame) (e : Nat) (s : State), frameOkAt s p f 3 → forHere s f → stationOn s → ((entries.find? fun e =>
    stnState s e != 0 && entryNode s e == some f.src.toNat) = some e) → pfield f 0 4 = tickNum s → (stnOf s e).got = false →
    s.tick.running → s.tick.offset ≤ s.tick.cutoff + s.tick.stretch → s.tick.cutDone = false → Leaves (.stnIn p f) s fun x =>
    (stnOf x e).got ∧ getF x (R.STATION_LAST_SAMPLE_NUM e) = tickNum s ∧ (stnState s e = 1 ∨ stnState s e = 4 → stnState x e
    = 2 ∧ getF x (R.STATION_RECONNECT_TICK_NUM e) = tickNum s)) ∧
  (∀ (p : Fin 4) (f : Frame) (e : Nat) (s : State), frameOkAt s p f 3 → forHere s f → stationOn s → ((entries.find? fun e =>
    stnState s e != 0 && entryNode s e == some f.src.toNat) = some e) → (pfield f 0 4 ≠ tickNum s ∨ s.tick.running = false) →
    Leaves (.stnIn p f) s fun x => x.stns = s.stns ∧ getF x (R.STATION_STEP_ERR_CNT_CNT e) = min (getF s
    (R.STATION_STEP_ERR_CNT_CNT e) + 1) (2 ^ 32 - 1) ∧ PagesKept [0x1C, 0x1D, 0x1E, 0x1F, 0x20, 0x78, 0x21, 0x25] s x ∧
    DataKept s x) ∧
  (∀ (p : Fin 4) (f : Frame) (e : Nat) (s : State), frameOkAt s p f 3 → forHere s f → stationOn s → ((entries.find? fun e =>
    stnState s e != 0 && entryNode s e == some f.src.toNat) = some e) → pfield f 0 4 = tickNum s → s.tick.running → (stnOf s
    e).got = false → ((s.tick.cutoff + s.tick.stretch < s.tick.offset ∧ stretchOpen s = false) ∨ s.tick.cutDone) → Leaves
    (.stnIn p f) s fun x => stnOf x e = { stnOf s e with late := true, missed := false } ∧ ((stnOf s e).missed → getF x
    (R.STATION_LATE_CNT_CNT e) = min (getF s (R.STATION_LATE_CNT_CNT e) + 1) (2 ^ 32 - 1)) ∧ getF x R.COMMIT_LATE_IN_CNT_CNT
    = min (getF s R.COMMIT_LATE_IN_CNT_CNT + 1) (2 ^ 32 - 1) ∧ PagesKept [0x1C, 0x1D, 0x1E, 0x1F, 0x20, 0x78, 0x21, 0x25,
    0x70] s x ∧ DataKept s x) ∧
  (∀ (e : Fin 48) (d : Nat) (s : State), (stnOf s e.val).waiting → getF s (R.STATION_ENTRY_CTL_EN e.val) = 1 → (stnOf s
    e.val).bindAt + 1000000 ≤ s.now → (stnOf s e.val).sends ≠ 16 → entryNode s e.val = some d → reachable s d → Leaves
    (.bindSend e) s fun x => stnOf x e.val =
    { stnOf s e.val with sends := (stnOf s e.val).sends + 1, bindAt := s.now, waiting := true } ∧ Routed s x (mkFrame s 5 d
    (seqTo s 5 d) [1, nodeId s, getF s (R.STATION_ENTRY_CTL_IN_LEN e.val), getF s (R.STATION_ENTRY_CTL_OUT_LEN e.val), getF s
    (R.STATION_ENTRY_OUT_TMO_N e.val)]) ∧ PagesKept [0x1C, 0x1D, 0x1E, 0x1F, 0x20, 0x78] s x ∧ DataKept s x) ∧
  (∀ (e : Fin 48) (s : State), (stnOf s e.val).waiting → getF s (R.STATION_ENTRY_CTL_EN e.val) = 1 → (stnOf s e.val).bindAt +
    1000000 ≤ s.now → (stnOf s e.val).sends = 16 → Leaves (.bindSend e) s fun x => ((stnOf x e.val).sends = (if (entryNode s
    e.val).any (reachable s) then 18 else 17)) ∧ (getReg x.regs (regKey 0x21 offIrqRaw)).getLsbD 4 ∧ DataKept s x) ∧
  (∀ (p : Fin 4) (f : Frame) (e : Fin 48) (s : State), frameOkAt s p f 5 → forHere s f → pfield f 0 1 = 2 → (stnOf s
    e.val).waiting → entryNode s e.val = some f.src.toNat → Leaves (.bindAck p f) s fun x => (stnOf x e.val).waiting = false
    ∧ getF x (R.STATION_STATUS_BOUND e.val) = 1 ∧ PagesKept [0x1C, 0x1D, 0x1E, 0x1F, 0x20, 0x78, 0x21, 0x25] s x ∧ DataKept s
    x) ∧
  (∀ (path : Path) (e : Fin 48) (v : Word) (s : State), ownCa path (R.STATION_ENTRY_CTL_EN e.val).key → accepted path 0x21
    (R.STATION_ENTRY_CTL_EN e.val).off (withField v (R.STATION_ENTRY_CTL_EN e.val).lo 1 1) s → entryUsable
    ({ s with regs := setReg s.regs (R.STATION_ENTRY_CTL_EN e.val).key (writeResult path s 0x21 (R.STATION_ENTRY_CTL_EN e.val).off (withField v (R.STATION_ENTRY_CTL_EN e.val).lo 1 1)).1 })
    e.val = false → Leaves (.stationEntryEnable path e v) s fun x => stnState x e.val = 0 ∧ getF x R.STATION_STAT_CFG_ERR = 1
    ∧ getF x (R.STATION_ENTRY_CTL_EN e.val) = 1 ∧ DataKept s x) ∧
  (∀ (path : Path) (e : Fin 48) (v : Word) (s : State), ownCa path (R.STATION_ENTRY_CTL_EN e.val).key → accepted path 0x21
    (R.STATION_ENTRY_CTL_EN e.val).off (withField v (R.STATION_ENTRY_CTL_EN e.val).lo 1 1) s → entryUsable
    ({ s with regs := setReg s.regs (R.STATION_ENTRY_CTL_EN e.val).key (writeResult path s 0x21 (R.STATION_ENTRY_CTL_EN e.val).off (withField v (R.STATION_ENTRY_CTL_EN e.val).lo 1 1)).1 })
    e.val → Leaves (.stationEntryEnable path e v) s fun x => (stnState x e.val = (if stnState s e.val = 0 then 1 else
    stnState s e.val)) ∧ getF x (R.STATION_ENTRY_CTL_EN e.val) = 1 ∧ DataKept s x) ∧
  (∀ (path : Path) (v : Word) (s : State), ownCa path R.STATION_QUAL_HA_LINE.key → accepted path 0x21
    R.STATION_QUAL_HA_LINE.off v s → getF s R.STATION_CTL_EN = 1 → fvHolds s ((fieldOf v 0 24) * 64) 64 false = false →
    Leaves (.stationEnable path true v) s fun x => x.qualOk = false ∧ getF x R.STATION_STAT_CFG_ERR = 1 ∧ DataKept s x) ∧
  (∀ (path : Path) (v : Word) (s : State), ownCa path R.STATION_QUAL_HA_LINE.key → accepted path 0x21
    R.STATION_QUAL_HA_LINE.off v s → getF s R.STATION_CTL_EN = 1 → fvHolds s ((fieldOf v 0 24) * 64) 64 false → Leaves
    (.stationEnable path true v) s fun x => x.qualOk ∧ getF x R.STATION_STAT_CFG_ERR = getF s R.STATION_STAT_CFG_ERR ∧
    DataKept s x) ∧
  (∀ (path : Path) (v : Word) (s : State), ownCa path R.STATION_CTL_EN.key → accepted path 0x21 R.STATION_CTL_EN.off
    (withField v R.STATION_CTL_EN.lo 1 1) s → fvHolds s ((getF s R.STATION_QUAL_HA_LINE) * 64) 64 false = false → Leaves
    (.stationEnable path false v) s fun x => x.qualOk = false ∧ getF x R.STATION_STAT_CFG_ERR = 1 ∧ DataKept s x) ∧
  (∀ (path : Path) (v : Word) (s : State), ownCa path R.STATION_CTL_EN.key → accepted path 0x21 R.STATION_CTL_EN.off
    (withField v R.STATION_CTL_EN.lo 1 1) s → fvHolds s ((getF s R.STATION_QUAL_HA_LINE) * 64) 64 false → Leaves
    (.stationEnable path false v) s fun x => x.qualOk ∧ getF x R.STATION_STAT_CFG_ERR = getF s R.STATION_STAT_CFG_ERR ∧
    DataKept s x)

/-- A write of 1 to ERR_CAP0.VALID clears the page's capture. A write of IRQ_STAT clears the written bits that the page
defines in IRQ_STAT and IRQ_RAW, of IRQ_EN sets them, and of IRQ_FORCE raises each written one: IRQ_RAW, and IRQ_STAT
where enabled. PAGE_CTL.FREEZE takes the snapshot of the page's registers and ends it; LOCK is set; EN writes its
target where the page has one, and nothing where it has none. An alert response answers the address and releases
SMBALERT#. Nothing else changes but the path's status. (17_register_conventions_and_map.md (R786-R791),
15_failure_containment.md (R700, R701, R704)) -/
def Obligations.PageHeader : Prop :=
  (∀ (path : Path) (page : Fin 256) (v : Word) (s : State), ownCa path (regKey page.val 0x020) → (pageInfo page.val).isSome →
    bareHeader page.val = false → served path page.val s → Leaves (.cfgErrClear path page v) s fun x => getReg x.regs (regKey
    page.val 0x020) = 0 ∧ getReg x.regs (regKey page.val 0x024) = 0 ∧ getReg x.regs (regKey page.val 0x028) = 0 ∧ getReg
    x.regs (regKey page.val 0x02C) = 0 ∧ RegsKept [regKey page.val 0x020, regKey page.val 0x024, regKey page.val 0x028,
    regKey page.val 0x02C, R.GLOBAL_SVC_STAT_REFUSED.key, R.PAIR_MIRROR_PEND_N.key] s x ∧ DataKept s x) ∧
  (∀ (path : Path) (page : Fin 256) (v : Word) (s : State), ownCa path (regKey page.val 0x018) → (pageInfo page.val).isSome →
    bareHeader page.val = false → served path page.val s → Leaves (.irqStatClear path page v) s fun x => getReg x.regs
    (regKey page.val 0x018) = getReg s.regs (regKey page.val 0x018) &&& ~~~(v &&& (BitVec.ofNat 32 (irqMask page.val))) ∧
    getReg x.regs (regKey page.val 0x010) = getReg s.regs (regKey page.val 0x010) &&& ~~~(v &&& (BitVec.ofNat 32 (irqMask
    page.val))) ∧ RegsKept [regKey page.val 0x018, regKey page.val 0x010, R.GLOBAL_SVC_STAT_REFUSED.key,
    R.PAIR_MIRROR_PEND_N.key] s x ∧ DataKept s x) ∧
  (∀ (path : Path) (page : Fin 256) (v : Word) (b : Fin 32) (s : State), ownCa path (regKey page.val 0x01C) → (pageInfo
    page.val).isSome → bareHeader page.val = false → served path page.val s → (irqMask page.val).testBit b.val → v.getLsbD
    b.val → Leaves (.irqForce path page v) s fun x => (getReg x.regs (regKey page.val 0x010)).getLsbD b.val ∧ ((getReg s.regs
    (regKey page.val 0x014)).getLsbD b.val = true → (getReg x.regs (regKey page.val 0x018)).getLsbD b.val = true) ∧ RegsKept
    [regKey page.val 0x018, regKey page.val 0x010, R.GLOBAL_SVC_STAT_REFUSED.key, R.PAIR_MIRROR_PEND_N.key] s x ∧ DataKept s
    x) ∧
  (∀ (path : Path) (page : Fin 256) (v : Word) (s : State), ownCa path (regKey page.val 0x014) → (pageInfo page.val).isSome →
    bareHeader page.val = false → served path page.val s → Leaves (.irqEnWrite path page v) s fun x => getReg x.regs (regKey
    page.val 0x014) = v &&& (BitVec.ofNat 32 (irqMask page.val)) ∧ RegsKept [regKey page.val 0x014,
    R.GLOBAL_SVC_STAT_REFUSED.key, R.PAIR_MIRROR_PEND_N.key] s x ∧ DataKept s x) ∧
  (∀ (path : Path) (page : Fin 256) (v : Word) (k : Nat) (s : State), ownCa path (regKey page.val 0x004) → (pageInfo
    page.val).isSome → served path page.val s → stage s ≠ 0 → (pageInfo page.val).bind (·.2.2) = none → v.getLsbD 1 →
    v.getLsbD 2 = false → k / 4096 = page.val → k ≠ R.GLOBAL_SVC_STAT_REFUSED.key → (s.regs.Pairwise (fun a b => a.1 < b.1))
    → Leaves (.freeze path page v) s fun x => getF x (pageFreeze page.val) = 1 ∧ kvGet regDflt x.snaps k = getReg x.regs k ∧
    RegsKept [regKey page.val 0x004, R.GLOBAL_SVC_STAT_REFUSED.key, R.PAIR_MIRROR_PEND_N.key] s x ∧ DataKept s x) ∧
  (∀ (path : Path) (page : Fin 256) (v : Word) (s : State), ownCa path (regKey page.val 0x004) → (pageInfo page.val).isSome →
    served path page.val s → stage s ≠ 0 → (pageInfo page.val).bind (·.2.2) = none → v.getLsbD 1 = false → v.getLsbD 2 =
    false → getF s (pageFreeze page.val) = 1 → Leaves (.freeze path page v) s fun x => getF x (pageFreeze page.val) = 0 ∧ (∀
    e ∈ x.snaps, e.1 / 4096 ≠ page.val) ∧ RegsKept [regKey page.val 0x004, R.GLOBAL_SVC_STAT_REFUSED.key,
    R.PAIR_MIRROR_PEND_N.key] s x ∧ DataKept s x) ∧
  (∀ (path : Path) (page : Fin 256) (v : Word) (s : State), ownCa path (regKey page.val 0x004) → (pageInfo page.val).isSome →
    served path page.val s → stage s ≠ 0 → (pageInfo page.val).bind (·.2.2) = none → v.getLsbD 1 = false → getF s (pageFreeze
    page.val) = 0 → Leaves (.lock path page v) s fun x => getF x (pageLock page.val) = 1 ∧ RegsKept [regKey page.val 0x004,
    R.GLOBAL_SVC_STAT_REFUSED.key, R.PAIR_MIRROR_PEND_N.key] s x ∧ DataKept s x) ∧
  (∀ (path : Path) (page : Fin 256) (v : Word) (en : Fld) (s : State), ownCa path (regKey page.val 0x004) → (pageInfo
    page.val).isSome → served path page.val s → stage s ≠ 0 → (pageInfo page.val).bind (·.2.2) = some en → quietReg en.page
    en.off → accepted path en.page en.off (withField (getReg s.regs en.key) en.lo en.w (fieldOf v 0 1)) s → v.getLsbD 1 =
    false → v.getLsbD 2 = false → getF s (pageFreeze page.val) = 0 → Leaves (.pageCtlEn path page v) s fun x => getF x en =
    fieldOf v 0 1 ∧ RegsKept [en.key, R.GLOBAL_SVC_STAT_REFUSED.key, R.PAIR_MIRROR_PEND_N.key] s x ∧ DataKept s x) ∧
  (∀ (path : Path) (page : Fin 256) (v : Word) (s : State), ownCa path (regKey page.val 0x004) → (pageInfo page.val).isSome →
    served path page.val s → stage s ≠ 0 → (pageInfo page.val).bind (·.2.2) = none → v.getLsbD 1 = false → v.getLsbD 2 =
    false → getF s (pageFreeze page.val) = 0 → Leaves (.pageCtlEn path page v) s fun x => RegsKept
    [R.GLOBAL_SVC_STAT_REFUSED.key, R.PAIR_MIRROR_PEND_N.key] s x ∧ DataKept s x) ∧
  (∀ (s : State), pathOk .i2c s → s.alertLow → EndsIn (.alertResponse) s
    ({ s with outs := s.outs ++ [.alertAddr (0x58 + s.pins.saddr)], alertAcked := true }))

/-- A write of a counter's selection sets it and clears the counter. PEEK on a free engine and a backed address is busy
with it; on an address without memory, or while one runs, it shows ERR and nothing else starts; at its end BUSY falls,
DONE rises and PEEK_DATA shows the stored bytes. A write of TRACE_CTL clears the trace. Where alias pages are on, a
write of one acts on the register that R798 gives; at a removed one it changes no register but the page's capture,
which holds F5; a read there answers 0 for a removed register and the register's value for one that is there.
(18_register_index.md (R807-R817), 17_register_conventions_and_map.md (R797-R799)) -/
def Obligations.CountersDebugAndOldAddresses : Prop :=
  (∀ (path : Path) (k : Fin 8) (v : Word) (s : State), ownCa path (R.LEDGER_PERF_SEL_EVENT k.val).key → accepted path 0x78
    (R.LEDGER_PERF_SEL_EVENT k.val).off v s → Leaves (.perfSelWrite path k v) s fun x => getReg x.regs
    (R.LEDGER_PERF_SEL_EVENT k.val).key = (writeResult path s 0x78 (R.LEDGER_PERF_SEL_EVENT k.val).off v).1 ∧ getReg x.regs
    ((R.LEDGER_PERF_SEL_EVENT k.val).key + 4) = 0 ∧ RegsKept [(R.LEDGER_PERF_SEL_EVENT k.val).key, (R.LEDGER_PERF_SEL_EVENT
    k.val).key + 4, R.GLOBAL_SVC_STAT_REFUSED.key, R.PAIR_MIRROR_PEND_N.key] s x ∧ DataKept s x) ∧
  (∀ (path : Path) (v : Word) (s : State), ownCa path R.DEBUG_PEEK_CTL_GO.key → accepted path 0xF0 0x044 (withField v
    R.DEBUG_PEEK_CTL_GO.lo 1 1) s → getF s R.GLOBAL_SVC_CTL_DBG_EN = 1 → v.toNat % 4 ≠ 3 → s.svc.peek = none → (v.toNat % 4 =
    0 → backedSa (getF s R.DEBUG_PEEK_ADDR_ADDR * 16)) → Leaves (.peek path v) s fun x => x.svc =
    { s.svc with peek := some (v.toNat % 4, v.toNat / 16 % 4, getF s R.DEBUG_PEEK_ADDR_ADDR) } ∧ getF x
    R.DEBUG_PEEK_STAT_BUSY = 1 ∧ getF x R.DEBUG_PEEK_STAT_ERR = 0 ∧ DataKept s x) ∧
  (∀ (path : Path) (v : Word) (s : State), ownCa path R.DEBUG_PEEK_CTL_GO.key → accepted path 0xF0 0x044 (withField v
    R.DEBUG_PEEK_CTL_GO.lo 1 1) s → getF s R.GLOBAL_SVC_CTL_DBG_EN = 1 → v.toNat % 4 ≠ 3 → (s.svc.peek.isSome ∨ (v.toNat % 4
    = 0 ∧ backedSa (getF s R.DEBUG_PEEK_ADDR_ADDR * 16) = false)) → Leaves (.peek path v) s fun x => x.svc = s.svc ∧ getF x
    R.DEBUG_PEEK_STAT_ERR = 1 ∧ DataKept s x) ∧
  (∀ (i : Fin 4) (word a : Nat) (s : State), s.svc.peek = some (0, word, a) → Leaves (.peekDone) s fun x => (getF x
    (R.DEBUG_PEEK_DATA_DATA i.val) = bytesToNat ((List.range 4).map fun j => (memByte s (16 * a + (4 * i.val + j))).toNat %
    256)) ∧ getF x R.DEBUG_PEEK_STAT_BUSY = 0 ∧ getF x R.DEBUG_PEEK_STAT_DONE = 1 ∧ x.svc.peek = none ∧ DataKept s x) ∧
  (∀ (s : State), s.svc.peek = none → EndsIn (.peekDone) s (s)) ∧
  (∀ (path : Path) (i : Fin 64) (v : Word) (s : State), ownCa path R.DEBUG_TRACE_CTL_EN.key → accepted path 0xF0 0x080 v s →
    getF s R.GLOBAL_SVC_CTL_DBG_EN = 1 → Leaves (.traceCtlWrite path v) s fun x => getF x (R.DEBUG_TRACE_VALID i.val) = 0 ∧
    getF x R.DEBUG_TRACE_WP_WP = 0 ∧ getF x R.DEBUG_TRACE_CTL_EN = fieldOf v R.DEBUG_TRACE_CTL_EN.lo 1 ∧ DataKept s x) ∧
  (∀ (path : Path) (ca : BitVec 24) (pg off : Nat) (v : Word) (s : State), ownCa path ca.toNat → served path (caPage
    ca.toNat) s → aliasPage s (caPage ca.toNat) → aliasTarget s (caPage ca.toNat) (caOff ca.toNat) = .reg pg off → accepted
    path pg off v s → (quietReg pg off ∨ (8 ≤ pg ∧ pg < 0x18 ∧ off = (R.APORT_TEN_MASK_T 0).off)) → Leaves (.aliasAccess path
    ca (some v)) s fun x => getReg x.regs (regKey pg off) = (writeResult path s pg off v).1 ∧ RegsKept [regKey pg off,
    R.GLOBAL_SVC_STAT_REFUSED.key, R.PAIR_MIRROR_PEND_N.key] s x ∧ DataKept s x) ∧
  (∀ (path : Path) (ca : BitVec 24) (v : Word) (s : State), ownCa path ca.toNat → served path (caPage ca.toNat) s → aliasPage
    s (caPage ca.toNat) → aliasTarget s (caPage ca.toNat) (caOff ca.toNat) = .removed → getF s (capValid (caPage ca.toNat)) =
    0 → Leaves (.aliasAccess path ca (some v)) s fun x => getF x (capCode (caPage ca.toNat)) = 0xF5 ∧ getF x (capValid
    (caPage ca.toNat)) = 1 ∧ PagesKept [0x00, caPage ca.toNat] s x ∧ DataKept s x) ∧
  (∀ (path : Path) (ca : BitVec 24) (s : State), ownCa path ca.toNat → reads path s → aliasPage s (caPage ca.toNat) →
    aliasTarget s (caPage ca.toNat) (caOff ca.toNat) = .removed → pathNo path < 19 → EndsIn (.aliasAccess path ca none) s
    ({ s with outs := s.outs ++ [.word (pathNo path) 0] })) ∧
  (∀ (path : Path) (ca : BitVec 24) (pg off : Nat) (s : State), ownCa path ca.toNat → reads path s → aliasPage s (caPage
    ca.toNat) → aliasTarget s (caPage ca.toNat) (caOff ca.toNat) = .reg pg off → pathNo path < 19 → quietReg pg off → EndsIn
    (.aliasAccess path ca none) s
    ({ s with outs := s.outs ++ [.word (pathNo path) (frozenWord s pg off (viewReg s pg off))] }))

/-- A burst of a privileged tenant that stays in one page is performed: CfgRd answers CfgRsp with the registers of the
burst, CfgWr of one register writes it as any path does and answers 0, or 1 where a field is refused. A tenant without
CFG_PRIV is refused NO_PRIV as a security event, a misaligned burst or one beyond its page MSG_FIELD; neither changes
a register of the burst. A burst for the partner's registers goes out on the pair link.
(17_register_conventions_and_map.md (R774-R776), 03_addresses_regions_tenants.md (R133), 12_pair_operation.md (R545)) -/
def Obligations.AgentConfiguration : Prop :=
  (∀ (h : Hdr) (p : Fin 16) (ca : BitVec 24) (s : State), msgReady s h p [] 0 → burstCodes s h.tenant.val ca.toNat (1) = [] →
    caHub ca.toNat = 0 → quietReg (caPage ca.toNat) (caOff ca.toNat) → Leaves (.cfgRd h ca 0) s fun x => Answered s x p.val
    ⟨0x49, h.tag.val, h.tenant.val, agentOf s p.val, 0, 0, 0, [burstQuad [frozenWord s (caPage ca.toNat) (caOff ca.toNat)
    (viewReg s (caPage ca.toNat) (caOff ca.toNat))]]⟩ ∧ PagesKept [0x78, 0xF0] s x ∧ DataKept s x) ∧
  (∀ (h : Hdr) (p : Fin 16) (ca : BitVec 24) (nreg : Fin 4) (s : State), msgReady s h p [] 0 → burstCodes s h.tenant.val
    ca.toNat (nreg.val + 1) = [] → caHub ca.toNat = 0 → Leaves (.cfgRd h ca nreg) s fun x => (∃ ws, ws.length = nreg.val + 1
    ∧ Answered s x p.val ⟨0x49, h.tag.val, h.tenant.val, agentOf s p.val, 0, 0, 0, [burstQuad ws]⟩)) ∧
  (∀ (h : Hdr) (p : Fin 16) (ca : BitVec 24) (nreg : Fin 4) (s : State), msgReady s h p [] 0 → burstCodes s h.tenant.val
    ca.toNat (nreg.val + 1) = [] → caHub ca.toNat = 1 → hasPartner s → Leaves (.cfgRd h ca nreg) s fun x => ToldPartner s x
    (.msgOp (agentOf s p.val) h.tag.val h.tenant.val (getF s (R.TENANT_STAT_EPOCH h.tenant.val)) 0x40 (ca.toNat % 2 ^ 21 +
    nreg.val * 2 ^ 24) []) ∧ PagesKept [0xF0] s x ∧ DataKept s x) ∧
  (∀ (h : Hdr) (p : Fin 16) (ca : BitVec 24) (fs : List DFlit) (s : State), msgReady s h p fs 1 → burstCodes s h.tenant.val
    ca.toNat (1) = [] → caHub ca.toNat = 0 → quietReg (caPage ca.toNat) (caOff ca.toNat) → accepted (.msg p) (caPage
    ca.toNat) (caOff ca.toNat) (BitVec.ofNat 32 ((quadsOf fs).headD Quad.zero).bits.toNat) s → Leaves (.cfgWr h ca 0 fs) s
    fun x => Answered s x p.val ⟨0x49, h.tag.val, h.tenant.val, agentOf s p.val, 0, 0, 0, []⟩ ∧ getReg x.regs (regKey (caPage
    ca.toNat) (caOff ca.toNat)) = (writeResult (.msg p) s (caPage ca.toNat) (caOff ca.toNat) (BitVec.ofNat 32 ((quadsOf
    fs).headD Quad.zero).bits.toNat)).1 ∧ x.tick = s.tick ∧ DataKept s x) ∧
  (∀ (h : Hdr) (p : Fin 16) (ca : BitVec 24) (fs : List DFlit) (s : State), msgReady s h p fs 1 → burstCodes s h.tenant.val
    ca.toNat (1) = [] → caHub ca.toNat = 0 → quietReg (caPage ca.toNat) (caOff ca.toNat) → served (.msg p) (caPage ca.toNat)
    s → (writeResult (.msg p) s (caPage ca.toNat) (caOff ca.toNat) (BitVec.ofNat 32 ((quadsOf fs).headD
    Quad.zero).bits.toNat)).2 ≠ [] → Leaves (.cfgWr h ca 0 fs) s fun x => Answered s x p.val ⟨0x49, h.tag.val, h.tenant.val,
    agentOf s p.val, 0, 1, 0, []⟩ ∧ DataKept s x) ∧
  (∀ (h : Hdr) (p : Fin 16) (ca : BitVec 24) (nreg : Fin 4) (s : State), msgReady s h p [] 0 → burstCodes s h.tenant.val
    ca.toNat (nreg.val + 1) = [0x07] → Leaves (.cfgRd h ca nreg) s fun x => Answered s x p.val ⟨0x37, h.tag.val,
    h.tenant.val, agentOf s p.val, 0, 0x07, 0, []⟩ ∧ getF x R.GLOBAL_SEC_CNT_CNT = min (getF s R.GLOBAL_SEC_CNT_CNT + 1) (2 ^
    32 - 1) ∧ getF x R.GLOBAL_SEC_LAST_KIND = 3 ∧ PagesKept [0x00, 0xF0] s x ∧ DataKept s x) ∧
  (∀ (h : Hdr) (p : Fin 16) (ca : BitVec 24) (nreg : Fin 4) (s : State), msgReady s h p [] 0 → burstCodes s h.tenant.val
    ca.toNat (nreg.val + 1) = [0x34] → Leaves (.cfgRd h ca nreg) s fun x => Answered s x p.val ⟨0x37, h.tag.val,
    h.tenant.val, agentOf s p.val, 0, 0x34, 0, []⟩ ∧ PagesKept [0xF0] s x ∧ DataKept s x) ∧
  (∀ (h : Hdr) (p : Fin 16) (ca : BitVec 24) (nreg : Fin 4) (fs : List DFlit) (s : State), msgReady s h p fs 1 → burstCodes s
    h.tenant.val ca.toNat (nreg.val + 1) = [0x07] → Leaves (.cfgWr h ca nreg fs) s fun x => Answered s x p.val ⟨0x37,
    h.tag.val, h.tenant.val, agentOf s p.val, 0, 0x07, 0, []⟩ ∧ getF x R.GLOBAL_SEC_CNT_CNT = min (getF s
    R.GLOBAL_SEC_CNT_CNT + 1) (2 ^ 32 - 1) ∧ getF x R.GLOBAL_SEC_LAST_KIND = 3 ∧ PagesKept [0x00, 0xF0] s x ∧ DataKept s x) ∧
  (∀ (h : Hdr) (p : Fin 16) (ca : BitVec 24) (nreg : Fin 4) (fs : List DFlit) (s : State), msgReady s h p fs 1 → burstCodes s
    h.tenant.val ca.toNat (nreg.val + 1) = [0x34] → Leaves (.cfgWr h ca nreg fs) s fun x => Answered s x p.val ⟨0x37,
    h.tag.val, h.tenant.val, agentOf s p.val, 0, 0x34, 0, []⟩ ∧ PagesKept [0xF0] s x ∧ DataKept s x) ∧
  (∀ (h : Hdr) (a : Fin 32) (ca : BitVec 24) (nreg : Fin 4) (s : State), h.src = .partner a → pairRoom s 5 0 → hasPartner s →
    caHub ca.toNat = 0 → Leaves (.cfgRd h ca nreg) s fun x => (∃ ws, ws.length = nreg.val + 1 ∧ ToldPartner s x (.answer
    a.val ⟨0x49, h.tag.val, h.tenant.val, a.val, 0, 0, 0, [burstQuad ws]⟩)))

/-- READ of registers here answers the marker and four bytes for each word asked for, a single word high byte first;
unaligned it answers zeros and sets ALIGN_ERR. WRITE of one whole word writes the register as any path does; unaligned
it sets ALIGN_ERR and writes nothing. SPI_STATUS answers the posted state and the status bits. A reserved command
holds the output at 0xFF until chip select rises. A partner's answer to a posted write frees its slot.
(17_register_conventions_and_map.md (R777-R780, R785)) -/
def Obligations.ServicePortSpi : Prop :=
  (∀ (addr : BitVec 24) (count : BitVec 8) (remote : List Word) (s : State), pathOk .spi s → addr.toNat % 4 = 0 → addr.toNat
    < 0x100000 → Leaves (.read addr count remote) s fun x => (∃ bs, bs.length = 4 * (count.toNat % 4 + 1) ∧ x.outs = s.outs
    ++ [.spi (0xA5 :: bs)])) ∧
  (∀ (addr : BitVec 24) (count : BitVec 8) (remote : List Word) (s : State), pathOk .spi s → count.toNat % 4 = 0 → addr.toNat
    < 0x100000 → quietReg (caPage addr.toNat) (caOff addr.toNat) → addr.toNat % 4 = 0 → EndsIn (.read addr count remote) s
    ({ s with svc := { s.svc with driveFF := false }, outs := s.outs ++ [.spi (0xA5 :: wordBytes (frozenWord s (caPage addr.toNat) (caOff addr.toNat) (viewReg s (caPage addr.toNat) (caOff addr.toNat))))] })) ∧
  (∀ (addr : BitVec 24) (count : BitVec 8) (remote : List Word) (s : State), pathOk .spi s → addr.toNat % 4 ≠ 0 → Leaves
    (.read addr count remote) s fun x => x.outs = s.outs ++ [.spi (0xA5 :: List.replicate (4 * (count.toNat % 4 + 1)) 0)] ∧
    getF x R.GLOBAL_SVC_STAT_ALIGN_ERR = 1 ∧ RegsKept [R.GLOBAL_SVC_STAT_ALIGN_ERR.key] s x ∧ DataKept s x) ∧
  (∀ (addr : BitVec 24) (bytes : List Byte) (v : Word) (s : State), pathOk .spi s → bytes.length = 4 → dataWords bytes = [v]
    → ownCa .spi addr.toNat → quietReg (caPage addr.toNat) (caOff addr.toNat) → accepted .spi (caPage addr.toNat) (caOff
    addr.toNat) v s → Leaves (.write addr bytes) s fun x => getReg x.regs (regKey (caPage addr.toNat) (caOff addr.toNat)) =
    (writeResult .spi s (caPage addr.toNat) (caOff addr.toNat) v).1 ∧ RegsKept [regKey (caPage addr.toNat) (caOff
    addr.toNat), R.GLOBAL_SVC_STAT_REFUSED.key, R.PAIR_MIRROR_PEND_N.key] s x ∧ DataKept s x) ∧
  (∀ (addr : BitVec 24) (bytes : List Byte) (s : State), pathOk .spi s → addr.toNat % 4 ≠ 0 → 4 ≤ bytes.length → Leaves
    (.write addr bytes) s fun x => getF x R.GLOBAL_SVC_STAT_ALIGN_ERR = 1 ∧ RegsKept [R.GLOBAL_SVC_STAT_ALIGN_ERR.key] s x ∧
    DataKept s x) ∧
  (∀ (s : State), pathOk .spi s → EndsIn (.spiStatus) s
    ({ s with svc := { s.svc with driveFF := false }, outs := s.outs ++ [.spi [(decide (0 < s.svc.posted)).toNat + getF s R.GLOBAL_SVC_STAT_SPI_OVR * 2 + getF s R.GLOBAL_SVC_STAT_PARTNER_ERR * 4 + s.svc.spiRefused.toNat * 8 + getF s R.GLOBAL_SVC_STAT_ALIGN_ERR * 16]] })) ∧
  (∀ (cmd : Byte) (s : State), pathOk .spi s → cmd ≠ 0x0B → cmd ≠ 0x02 → cmd ≠ 0x05 → EndsIn (.spiReservedCommand cmd) s
    ({ s with svc := { s.svc with driveFF := true }, outs := s.outs ++ [.spi [0xFF]] })) ∧
  (∀ (s : State), EndsIn (.chipSelectRise) s ({ s with svc := { s.svc with driveFF := false } })) ∧
  (∀ (s : State), pairRoom s 5 0 → 0 < s.svc.posted → Leaves (.partnerWriteDone) s fun x => x.svc.posted = s.svc.posted - 1 ∧
    { x.svc with posted := s.svc.posted, spiRefused := s.svc.spiRefused } = s.svc ∧ x.svc.spiRefused = (getF x
    R.GLOBAL_SVC_STAT_REFUSED == 1) ∧ RegsKept [R.GLOBAL_SVC_STAT_REFUSED.key] s x ∧ DataKept s x)

/-- A write transfer under PEC_EN of up to seven words is held until STOP; without it one whole word is written as any
path does. At STOP a held transfer whose PEC fails writes nothing and sets PEC_ERR, one whose PEC is good is written;
an SCL timeout drops it. A read transfer answers as many bytes as asked for. EXTEST, SAMPLE/PRELOAD, HIGHZ and BYPASS
put their instruction in force, shift out what R850 and R851 say, and change no register and no stored data; before
stage 1 they change nothing. (17_register_conventions_and_map.md (R781-R784), 19_electrical_and_package.md
(R848-R851)) -/
def Obligations.ServicePortI2cAndTestPort : Prop :=
  (∀ (addr : BitVec 24) (bytes : List Byte) (s : State), pathOk .i2c s → getF s R.GLOBAL_SVC_CTL_PEC_EN = 1 → bytes.length ≤
    29 → EndsIn (.i2cWriteTransfer addr bytes) s ({ s with svc := { s.svc with i2c := some (addr.toNat, bytes) } })) ∧
  (∀ (addr : BitVec 24) (bytes : List Byte) (v : Word) (s : State), pathOk .i2c s → getF s R.GLOBAL_SVC_CTL_PEC_EN = 0 →
    bytes.length = 4 → dataWords bytes = [v] → ownCa .i2c addr.toNat → quietReg (caPage addr.toNat) (caOff addr.toNat) →
    accepted .i2c (caPage addr.toNat) (caOff addr.toNat) v s → Leaves (.i2cWriteTransfer addr bytes) s fun x => getReg x.regs
    (regKey (caPage addr.toNat) (caOff addr.toNat)) = (writeResult .i2c s (caPage addr.toNat) (caOff addr.toNat) v).1 ∧
    RegsKept [regKey (caPage addr.toNat) (caOff addr.toNat), R.GLOBAL_SVC_STAT_REFUSED.key, R.PAIR_MIRROR_PEND_N.key] s x ∧
    DataKept s x) ∧
  (∀ (addr : BitVec 24) (nbytes : BitVec 12) (remote : List Word) (s : State), pathOk .i2c s → addr.toNat % 4 = 0 →
    addr.toNat + 4096 ≤ 0x100000 → Leaves (.i2cReadTransfer addr nbytes remote) s fun x => (∃ bs, bs.length = nbytes.toNat ∧
    x.outs = s.outs ++ [.i2c bs])) ∧
  (∀ (addr : BitVec 24) (nbytes : BitVec 12) (remote : List Word) (s : State), pathOk .i2c s → addr.toNat % 4 ≠ 0 → Leaves
    (.i2cReadTransfer addr nbytes remote) s fun x => x.outs = s.outs ++ [.i2c (List.replicate nbytes.toNat 0)] ∧ getF x
    R.GLOBAL_SVC_STAT_ALIGN_ERR = 1 ∧ DataKept s x) ∧
  (∀ (addr : BitVec 24) (bytes : List Byte) (s : State), pathOk .i2c s → s.svc.i2c = some (addr.toNat, bytes) → pecOk s
    addr.toNat bytes = false → Leaves (.i2cStop) s fun x => x.svc = { s.svc with i2c := none } ∧ getF x
    R.GLOBAL_SVC_STAT_PEC_ERR = 1 ∧ RegsKept [R.GLOBAL_SVC_STAT_PEC_ERR.key] s x ∧ DataKept s x) ∧
  (∀ (addr : BitVec 24) (bytes : List Byte) (v : Word) (s : State), pathOk .i2c s → s.svc.i2c = some (addr.toNat, bytes) →
    pecOk s addr.toNat bytes → dataWords bytes = [v] → ownCa .i2c addr.toNat → quietReg (caPage addr.toNat) (caOff
    addr.toNat) → accepted .i2c (caPage addr.toNat) (caOff addr.toNat) v s → Leaves (.i2cStop) s fun x => x.svc =
    { s.svc with i2c := none } ∧ getReg x.regs (regKey (caPage addr.toNat) (caOff addr.toNat)) = (writeResult .i2c s (caPage
    addr.toNat) (caOff addr.toNat) v).1 ∧ RegsKept [regKey (caPage addr.toNat) (caOff addr.toNat),
    R.GLOBAL_SVC_STAT_REFUSED.key, R.PAIR_MIRROR_PEND_N.key] s x ∧ DataKept s x) ∧
  (∀ (s : State), EndsIn (.sclTimeout) s ({ s with svc := { s.svc with i2c := none } })) ∧
  (∀ (cells lands : BitVec 71) (s : State), jtagOk s → Leaves (.extest cells lands) s fun x => x.jtag =
    { s.jtag with ir := 0, cells := cells } ∧ x.outs = s.outs ++ [.jtag (cellBits lands), .lands (cellLands cells)] ∧ x.regs
    = s.regs ∧ DataKept s x) ∧
  (∀ (cells lands : BitVec 71) (s : State), jtagOk s → landsOff s = false → Leaves (.samplePreload cells lands) s fun x =>
    x.jtag = { s.jtag with ir := 1, cells := cells } ∧ x.outs = s.outs ++ [.jtag (cellBits lands)] ∧ x.regs = s.regs ∧
    DataKept s x) ∧
  (∀ (s : State), jtagOk s → Leaves (.highz) s fun x => x.jtag = { s.jtag with ir := 2 } ∧ x.outs = s.outs ++ [.lands
    (List.replicate 21 none)] ∧ x.regs = s.regs ∧ DataKept s x) ∧
  (∀ (code : Fin 16) (tdi : Bool) (s : State), jtagOk s → 3 ≤ code.val → landsOff s = false → Leaves (.bypass code tdi) s fun
    x => x.jtag = { s.jtag with ir := code.val, bypass := tdi } ∧ x.outs = s.outs ++ [.jtag [false]] ∧ x.regs = s.regs ∧
    DataKept s x) ∧
  (∀ (cells lands : BitVec 71) (s : State), jtagOk s = false → EndsIn (.extest cells lands) s (s)) ∧
  (∀ (cells lands : BitVec 71) (s : State), jtagOk s = false → EndsIn (.samplePreload cells lands) s (s)) ∧
  (∀ (s : State), jtagOk s = false → EndsIn (.highz) s (s)) ∧
  (∀ (code : Fin 16) (tdi : Bool) (s : State), jtagOk s = false → EndsIn (.bypass code tdi) s (s))

/-- VIN low, TEST high, a stopped reference, over-temperature and its end, the return of the supply and the end of HOLD
begin a cold reset: stage POWER with no flow, lock, filter entry, port, region or tick, time, OTP and flash kept, and
every register at its reset value. nRESET and SOFT_RESET begin a warm reset from any stage past POWER: the same, but
the RWS registers keep their values. DRESET begins the domain reset: no flow, chain, lock or filter entry is left, and
no tick begins. (16_reset_power_retain_boot.md (R714-R720, R726, R748), 19_electrical_and_package.md (R833, R844,
R854, R859)) -/
def Obligations.ResetStarts : Prop :=
  (∀ (s : State), Leaves (.vinLow) s fun x => AtStart s x ∧ RegsReset x ∧ x.jtag = State.reset.jtag ∧ (s.flashOp = none →
    s.power.save = false → s.power.eraseBuf = none → x.flash = s.flash) ∧ x.power.held ∧ x.power.cause = 2) ∧
  (∀ (s : State), s.power.hold = false → Leaves (.testHigh) s fun x => AtStart s x ∧ RegsReset x ∧ x.jtag = State.reset.jtag
    ∧ (s.flashOp = none → s.power.save = false → s.power.eraseBuf = none → x.flash = s.flash) ∧ x.power.held ∧ x.pins.test) ∧
  (∀ (s : State), powered s → Leaves (.referenceStop) s fun x => AtStart s x ∧ RegsReset x ∧ x.jtag = State.reset.jtag ∧
    (s.flashOp = none → s.power.save = false → s.power.eraseBuf = none → x.flash = s.flash) ∧ x.power.held ∧ x.power.cause =
    1) ∧
  (∀ (s : State), s.power.hold = false → Leaves (.overTemperature) s fun x => AtStart s x ∧ RegsReset x ∧ x.jtag =
    State.reset.jtag ∧ (s.flashOp = none → s.power.save = false → s.power.eraseBuf = none → x.flash = s.flash) ∧
    x.power.otOff) ∧
  (∀ (s : State), s.power.otOff → Leaves (.overTemperatureRestart) s fun x => AtStart s x ∧ RegsReset x ∧ x.jtag =
    State.reset.jtag ∧ (s.flashOp = none → s.power.save = false → s.power.eraseBuf = none → x.flash = s.flash) ∧
    x.power.otOff = false ∧ x.power.cause = 1) ∧
  (∀ (s : State), s.power.hold = false → s.power.otOff = false → Leaves (.coldReset) s fun x => AtStart s x ∧ RegsReset x ∧
    x.jtag = State.reset.jtag ∧ (s.flashOp = none → s.power.save = false → s.power.eraseBuf = none → x.flash = s.flash) ∧
    x.power.held = false ∧ x.power.cause = s.power.cause ∧ x.pins.test = false) ∧
  (∀ (s : State), s.power.hold → Leaves (.holdExit) s fun x => AtStart s x ∧ RegsReset x ∧ x.jtag = State.reset.jtag ∧
    (s.flashOp = none → s.power.save = false → s.power.eraseBuf = none → x.flash = s.flash) ∧ x.power.hold = false ∧
    x.power.cause = 3) ∧
  (∀ (s : State), powered s → stage s ≠ 0 → landsOff s = false → Leaves (.nReset) s fun x => AtStart s x ∧ RegsWarm s x ∧
    x.jtag = s.jtag ∧ (s.flashOp = none → s.power.save = false → s.power.eraseBuf = none → x.flash = s.flash) ∧ x.power.cause
    = 4) ∧
  (∀ (path : Path) (v : Word) (s : State), ownCa path R.GLOBAL_CTL_SOFT_RESET.key → accepted path 0x00 0x040 (withField v
    R.GLOBAL_CTL_SOFT_RESET.lo R.GLOBAL_CTL_SOFT_RESET.w 1) s → powered s → stage s ≠ 0 → (∀ k, path ≠ .partner k) → Leaves
    (.softReset path v) s fun x => AtStart s x ∧ RegsWarm s x ∧ x.power.cause = 5) ∧
  (∀ (path : Path) (v : Word) (s : State), ownCa path R.GLOBAL_CTL_DRESET.key → accepted path 0x00 0x040 (withField v
    R.GLOBAL_CTL_DRESET.lo R.GLOBAL_CTL_DRESET.w 1) s → bitOf v R.GLOBAL_CTL_SOFT_RESET = false → isMirror s = false →
    starting s = false → s.dreset = false → inStandby s = false → Leaves (.dReset path v) s fun x => x.dreset = true ∧
    x.flows = [] ∧ x.chain = [] ∧ x.locks = [] ∧ x.dir = [] ∧ x.arb.waiting = [] ∧ x.tick.stopped = true)

/-- At the end of stage POWER the stage is LOAD, the cause is shown and the straps are sampled, the LFSR takes its seed.
At the end of LOAD with a strap for the service port the stage is WAIT; with no valid slot it is FAIL with an error.
GO in WAIT or after a valid load begins RESTORE; at its end the stage is RUN, and where no retain buffer is valid NONE
is set and memory is as it was. LOAD appends four bytes to the buffer, START empties it, CHECK of a buffer with a bad
header sets its error, of a good image sets LOADED with its SEQ and loads the LFSR with its seed. Programming OTP sets
what its bits name while OTP is open; once locked it sets ERR alone. (16_reset_power_retain_boot.md (R721, R722,
R726-R731, R738-R743, R752, R753, R761)) -/
def Obligations.StartUp : Prop :=
  (∀ (s : State), powered s → stage s = 0 → Leaves (.powerStageReady) s fun x => stage x = 1 ∧ getF x R.GLOBAL_STAT_CAUSE =
    s.power.cause % 2 ^ R.GLOBAL_STAT_CAUSE.w ∧ hubNo x = s.pins.pairRole.toNat ∧ getF x R.BOOT_STAT_BOOTSEL = s.pins.bootSel
    % 4 ∧ (getF x R.DIR_LFSR_STATE_S = (if s.pins.pairRole then 0x1D2B else 0xACE1)) ∧ getF x R.SECURE_STAT_LOCK =
    s.otp.lock.toNat ∧ DataKept s x) ∧
  (∀ (s : State), powered s → stage s = 1 → getF s R.BOOT_STAT_BOOTSEL ≠ 0 → getF s R.BOOT_STAT_BOOTSEL ≠ 2 → EndsIn
    (.loadComplete) s (setF s R.BOOT_STAT_STAGE 2)) ∧
  (∀ (s : State), powered s → stage s = 1 → (getF s R.BOOT_STAT_BOOTSEL = 0 ∨ getF s R.BOOT_STAT_BOOTSEL = 2) → headerErr s
    (.slot 0) ≠ 0 → headerErr s (.slot 1) ≠ 0 → cutShort s = false → Leaves (.loadComplete) s fun x => stage x = 5 ∧ getF x
    R.BOOT_STAT_ERR ≠ 0 ∧ x.active = s.active ∧ DataKept s x) ∧
  (∀ (path : Path) (v : Word) (s : State), ownCa path R.BOOT_CTL_GO.key → accepted path 0x03 0x040 (withField v
    R.BOOT_CTL_GO.lo R.BOOT_CTL_GO.w 1) s → (stage s = 2 ∨ (stage s = 5 ∧ getF s R.BOOT_STAT_LOADED = 1)) → (s.otp.authReq =
    false ∨ getF s R.BOOT_STAT_LOADED = 1) → Leaves (.go path v) s fun x => stage x = 3 ∧ RegsKept [R.BOOT_STAT_STAGE.key,
    R.GLOBAL_SVC_STAT_REFUSED.key, R.PAIR_MIRROR_PEND_N.key] s x ∧ DataKept s x) ∧
  (∀ (path : Path) (v : Word) (s : State), ownCa path R.BOOT_CTL_GO.key → accepted path 0x03 0x040 (withField v
    R.BOOT_CTL_GO.lo R.BOOT_CTL_GO.w 1) s → stage s ≠ 2 → stage s ≠ 5 → getF s (capValid 3) = 0 → Leaves (.go path v) s fun x
    => stage x = stage s ∧ getF x (capCode 3) = 0xF2 ∧ DataKept s x) ∧
  (∀ (s : State), powered s → stage s = 3 → retainValid s 0 = false → retainValid s 1 = false → Leaves (.restoreDone) s fun x
    => stage x = 4 ∧ getF x R.POWER_RET_STAT_NONE = 1 ∧ x.power.eraseBuf.isSome ∧ DataKept s x) ∧
  (∀ (path : Path) (v : Word) (s : State), ownCa path R.BOOT_LOAD_DATA.key → accepted path 0x03 0x05C v s → s.loadBuf.length
    + 4 ≤ 0x400000 → Leaves (.load path v) s fun x => x.loadBuf = s.loadBuf ++ [v.extractLsb' 0 8, v.extractLsb' 8 8,
    v.extractLsb' 16 8, v.extractLsb' 24 8] ∧ RegsKept [R.BOOT_LOAD_DATA.key, R.GLOBAL_SVC_STAT_REFUSED.key,
    R.PAIR_MIRROR_PEND_N.key] s x ∧ DataKept s x) ∧
  (∀ (path : Path) (v : Word) (s : State), ownCa path R.BOOT_LOAD_CTL_START.key → accepted path 0x03 0x060 (withField v
    R.BOOT_LOAD_CTL_START.lo R.BOOT_LOAD_CTL_START.w 1) s → bitOf v R.BOOT_LOAD_CTL_CHECK = false → Leaves (.loadStart path
    v) s fun x => x.loadBuf = [] ∧ RegsKept [R.BOOT_LOAD_CTL_START.key, R.GLOBAL_SVC_STAT_REFUSED.key,
    R.PAIR_MIRROR_PEND_N.key] s x ∧ DataKept s x) ∧
  (∀ (path : Path) (v : Word) (s : State), ownCa path R.BOOT_LOAD_CTL_CHECK.key → accepted path 0x03 0x060 (withField v
    R.BOOT_LOAD_CTL_CHECK.lo R.BOOT_LOAD_CTL_CHECK.w 1) s → bitOf v R.BOOT_LOAD_CTL_START = false → cutShort s = false →
    headerErr s (.buffer (s.loadBuf.map (·.toNat))) ≠ 0 → Leaves (.loadCheck path v) s fun x => getF x R.BOOT_STAT_ERR ≠ 0 ∧
    getF x R.BOOT_STAT_LOADED = getF s R.BOOT_STAT_LOADED ∧ x.active = s.active ∧ x.loadBuf = s.loadBuf ∧ DataKept s x) ∧
  (∀ (path : Path) (v : Word) (s : State), ownCa path R.BOOT_LOAD_CTL_CHECK.key → accepted path 0x03 0x060 (withField v
    R.BOOT_LOAD_CTL_CHECK.lo R.BOOT_LOAD_CTL_CHECK.w 1) s → bitOf v R.BOOT_LOAD_CTL_START = false → imageGood
    { s with regs := setReg s.regs R.BOOT_LOAD_CTL_CHECK.key (writeResult path s 0x03 0x060 (withField v R.BOOT_LOAD_CTL_CHECK.lo R.BOOT_LOAD_CTL_CHECK.w 1)).1 }
    (.buffer (s.loadBuf.map (·.toNat))) → Leaves (.loadCheck path v) s fun x => getF x R.BOOT_STAT_LOADED = 1 ∧ getF x
    R.BOOT_IMG_SEQ_SEQ = imgField s (.buffer (s.loadBuf.map (·.toNat))) 12 4 ∧ getF x R.DIR_LFSR_STATE_S = getF x
    R.DIR_LFSR_SEED_SEED) ∧
  (∀ (path : Path) (v : Word) (s : State), ownCa path R.SECURE_PROG_CTL_GO.key → accepted path 0x7C 0x0A0 (withField v
    R.SECURE_PROG_CTL_GO.lo R.SECURE_PROG_CTL_GO.w 1) s → isService path → (stage s = 2 ∨ stage s = 5) → s.otp.lock = false →
    v.toNat % 8 ≠ 0 → (v.getLsbD 0 = false ∨ s.otp.keyValid = false) → Leaves (.otpProgram path v) s fun x => x.otp.keyValid
    = (s.otp.keyValid || v.getLsbD 0) ∧ x.otp.authReq = (s.otp.authReq || v.getLsbD 1) ∧ x.otp.lock = v.getLsbD 2 ∧
    (v.getLsbD 0 = false → x.otp.key = s.otp.key) ∧ getF x R.SECURE_PROG_CTL_ERR = 0 ∧ getF x R.SECURE_STAT_LOCK = (v.getLsbD
    2).toNat ∧ DataKept s x) ∧
  (∀ (path : Path) (v : Word) (s : State), ownCa path R.SECURE_PROG_CTL_GO.key → accepted path 0x7C 0x0A0 (withField v
    R.SECURE_PROG_CTL_GO.lo R.SECURE_PROG_CTL_GO.w 1) s → (s.otp.lock ∨ isService path = false ∨ (stage s ≠ 2 ∧ stage s ≠ 5))
    → Leaves (.otpProgram path v) s fun x => x.otp = s.otp ∧ getF x R.SECURE_PROG_CTL_ERR = 1 ∧ DataKept s x)

/-- A flash command outside the protected ranges starts its operation with BUSY; a program or an erase inside them, and
none else, sets ERR and starts nothing. A read ends with the page buffer holding the flash page; an erase ends with 4
KiB of erased bytes; a program onto an erased byte puts the byte of the page buffer there. Each ends BUSY, and no
other byte of flash changes. (16_reset_power_retain_boot.md (R732-R734)) -/
def Obligations.Flash : Prop :=
  (∀ (path : Path) (v : Word) (s : State), ownCa path R.BOOT_FLASH_CMD_GO.key → accepted path 0x03 0x054 (withField
    (withField v 0 2 0) R.BOOT_FLASH_CMD_GO.lo R.BOOT_FLASH_CMD_GO.w 1) s → s.flashOp = none → Leaves (.flashRead path v) s
    fun x => x.flashOp = some ⟨0, getF s R.BOOT_FLASH_ADDR_ADDR⟩ ∧ getF x R.BOOT_FLASH_STAT_BUSY = 1 ∧ x.pageBuf = s.pageBuf
    ∧ DataKept s x) ∧
  (∀ (path : Path) (v : Word) (s : State), ownCa path R.BOOT_FLASH_CMD_GO.key → accepted path 0x03 0x054 (withField
    (withField v 0 2 1) R.BOOT_FLASH_CMD_GO.lo R.BOOT_FLASH_CMD_GO.w 1) s → s.flashOp = none → flashProtected s (pageStart
    (getF s R.BOOT_FLASH_ADDR_ADDR)) 256 = false → Leaves (.flashProgram path v) s fun x => x.flashOp = some ⟨1, getF s
    R.BOOT_FLASH_ADDR_ADDR⟩ ∧ getF x R.BOOT_FLASH_STAT_BUSY = 1 ∧ x.pageBuf = s.pageBuf ∧ DataKept s x) ∧
  (∀ (path : Path) (v : Word) (s : State), ownCa path R.BOOT_FLASH_CMD_GO.key → accepted path 0x03 0x054 (withField
    (withField v 0 2 1) R.BOOT_FLASH_CMD_GO.lo R.BOOT_FLASH_CMD_GO.w 1) s → s.flashOp = none → flashProtected s (pageStart
    (getF s R.BOOT_FLASH_ADDR_ADDR)) 256 → Leaves (.flashProgram path v) s fun x => x.flashOp = none ∧ getF x
    R.BOOT_FLASH_STAT_ERR = 1 ∧ DataKept s x) ∧
  (∀ (path : Path) (v : Word) (s : State), ownCa path R.BOOT_FLASH_CMD_GO.key → accepted path 0x03 0x054 (withField
    (withField v 0 2 2) R.BOOT_FLASH_CMD_GO.lo R.BOOT_FLASH_CMD_GO.w 1) s → s.flashOp = none → flashProtected s (sectorStart
    (getF s R.BOOT_FLASH_ADDR_ADDR)) 4096 = false → Leaves (.flashErase path v) s fun x => x.flashOp = some ⟨2, getF s
    R.BOOT_FLASH_ADDR_ADDR⟩ ∧ getF x R.BOOT_FLASH_STAT_BUSY = 1 ∧ x.pageBuf = s.pageBuf ∧ DataKept s x) ∧
  (∀ (path : Path) (v : Word) (s : State), ownCa path R.BOOT_FLASH_CMD_GO.key → accepted path 0x03 0x054 (withField
    (withField v 0 2 2) R.BOOT_FLASH_CMD_GO.lo R.BOOT_FLASH_CMD_GO.w 1) s → s.flashOp = none → flashProtected s (sectorStart
    (getF s R.BOOT_FLASH_ADDR_ADDR)) 4096 → Leaves (.flashErase path v) s fun x => x.flashOp = none ∧ getF x
    R.BOOT_FLASH_STAT_ERR = 1 ∧ DataKept s x) ∧
  (∀ (f : FlashOp) (i : Nat) (s : State), s.flashOp = some f → f.op = 0 → i < 256 → Leaves (.flashOpDone) s fun x => (kvGet
    (fun _ => 0#8) x.pageBuf i = flashAt s (pageStart f.addr + i)) ∧ x.flashOp = none ∧ getF x R.BOOT_FLASH_STAT_BUSY = 0 ∧
    x.flash = s.flash) ∧
  (∀ (f : FlashOp) (i : Nat) (s : State), s.flashOp = some f → 2 ≤ f.op → i < 4096 → (s.flash.Pairwise (fun a b => a.1 <
    b.1)) → Leaves (.flashOpDone) s fun x => flashAt x (sectorStart f.addr + i) = 0xFF#8 ∧ x.flashOp = none ∧ (∀ a, (a <
    sectorStart f.addr ∨ sectorStart f.addr + 4096 ≤ a) → flashAt x a = flashAt s a) ∧ x.pageBuf = s.pageBuf) ∧
  (∀ (f : FlashOp) (i : Nat) (s : State), s.flashOp = some f → f.op = 1 → i < 256 → flashAt s (pageStart f.addr + i) = 0xFF#8
    → (s.flash.Pairwise (fun a b => a.1 < b.1)) → Leaves (.flashOpDone) s fun x => (flashAt x (pageStart f.addr + i) = kvGet
    (fun _ => 0#8) s.pageBuf ((pageStart f.addr + i) % 256)) ∧ x.flashOp = none ∧ (∀ a, (a < pageStart f.addr ∨ pageStart
    f.addr + 256 ≤ a) → flashAt x a = flashAt s a)) ∧
  (∀ (s : State), s.flashOp = none → EndsIn (.flashOpDone) s (s))

/-- REQ of IDLE or RUN outside STANDBY is the state at once; STANDBY is entered where R746 allows it, with every agent
port in DOWN. RUN asked for in STANDBY, or a lane that wakes it, begins the exit; at its end the state is RUN. A power
failure with a retain buffer armed starts the save: HALTED, no flow left, commits stopped; without one it is HOLD:
everything off but the monitor. The end of the save is HOLD. A retain buffer that has been erased is all ones, and
ARMED is set. (16_reset_power_retain_boot.md (R744-R757)) -/
def Obligations.LowPowerAndPowerFail : Prop :=
  (∀ (path : Path) (v : Word) (s : State), ownCa path R.POWER_CTL_REQ.key → accepted path 0x02 0x040 (withField v
    R.POWER_CTL_REQ.lo R.POWER_CTL_REQ.w 0) s → bitOf v R.POWER_CTL_SHUTDOWN = false → inStandby s = false → getF s
    R.POWER_CTL_REQ ≠ 0 → Leaves (.runRequest path v) s fun x => getF x R.POWER_STAT_STATE = 0 ∧ x.ports = s.ports ∧ RegsKept
    [R.POWER_STAT_STATE.key, R.POWER_CTL_REQ.key, R.GLOBAL_SVC_STAT_REFUSED.key, R.PAIR_MIRROR_PEND_N.key] s x ∧ DataKept s
    x) ∧
  (∀ (path : Path) (v : Word) (s : State), ownCa path R.POWER_CTL_REQ.key → accepted path 0x02 0x040 (withField v
    R.POWER_CTL_REQ.lo R.POWER_CTL_REQ.w 1) s → bitOf v R.POWER_CTL_SHUTDOWN = false → inStandby s = false → getF s
    R.POWER_CTL_REQ ≠ 1 → Leaves (.idleRequest path v) s fun x => getF x R.POWER_STAT_STATE = 1 ∧ x.ports = s.ports ∧
    RegsKept [R.POWER_STAT_STATE.key, R.POWER_CTL_REQ.key, R.GLOBAL_SVC_STAT_REFUSED.key, R.PAIR_MIRROR_PEND_N.key] s x ∧
    DataKept s x) ∧
  (∀ (path : Path) (v : Word) (s : State), ownCa path R.POWER_CTL_REQ.key → accepted path 0x02 0x040 (withField v
    R.POWER_CTL_REQ.lo R.POWER_CTL_REQ.w 0) s → bitOf v R.POWER_CTL_SHUTDOWN = false → inStandby s → getF s R.POWER_CTL_REQ ≠
    0 → Leaves (.runRequest path v) s fun x => x.power = { s.power with exiting := true } ∧ inStandby x ∧ DataKept s x) ∧
  (∀ (path : Path) (p : Fin 16) (v : Word) (s : State), ownCa path R.POWER_CTL_REQ.key → accepted path 0x02 0x040 (withField
    v R.POWER_CTL_REQ.lo R.POWER_CTL_REQ.w 2) s → bitOf v R.POWER_CTL_SHUTDOWN = false → inStandby s = false → standbyOk s →
    getF s R.POWER_CTL_REQ ≠ 2 → Leaves (.standbyRequest path v) s fun x => inStandby x ∧ lstate x p.val = 0 ∧ DataKept s x) ∧
  (∀ (path : Path) (v : Word) (s : State), ownCa path R.POWER_CTL_REQ.key → accepted path 0x02 0x040 (withField v
    R.POWER_CTL_REQ.lo R.POWER_CTL_REQ.w 0) s → bitOf v R.POWER_CTL_SHUTDOWN = false → getF s R.POWER_CTL_REQ = 0 → Leaves
    (.runRequest path v) s fun x => x.power = s.power ∧ x.ports = s.ports ∧ getF x R.POWER_STAT_STATE = getF s
    R.POWER_STAT_STATE ∧ DataKept s x) ∧
  (∀ (path : Path) (v : Word) (s : State), ownCa path R.POWER_CTL_REQ.key → accepted path 0x02 0x040 (withField v
    R.POWER_CTL_REQ.lo R.POWER_CTL_REQ.w 1) s → bitOf v R.POWER_CTL_SHUTDOWN = false → getF s R.POWER_CTL_REQ = 1 → Leaves
    (.idleRequest path v) s fun x => x.power = s.power ∧ x.ports = s.ports ∧ getF x R.POWER_STAT_STATE = getF s
    R.POWER_STAT_STATE ∧ DataKept s x) ∧
  (∀ (path : Path) (v : Word) (s : State), ownCa path R.POWER_CTL_REQ.key → accepted path 0x02 0x040 (withField v
    R.POWER_CTL_REQ.lo R.POWER_CTL_REQ.w 2) s → bitOf v R.POWER_CTL_SHUTDOWN = false → getF s R.POWER_CTL_REQ = 2 → Leaves
    (.standbyRequest path v) s fun x => x.power = s.power ∧ x.ports = s.ports ∧ getF x R.POWER_STAT_STATE = getF s
    R.POWER_STAT_STATE ∧ DataKept s x) ∧
  (∀ (p : Fin 16) (s : State), inStandby s → getF s R.POWER_CTL_LANE_WAKE = 1 → EndsIn (.laneWake p) s
    ({ s with power := { s.power with exiting := true } })) ∧
  (∀ (s : State), s.power.exiting → inStandby s → Leaves (.standbyExitDone) s fun x => getF x R.POWER_STAT_STATE = 0 ∧
    x.power = { s.power with exiting := false } ∧ PagesKept [0x02] s x ∧ DataKept s x) ∧
  (∀ (s : State), (getF s R.POWER_PF_CTL_CMP_EN = 1 ∨ (getF s R.POWER_PF_CTL_PFI_EN = 1 ∧ landsOff s = false)) → powered s →
    s.power.save = false → stage s = 4 → getF s R.POWER_RET_STAT_ARMED = 1 → getF s R.POWER_RET_CTL_EN = 1 → Leaves
    (.powerFailTrigger) s fun x => x.power.save ∧ isHalted x ∧ x.flows = [] ∧ x.chain = [] ∧ x.tick.stopped ∧
    x.power.trigTick = tickNum s ∧ DataKept s x) ∧
  (∀ (s : State), (getF s R.POWER_PF_CTL_CMP_EN = 1 ∨ (getF s R.POWER_PF_CTL_PFI_EN = 1 ∧ landsOff s = false)) → powered s →
    s.power.save = false → (stage s ≠ 4 ∨ getF s R.POWER_RET_STAT_ARMED ≠ 1 ∨ getF s R.POWER_RET_CTL_EN ≠ 1) → Leaves
    (.powerFailTrigger) s fun x => AtStart s x ∧ x.power.hold ∧ x.power.cause = 3) ∧
  (∀ (path : Path) (v : Word) (s : State), ownCa path R.POWER_CTL_SHUTDOWN.key → accepted path 0x02 0x040 (withField v
    R.POWER_CTL_SHUTDOWN.lo 1 1) s → fieldOf v 0 2 = getF s R.POWER_STAT_STATE → fieldOf v 0 2 < 2 → powered s → s.power.save
    = false → stage s = 4 → getF s R.POWER_RET_STAT_ARMED = 1 → getF s R.POWER_RET_CTL_EN = 1 → Leaves (.shutdown path v) s
    fun x => x.power.save ∧ isHalted x ∧ x.flows = [] ∧ x.chain = [] ∧ x.tick.stopped ∧ x.power.trigTick = tickNum s ∧
    DataKept s x) ∧
  (∀ (path : Path) (v : Word) (s : State), ownCa path R.POWER_CTL_SHUTDOWN.key → accepted path 0x02 0x040 (withField v
    R.POWER_CTL_SHUTDOWN.lo 1 1) s → fieldOf v 0 2 = getF s R.POWER_STAT_STATE → fieldOf v 0 2 < 2 → powered s → s.power.save
    = false → (stage s ≠ 4 ∨ getF s R.POWER_RET_STAT_ARMED ≠ 1 ∨ getF s R.POWER_RET_CTL_EN ≠ 1) → (∀ k, path ≠ .partner k) →
    Leaves (.shutdown path v) s fun x => AtStart s x ∧ x.power.hold ∧ x.power.cause = 3) ∧
  (∀ (s : State), s.power.save → Leaves (.retainSaveDone) s fun x => AtStart s x ∧ x.power.hold ∧ x.power.save = false) ∧
  (∀ (b i : Nat) (s : State), s.power.eraseBuf = some b → b < 2 → i < 0x40000 → (s.flash.Pairwise (fun a b => a.1 < b.1)) →
    Leaves (.retainEraseDone) s fun x => flashAt x (retainBuf b + i) = 0xFF#8 ∧ getF x R.POWER_RET_STAT_ARMED = 1 ∧ x.power =
    { s.power with eraseBuf := none, armedBuf := b })

/-- A granted request of an agent whose line no agent caches, with no lock and no flow: RdS is answered with the line and
leaves it Shared by the requester, or Owned where it allows an exclusive copy; RdU with the line and leaves it Owned;
Upg likewise, as a conversion; RdOnce with the line and leaves it untracked; WrFull and WrPartial outside FV regions
and the atomics are answered and leave it untracked; LkRd takes the first lock for the requester; UlWr without a lock
is answered NO_LOCK; WrBack without ownership puts the port into PROTO_ERR with code 7. (05_coherence_protocol.md
(R222, R227-R249), 10_arbitration_and_locks.md (R434, R447-R451), 07_serialization_and_early_data.md (R299)) -/
def Obligations.CoherentOperationsOnAnIdleLine : Prop :=
  (∀ (q : Nat) (r : Req) (p : Fin 16) (s : State), isRunning s → s.ebuf.length < 32 → discards s = false → nextGrant s = some
    q → offer s q = some r → needsSearch s (slotIx (curLoc s r.line)) = false → r.src = .port p.val → r.gone = false →
    r.agent < 32 → r.line < 2 ^ 24 → s.dir = [] → s.flows = [] → s.chain = [] → s.recov = none → s.recovWait = [] → s.inject
    = [] → s.locks = [] → s.fv.commit = none → s.fv.release = none → r.op = .rdS → r.flag = false → eligible s r = false →
    Leaves (.arbiterGrant) s fun x => (∃ d, d.length = 4 ∧ Answered s x p.val ⟨0x30, r.tag, r.tenant, r.agent, r.aa, 0, 0,
    d⟩) ∧ dirState x r.line = .shared (BitVec.ofNat 32 (2 ^ r.agent)) ∧ x.flows = [] ∧ (x.arb.waiting = s.arb.waiting.filter
    fun y => y.id != r.id)) ∧
  (∀ (q : Nat) (r : Req) (p : Fin 16) (s : State), isRunning s → s.ebuf.length < 32 → discards s = false → nextGrant s = some
    q → offer s q = some r → needsSearch s (slotIx (curLoc s r.line)) = false → r.src = .port p.val → r.gone = false →
    r.agent < 32 → r.line < 2 ^ 24 → s.dir = [] → s.flows = [] → s.chain = [] → s.recov = none → s.recovWait = [] → s.inject
    = [] → s.locks = [] → s.fv.commit = none → s.fv.release = none → r.op = .rdS → r.flag → fvRegion s r.line = none → Leaves
    (.arbiterGrant) s fun x => (∃ d, d.length = 4 ∧ Answered s x p.val ⟨0x31, r.tag, r.tenant, r.agent, r.aa, 0, 0, d⟩) ∧
    dirState x r.line = .owned r.agent ∧ x.flows = [] ∧ (x.arb.waiting = s.arb.waiting.filter fun y => y.id != r.id)) ∧
  (∀ (q : Nat) (r : Req) (p : Fin 16) (s : State), isRunning s → s.ebuf.length < 32 → discards s = false → nextGrant s = some
    q → offer s q = some r → needsSearch s (slotIx (curLoc s r.line)) = false → r.src = .port p.val → r.gone = false →
    r.agent < 32 → r.line < 2 ^ 24 → s.dir = [] → s.flows = [] → s.chain = [] → s.recov = none → s.recovWait = [] → s.inject
    = [] → s.locks = [] → s.fv.commit = none → s.fv.release = none → r.op = .rdU → Leaves (.arbiterGrant) s fun x => (∃ d,
    d.length = 4 ∧ Answered s x p.val ⟨0x31, r.tag, r.tenant, r.agent, r.aa, 0, 0, d⟩) ∧ dirState x r.line = .owned r.agent ∧
    x.flows = [] ∧ (x.arb.waiting = s.arb.waiting.filter fun y => y.id != r.id)) ∧
  (∀ (q : Nat) (r : Req) (p : Fin 16) (s : State), isRunning s → s.ebuf.length < 32 → discards s = false → nextGrant s = some
    q → offer s q = some r → needsSearch s (slotIx (curLoc s r.line)) = false → r.src = .port p.val → r.gone = false →
    r.agent < 32 → r.line < 2 ^ 24 → s.dir = [] → s.flows = [] → s.chain = [] → s.recov = none → s.recovWait = [] → s.inject
    = [] → s.locks = [] → s.fv.commit = none → s.fv.release = none → r.op = .upg → Leaves (.arbiterGrant) s fun x => (∃ d,
    d.length = 4 ∧ Answered s x p.val ⟨0x32, r.tag, r.tenant, r.agent, r.aa, 0, 0, d⟩) ∧ dirState x r.line = .owned r.agent ∧
    x.flows = [] ∧ getF x R.GLOBAL_COH_UPG_CONV_CNT = min (getF s R.GLOBAL_COH_UPG_CONV_CNT + 1) (2 ^ 32 - 1) ∧
    (x.arb.waiting = s.arb.waiting.filter fun y => y.id != r.id)) ∧
  (∀ (q : Nat) (r : Req) (p : Fin 16) (s : State), isRunning s → s.ebuf.length < 32 → discards s = false → nextGrant s = some
    q → offer s q = some r → needsSearch s (slotIx (curLoc s r.line)) = false → r.src = .port p.val → r.gone = false →
    r.agent < 32 → r.line < 2 ^ 24 → s.dir = [] → s.flows = [] → s.chain = [] → s.recov = none → s.recovWait = [] → s.inject
    = [] → s.locks = [] → s.fv.commit = none → s.fv.release = none → r.op = .rdOnce → Leaves (.arbiterGrant) s fun x => (∃ d,
    d.length = 4 ∧ Answered s x p.val ⟨0x34, r.tag, r.tenant, r.agent, r.aa, 0, 0, d⟩) ∧ dirState x r.line = .untracked ∧
    x.flows = [] ∧ (x.arb.waiting = s.arb.waiting.filter fun y => y.id != r.id)) ∧
  (∀ (q : Nat) (r : Req) (p : Fin 16) (s : State), isRunning s → s.ebuf.length < 32 → discards s = false → nextGrant s = some
    q → offer s q = some r → needsSearch s (slotIx (curLoc s r.line)) = false → r.src = .port p.val → r.gone = false →
    r.agent < 32 → r.line < 2 ^ 24 → s.dir = [] → s.flows = [] → s.chain = [] → s.recov = none → s.recovWait = [] → s.inject
    = [] → s.locks = [] → s.fv.commit = none → s.fv.release = none → r.op = .wrFull → fvRegion s r.line = none → Leaves
    (.arbiterGrant) s fun x => Answered s x p.val ⟨0x35, r.tag, r.tenant, r.agent, r.aa, 0, 0, []⟩ ∧ dirState x r.line =
    .untracked ∧ x.flows = [] ∧ (x.arb.waiting = s.arb.waiting.filter fun y => y.id != r.id)) ∧
  (∀ (q : Nat) (r : Req) (p : Fin 16) (s : State), isRunning s → s.ebuf.length < 32 → discards s = false → nextGrant s = some
    q → offer s q = some r → needsSearch s (slotIx (curLoc s r.line)) = false → r.src = .port p.val → r.gone = false →
    r.agent < 32 → r.line < 2 ^ 24 → s.dir = [] → s.flows = [] → s.chain = [] → s.recov = none → s.recovWait = [] → s.inject
    = [] → s.locks = [] → s.fv.commit = none → s.fv.release = none → r.op = .wrPartial → fvRegion s r.line = none → Leaves
    (.arbiterGrant) s fun x => Answered s x p.val ⟨0x35, r.tag, r.tenant, r.agent, r.aa, 0, 0, []⟩ ∧ dirState x r.line =
    .untracked ∧ x.flows = [] ∧ (x.arb.waiting = s.arb.waiting.filter fun y => y.id != r.id)) ∧
  (∀ (q : Nat) (r : Req) (p : Fin 16) (s : State), isRunning s → s.ebuf.length < 32 → discards s = false → nextGrant s = some
    q → offer s q = some r → needsSearch s (slotIx (curLoc s r.line)) = false → r.src = .port p.val → r.gone = false →
    r.agent < 32 → r.line < 2 ^ 24 → s.dir = [] → s.flows = [] → s.chain = [] → s.recov = none → s.recovWait = [] → s.inject
    = [] → s.locks = [] → s.fv.commit = none → s.fv.release = none → r.op = .fetchAdd → fvRegion s r.line = none → Leaves
    (.arbiterGrant) s fun x => (∃ old, Answered s x p.val ⟨0x34, r.tag, r.tenant, r.agent, r.aa, 0, 0, [old]⟩) ∧ dirState x
    r.line = .untracked ∧ x.flows = [] ∧ (x.arb.waiting = s.arb.waiting.filter fun y => y.id != r.id)) ∧
  (∀ (q : Nat) (r : Req) (p : Fin 16) (s : State), isRunning s → s.ebuf.length < 32 → discards s = false → nextGrant s = some
    q → offer s q = some r → needsSearch s (slotIx (curLoc s r.line)) = false → r.src = .port p.val → r.gone = false →
    r.agent < 32 → r.line < 2 ^ 24 → s.dir = [] → s.flows = [] → s.chain = [] → s.recov = none → s.recovWait = [] → s.inject
    = [] → s.locks = [] → s.fv.commit = none → s.fv.release = none → r.op = .swap → fvRegion s r.line = none → Leaves
    (.arbiterGrant) s fun x => (∃ old, Answered s x p.val ⟨0x34, r.tag, r.tenant, r.agent, r.aa, 0, 0, [old]⟩) ∧ dirState x
    r.line = .untracked ∧ x.flows = [] ∧ (x.arb.waiting = s.arb.waiting.filter fun y => y.id != r.id)) ∧
  (∀ (q : Nat) (r : Req) (p : Fin 16) (s : State), isRunning s → s.ebuf.length < 32 → discards s = false → nextGrant s = some
    q → offer s q = some r → needsSearch s (slotIx (curLoc s r.line)) = false → r.src = .port p.val → r.gone = false →
    r.agent < 32 → r.line < 2 ^ 24 → s.dir = [] → s.flows = [] → s.chain = [] → s.recov = none → s.recovWait = [] → s.inject
    = [] → s.locks = [] → s.fv.commit = none → s.fv.release = none → r.op = .lkRd → r.flag = false → fvRegion s r.line = none
    → 0 < getF s R.DIR_CTL_LOCK_WAYS → 0 < getF s (R.TENANT_LOCK_LIM_MAX r.tenant) → Leaves (.arbiterGrant) s fun x =>
    Answered s x p.val ⟨0x38, r.tag, r.tenant, r.agent, r.aa, 0, 0, []⟩ ∧ lockOn x r.line = some (0, ⟨r.line, r.agent,
    r.tenant, tickNum s, false⟩) ∧ getF x R.LOCK_GRANT_CNT_CNT = min (getF s R.LOCK_GRANT_CNT_CNT + 1) (2 ^ 32 - 1) ∧
    (x.arb.waiting = s.arb.waiting.filter fun y => y.id != r.id)) ∧
  (∀ (q : Nat) (r : Req) (p : Fin 16) (s : State), isRunning s → s.ebuf.length < 32 → discards s = false → nextGrant s = some
    q → offer s q = some r → needsSearch s (slotIx (curLoc s r.line)) = false → r.src = .port p.val → r.gone = false →
    r.agent < 32 → r.line < 2 ^ 24 → s.dir = [] → s.flows = [] → s.chain = [] → s.recov = none → s.recovWait = [] → s.inject
    = [] → s.locks = [] → s.fv.commit = none → s.fv.release = none → r.op = .ulWr → Leaves (.arbiterGrant) s fun x =>
    Answered s x p.val ⟨0x37, r.tag, r.tenant, r.agent, r.aa, 0x21, 0, []⟩ ∧ getF x R.LOCK_NOLOCK_CNT_CNT = min (getF s
    R.LOCK_NOLOCK_CNT_CNT + 1) (2 ^ 32 - 1) ∧ x.flows = [] ∧ DataKept s x ∧ (x.arb.waiting = s.arb.waiting.filter fun y =>
    y.id != r.id)) ∧
  (∀ (q : Nat) (r : Req) (p : Fin 16) (s : State), isRunning s → s.ebuf.length < 32 → discards s = false → nextGrant s = some
    q → offer s q = some r → needsSearch s (slotIx (curLoc s r.line)) = false → r.src = .port p.val → r.gone = false →
    r.agent < 32 → r.line < 2 ^ 24 → s.dir = [] → s.flows = [] → s.chain = [] → s.recov = none → s.recovWait = [] → s.inject
    = [] → s.locks = [] → s.fv.commit = none → s.fv.release = none → r.op = .wrBack → lstate s p.val = 4 → s.trackers = [] →
    Leaves (.arbiterGrant) s fun x => lstate x p.val = 6 ∧ getF x (R.APORT_PROTO_CODE p.val) = 7 ∧ x.flows = [] ∧ DataKept s
    x ∧ (x.arb.waiting = s.arb.waiting.filter fun y => y.id != r.id))

/-- On every path that the hub serves: an offset of a page that holds no register, every offset of a page that the map
leaves unassigned - the KX1 alias pages while they are off among them - and a CA of 0x20_0000 or above read as 0, and
a write there changes no register but the path's own status and no stored data. (R15, R18, R767) -/
def Obligations.EmptyOffsetsAndPages : Prop :=
  (∀ (path : Path) (ca : BitVec 24) (v : Word) (s : State), ownCa path ca.toNat → served path (caPage ca.toNat) s → aliasPage
    s (caPage ca.toNat) = false → pageInfo (caPage ca.toNat) ≠ none → ((0x040 ≤ caOff ca.toNat ∧ rowsAt (caPage ca.toNat)
    (caOff ca.toNat) = []) ∨ caOff ca.toNat = 0x00C ∨ (0x030 ≤ caOff ca.toNat ∧ caOff ca.toNat < 0x040)) → Leaves
    (.registerWrite path ca v) s fun x => RegsKept [R.GLOBAL_SVC_STAT_REFUSED.key] s x ∧ x.active = s.active ∧ x.tick =
    s.tick ∧ DataKept s x) ∧
  (∀ (path : Path) (ca : BitVec 24) (s : State), ownCa path ca.toNat → reads path s → pathNo path < 19 → aliasPage s (caPage
    ca.toNat) = false → pageInfo (caPage ca.toNat) ≠ none → ((0x040 ≤ caOff ca.toNat ∧ rowsAt (caPage ca.toNat) (caOff
    ca.toNat) = []) ∨ caOff ca.toNat = 0x00C ∨ (0x030 ≤ caOff ca.toNat ∧ caOff ca.toNat < 0x040)) → EndsIn (.multiWordLowRead
    path ca) s ({ s with outs := s.outs ++ [.word (pathNo path) 0] })) ∧
  (∀ (k : Fin 18) (ca : BitVec 24) (s : State), reads (.partner k) s → aliasPage s (caPage ca.toNat) = false → pageInfo
    (caPage ca.toNat) ≠ none → ((0x040 ≤ caOff ca.toNat ∧ rowsAt (caPage ca.toNat) (caOff ca.toNat) = []) ∨ caOff ca.toNat =
    0x00C ∨ (0x030 ≤ caOff ca.toNat ∧ caOff ca.toNat < 0x040)) → Leaves (.multiWordLowRead (.partner k) ca) s fun x =>
    ToldPartner s x (.cfgAnswer k.val false [0]) ∧ x.regs = s.regs ∧ DataKept s x) ∧
  (∀ (path : Path) (ca : BitVec 24) (v : Word) (s : State), ownCa path ca.toNat → served path (caPage ca.toNat) s → aliasPage
    s (caPage ca.toNat) = false → pageInfo (caPage ca.toNat) = none → Leaves (.registerWrite path ca v) s fun x => RegsKept
    [R.GLOBAL_SVC_STAT_REFUSED.key] s x ∧ x.active = s.active ∧ x.tick = s.tick ∧ DataKept s x) ∧
  (∀ (path : Path) (ca : BitVec 24) (s : State), ownCa path ca.toNat → reads path s → pathNo path < 19 → aliasPage s (caPage
    ca.toNat) = false → pageInfo (caPage ca.toNat) = none → EndsIn (.multiWordLowRead path ca) s
    ({ s with outs := s.outs ++ [.word (pathNo path) 0] })) ∧
  (∀ (k : Fin 18) (ca : BitVec 24) (s : State), reads (.partner k) s → aliasPage s (caPage ca.toNat) = false → pageInfo
    (caPage ca.toNat) = none → Leaves (.multiWordLowRead (.partner k) ca) s fun x => ToldPartner s x (.cfgAnswer k.val false
    [0]) ∧ x.regs = s.regs ∧ DataKept s x) ∧
  (∀ (path : Path) (ca : BitVec 24) (v : Word) (s : State), 0x200000 ≤ ca.toNat → (∀ k, path ≠ .partner k) → pathOk path s →
    Leaves (.registerWrite path ca v) s fun x => RegsKept [R.GLOBAL_SVC_STAT_ALIGN_ERR.key] s x ∧ x.active = s.active ∧
    x.tick = s.tick ∧ DataKept s x) ∧
  (∀ (path : Path) (ca : BitVec 24) (s : State), 0x200000 ≤ ca.toNat → (∀ k, path ≠ .partner k) → pathOk path s → EndsIn
    (.multiWordLowRead path ca) s ({ s with outs := s.outs ++ [.word (pathNo path) 0] })) ∧
  (∀ (addr : BitVec 24) (count : BitVec 8) (remote : List Word) (s : State), 0x200000 ≤ addr.toNat → addr.toNat % 4 = 0 →
    pathOk .spi s → count.toNat % 4 = 0 → EndsIn (.read addr count remote) s
    ({ s with svc := { s.svc with driveFF := false }, outs := s.outs ++ [.spi (0xA5 :: wordBytes 0)] }))

/-- A write of IRQ_EN leaves IRQ_STAT and IRQ_RAW of the page as they are, also for a bit it sets whose IRQ_RAW bit is 1
and for one it clears; afterwards the page is pending exactly when a bit of IRQ_STAT has its IRQ_EN bit set. (R792) -/
def Obligations.InterruptEnableActsOnPendingAlone : Prop :=
  ∀ (path : Path) (page : Fin 256) (v : Word) (s : State), ownCa path (regKey page.val 0x014) → (pageInfo page.val).isSome →
    bareHeader page.val = false → served path page.val s → Leaves (.irqEnWrite path page v) s fun x => getReg x.regs (regKey
    page.val 0x018) = getReg s.regs (regKey page.val 0x018) ∧ getReg x.regs (regKey page.val 0x010) = getReg s.regs (regKey
    page.val 0x010) ∧ (isPending x page.val = true ↔ getReg s.regs (regKey page.val 0x018) &&& (v &&& (BitVec.ofNat 32
    (irqMask page.val))) ≠ 0)

/-- In a pair the home hub of a line is the one whose number is HA[6] with ILV=0 and HA[12] with ILV=1, and the master is
hub 0. (R102) -/
def Obligations.HomeHubOfALine : Prop :=
  (∀ s : State, isMaster s = true ↔ hubNo s = 0) ∧
  (∀ (s : State) (ha : Nat), pairOn s → (isHome s ha = true ↔ (if getF s R.REGION_HA_MAP_ILV = 0 then ha.testBit 6 else
    ha.testBit 12).toNat = hubNo s))

/-- At State.reset the stage is POWER, no tick runs, no port is up, no flow, lock, region or filter entry exists and
memory, flash and caches list nothing; the read-only counters and states of the pages are 0; the cargo pool has 4,096
free buffers, every route is 0xF, only tenant 0 has CFG_PRIV, and no tenant resets. That unlisted memory reads 0 and
flash 0xFF is the model's choice. (16_reset_power_retain_boot.md (R726, R758-R761), 02_frame_tick_and_time.md (R59),
03_addresses_regions_tenants.md (R121, R135), 13_daber_fabric_and_stations.md (R616), 14_mailboxes_doorbells_cargo.md
(R661, R665)) -/
def Obligations.ResetState : Prop :=
  ((∀ f ∈ [R.TICK_NUM_NUM, R.TICK_STAT_FAULTED, R.TICK_SKIP_CNT_CNT, R.GLOBAL_SEC_CNT_CNT, R.GLOBAL_FAIL_STAT_HALTED,
    R.GLOBAL_DEAD_IDS, R.ARB_STARVE_FLAG, R.LOCK_HELD_MAX_N, R.DIR_STALE_RSPI_CNT_CNT, R.MEM_CORR_CNT_CNT,
    R.HCACHE_HIT_CNT_CNT, R.COMMIT_OUT_STAMP_NUM, R.FABRIC_STAT_DSTATE, R.FABRIC_FF_TRIM_TRIM, R.PAIR_STAT_JOINED,
    R.POWER_STAT_STATE, R.BOOT_STAT_STAGE, R.BOOT_STAT_LOADED, R.EVT_RING_WP_WP, R.DEBUG_PEEK_STAT_BUSY,
    R.CARGO_STALE_CNT_CNT, R.REGION_STAT_APPLY_PEND], getF State.reset f = 0) ∧ getF State.reset R.CARGO_FREE_N = 4096 ∧ getF
    State.reset R.CARGO_FREE_MIN_N = 4096 ∧ (∀ d : Fin 64, getF State.reset (R.FABRIC_ROUTE_PORT d.val) = 0xF) ∧ (∀ t : Fin
    32, getF State.reset (R.TENANT_CTL_CFG_PRIV t.val) = (if t = 0 then 1 else 0) ∧ getF State.reset (R.TENANT_STAT_RESETTING
    t.val) = 0)) ∧
  (State.reset.tick = Tick.empty ∧ (∀ p : Fin 16, lstate State.reset p.val = 0) ∧ State.reset.flows = [] ∧ State.reset.chain
    = [] ∧ State.reset.locks = [] ∧ State.reset.active = [] ∧ State.reset.dir = [] ∧ State.reset.slots = [] ∧ State.reset.mem
    = [] ∧ State.reset.flash = [] ∧ Memory.wf State.reset = true)

/-- Every octet coded at a running disparity decodes to itself with the same disparity after it; its code group has five
ones and keeps the disparity, or six ones from negative to positive, or four from positive to negative. A flit of any
header and payload, coded at either disparity, is read as its eighteen bytes; a training flit as one, with K28.5
first; a SKIP unit as a SKIP unit; twenty code groups of which one is invalid are a bad flit. SKIP units that go out
leave at most 1,024 flits since the last one, and the flits themselves in their order. The code tables are the
model's, from IEEE 802.3 (PRESUMED, log 125). (04_xanotte_link.md (R151-R157, R174)) -/
def Obligations.LaneCoding : Prop :=
  (∀ (rd : Bool) (o : Octet), o ∈ octets → decodeGroup rd (codeGroup rd o).1 = some (o, (codeGroup rd o).2) ∧ (onesOf
    (codeGroup rd o).1.toNat 10 = 5 ∧ (codeGroup rd o).2 = rd ∨ onesOf (codeGroup rd o).1.toNat 10 = 6 ∧ rd = false ∧
    (codeGroup rd o).2 = true ∨ onesOf (codeGroup rd o).1.toNat 10 = 4 ∧ rd = true ∧ (codeGroup rd o).2 = false)) ∧
  (∀ (rd : Bool) (hdr payload : Nat), hdr < 2 ^ 16 → payload < 2 ^ 128 → readFlit 1 rd.toNat (codeLane rd (flitOctets hdr
    payload)).1 = .good (natToBytes 2 hdr ++ natToBytes 16 payload) ∧ headerOf (natToBytes 2 hdr ++ natToBytes 16 payload) =
    hdr) ∧
  (∀ (rd : Bool) (payload : Nat), payload < 2 ^ 128 → readFlit 1 rd.toNat (codeLane rd (trainingOctets 1 payload)).1 =
    .training (0xBC :: 0 :: natToBytes 16 payload)) ∧
  (∀ rd : Bool, readFlit 1 rd.toNat (codeLane rd skipOctets).1 = .skip) ∧
  (∀ (rd : Nat) (a b : List (BitVec 10)) (g : BitVec 10), (∀ d, decodeGroup d g = none) → readFlit 1 rd (a ++ g :: b) = .bad) ∧
  (∀ (lk : LinkSel) (n : Nat) (os : List Out), n ≤ 1024 → (∀ o ∈ os, outFlits o ≤ 1024) → (spaced lk outFlits n os).2 ≤ 1024
    ∧ (noSkips os = os → noSkips (spaced lk outFlits n os).1 = os))
end

