-- ==== Sys2Proof/Laws/Maps.lean ====
section
/-! SUPPORT. Sparse stores: what a write changes, and that it keeps the canonical form. -/

namespace Sys2Proof.Machine

variable {α : Type}

theorem kvGet_kvDel_same (d : Nat → α) (m : KV α) (k : Nat) : kvGet d (kvDel m k) k = d k := by
  induction m with
  | nil => rfl
  | cons e t ih =>
    obtain ⟨a, v⟩ := e
    by_cases h : a = k <;> simp [kvDel, kvGet, h, ih]

theorem kvGet_kvDel_ne (d : Nat → α) (m : KV α) {k j : Nat} (h : j ≠ k) : kvGet d (kvDel m k) j = kvGet d m j := by
  induction m with
  | nil => rfl
  | cons e t ih =>
    obtain ⟨a, v⟩ := e
    by_cases ha : a = k
    · have hk : k ≠ j := fun e => h e.symm
      simp [kvDel, kvGet, ha, ih, hk]
    · by_cases hb : a = j <;> simp [kvDel, kvGet, ha, hb, ih, h]

theorem kvGet_kvIns_ne (d : Nat → α) (m : KV α) {k j : Nat} (v : α) (h : j ≠ k) : kvGet d (kvIns m k v) j = kvGet d m j := by
  have hk : k ≠ j := fun e => h e.symm
  induction m with
  | nil => simp [kvIns, kvGet, hk]
  | cons e t ih =>
    obtain ⟨a, w⟩ := e
    by_cases ha : k < a
    · simp [kvIns, kvGet, ha, hk]
    · simp [kvIns, kvGet, ha, ih]

theorem kvGet_kvIns_same (d : Nat → α) (m : KV α) (k : Nat) (v : α) (h : ∀ e ∈ m, e.1 ≠ k) :
    kvGet d (kvIns m k v) k = v := by
  induction m with
  | nil => simp [kvIns, kvGet]
  | cons e t ih =>
    obtain ⟨a, w⟩ := e
    have ha : a ≠ k := h (a, w) (by simp)
    by_cases hk : k < a
    · simp [kvIns, kvGet, hk]
    · simp [kvIns, kvGet, hk, ha, ih fun e he => h e (by simp [he])]

theorem kvDel_keys (m : KV α) (k : Nat) : ∀ e ∈ kvDel m k, e.1 ≠ k := by
  induction m with
  | nil => simp [kvDel]
  | cons e t ih =>
    obtain ⟨a, v⟩ := e
    by_cases h : a = k
    · simp only [kvDel, h, ↓reduceIte]; exact ih
    · simp only [kvDel, h, ↓reduceIte, List.mem_cons]
      rintro x (rfl | hx)
      · exact h
      · exact ih x hx

theorem kvDel_sub (m : KV α) (k : Nat) : ∀ e ∈ kvDel m k, e ∈ m := by
  induction m with
  | nil => simp [kvDel]
  | cons e t ih =>
    obtain ⟨a, v⟩ := e
    by_cases h : a = k
    · simp only [kvDel, h, ↓reduceIte, List.mem_cons]
      exact fun x hx => .inr (ih x hx)
    · simp only [kvDel, h, ↓reduceIte, List.mem_cons]
      rintro x (rfl | hx)
      · exact .inl rfl
      · exact .inr (ih x hx)

theorem kvIns_mem (m : KV α) (k : Nat) (v : α) : ∀ e ∈ kvIns m k v, e = (k, v) ∨ e ∈ m := by
  induction m with
  | nil => simp [kvIns]
  | cons e t ih =>
    obtain ⟨a, w⟩ := e
    by_cases h : k < a
    · simp [kvIns, h]
    · simp only [kvIns, h, ↓reduceIte, List.mem_cons]
      rintro x (rfl | hx)
      · exact .inr (.inl rfl)
      · rcases ih x hx with h | h
        · exact .inl h
        · exact .inr (.inr h)

variable [DecidableEq α]

/-- A read of the key that was written gives the value. -/
@[simp] theorem kvGet_kvSet_same (d : Nat → α) (m : KV α) (k : Nat) (v : α) : kvGet d (kvSet d m k v) k = v := by
  unfold kvSet
  split
  · rw [kvGet_kvDel_same]; simp_all
  · exact kvGet_kvIns_same d _ k v (kvDel_keys m k)

/-- A write leaves every other key alone. -/
theorem kvGet_kvSet_ne (d : Nat → α) (m : KV α) {k j : Nat} (v : α) (h : j ≠ k) :
    kvGet d (kvSet d m k v) j = kvGet d m j := by
  unfold kvSet
  split
  · exact kvGet_kvDel_ne d m h
  · rw [kvGet_kvIns_ne d _ v h, kvGet_kvDel_ne d m h]

/-- A read after a write of some key. -/
theorem kvGet_kvSet (d : Nat → α) (m : KV α) (k j : Nat) (v : α) :
    kvGet d (kvSet d m k v) j = if j = k then v else kvGet d m j := by
  by_cases h : j = k
  · simp [h]
  · simp [h, kvGet_kvSet_ne d m v h]

/-! ### The canonical form -/

theorem kvWf_cons (d : Nat → α) (a : Nat) (v : α) (t : KV α) :
    kvWf d ((a, v) :: t) = true ↔ v ≠ d a ∧ (∀ e ∈ t, a < e.1) ∧ kvWf d t = true := by
  simp [kvWf, and_assoc]

theorem kvWf_kvDel (d : Nat → α) (m : KV α) (k : Nat) (h : kvWf d m = true) : kvWf d (kvDel m k) = true := by
  induction m with
  | nil => rfl
  | cons e t ih =>
    obtain ⟨a, v⟩ := e
    obtain ⟨h1, h2, h3⟩ := (kvWf_cons d a v t).1 h
    by_cases hk : a = k
    · simp only [kvDel, hk, ↓reduceIte]; exact ih h3
    · simp only [kvDel, hk, ↓reduceIte]
      exact (kvWf_cons d a v _).2 ⟨h1, fun e he => h2 e (kvDel_sub t k e he), ih h3⟩

theorem kvWf_kvIns (d : Nat → α) (m : KV α) (k : Nat) (v : α) (hv : v ≠ d k) (hk : ∀ e ∈ m, e.1 ≠ k)
    (h : kvWf d m = true) : kvWf d (kvIns m k v) = true := by
  induction m with
  | nil => simp [kvIns, kvWf, hv]
  | cons e t ih =>
    obtain ⟨a, w⟩ := e
    obtain ⟨h1, h2, h3⟩ := (kvWf_cons d a w t).1 h
    have ha : a ≠ k := hk (a, w) (by simp)
    by_cases hlt : k < a
    · simp only [kvIns, hlt, ↓reduceIte]
      refine (kvWf_cons d k v _).2 ⟨hv, ?_, h⟩
      intro e he
      rcases List.mem_cons.1 he with rfl | he
      · exact hlt
      · exact Nat.lt_trans hlt (h2 e he)
    · simp only [kvIns, hlt, ↓reduceIte]
      refine (kvWf_cons d a w _).2 ⟨h1, ?_, ih (fun e he => hk e (by simp [he])) h3⟩
      intro e he
      rcases kvIns_mem t k v e he with rfl | he
      · simp only; omega
      · exact h2 e he

/-- A write keeps the canonical form. -/
theorem kvWf_kvSet (d : Nat → α) (m : KV α) (k : Nat) (v : α) (h : kvWf d m = true) : kvWf d (kvSet d m k v) = true := by
  unfold kvSet
  split
  · exact kvWf_kvDel d m k h
  · rename_i hv
    exact kvWf_kvIns d _ k v hv (kvDel_keys m k) (kvWf_kvDel d m k h)

end Sys2Proof.Machine
end

