-- ==== Sys2Proof/Laws/State.lean ====
section
/-! SUPPORT. Registers and fields: what a register write changes, and that it changes no other part of the state. -/

namespace Sys2Proof.Machine

/-! ### Registers -/

@[simp] theorem getReg_setReg_same (rs : KV Word) (k : Nat) (v : Word) : getReg (setReg rs k v) k = v :=
  kvGet_kvSet_same regDflt rs k v

theorem getReg_setReg_ne (rs : KV Word) {k j : Nat} (v : Word) (h : j ≠ k) : getReg (setReg rs k v) j = getReg rs j :=
  kvGet_kvSet_ne regDflt rs v h

theorem getReg_setReg (rs : KV Word) (k j : Nat) (v : Word) : getReg (setReg rs k v) j = if j = k then v else getReg rs j :=
  kvGet_kvSet regDflt rs k j v

/-! ### Bit fields -/

theorem fieldOf_lt (w : Word) (lo n : Nat) : fieldOf w lo n < 2 ^ n := Nat.mod_lt _ (Nat.two_pow_pos n)

theorem field_le (w : Word) (lo n : Nat) : fieldOf w lo n * 2 ^ lo ≤ w.toNat := by
  have h : fieldOf w lo n ≤ w.toNat / 2 ^ lo := Nat.mod_le _ _
  calc fieldOf w lo n * 2 ^ lo ≤ w.toNat / 2 ^ lo * 2 ^ lo := Nat.mul_le_mul_right _ h
    _ ≤ w.toNat := Nat.div_mul_le_self _ _

/-- A word as the bits below a field, the field, and the bits above it. -/
theorem word_split (w : Word) (lo n : Nat) :
    w.toNat = w.toNat % 2 ^ lo + 2 ^ lo * (fieldOf w lo n + 2 ^ n * (w.toNat / 2 ^ lo / 2 ^ n)) := by
  unfold fieldOf
  rw [Nat.mod_add_div, Nat.mod_add_div]

/-- The bits of a word after a field write. -/
theorem withField_toNat (w : Word) (lo n v : Nat) (h : lo + n ≤ 32) :
    (withField w lo n v).toNat =
      w.toNat % 2 ^ lo + 2 ^ lo * (v % 2 ^ n + 2 ^ n * (w.toNat / 2 ^ lo / 2 ^ n)) := by
  have hs := word_split w lo n
  have hw := w.isLt
  have hl : w.toNat % 2 ^ lo < 2 ^ lo := Nat.mod_lt _ (Nat.two_pow_pos lo)
  have hv : v % 2 ^ n < 2 ^ n := Nat.mod_lt _ (Nat.two_pow_pos n)
  have hh : w.toNat / 2 ^ lo / 2 ^ n < 2 ^ (32 - (lo + n)) := by
    rw [Nat.div_div_eq_div_mul, ← Nat.pow_add]
    apply Nat.div_lt_of_lt_mul
    rw [← Nat.pow_add, Nat.add_sub_cancel' h]
    exact hw
  generalize hH : w.toNat / 2 ^ lo / 2 ^ n = H at *
  generalize hL : w.toNat % 2 ^ lo = L at *
  generalize hF : fieldOf w lo n = F at *
  have hlt : L + 2 ^ lo * (v % 2 ^ n + 2 ^ n * H) < 2 ^ 32 := by
    have h1 : v % 2 ^ n + 2 ^ n * H + 1 ≤ 2 ^ n * 2 ^ (32 - (lo + n)) := by
      have : 2 ^ n * (H + 1) ≤ 2 ^ n * 2 ^ (32 - (lo + n)) := Nat.mul_le_mul_left _ hh
      rw [Nat.mul_add] at this; omega
    have h2 : 2 ^ lo * (v % 2 ^ n + 2 ^ n * H + 1) ≤ 2 ^ lo * (2 ^ n * 2 ^ (32 - (lo + n))) := Nat.mul_le_mul_left _ h1
    have h3 : (2 ^ lo * (2 ^ n * 2 ^ (32 - (lo + n))) : Nat) = 2 ^ 32 := by
      rw [← Nat.pow_add, ← Nat.pow_add]; congr 1; omega
    rw [h3] at h2
    rw [Nat.mul_add (2 ^ lo) (v % 2 ^ n + 2 ^ n * H) 1] at h2
    omega
  have heq : w.toNat - F * 2 ^ lo + (v % 2 ^ n) * 2 ^ lo = L + 2 ^ lo * (v % 2 ^ n + 2 ^ n * H) := by
    rw [hs, Nat.mul_add, Nat.mul_add, Nat.mul_comm F, Nat.mul_comm (v % 2 ^ n)]; omega
  rw [withField, BitVec.toNat_ofNat, hF, heq, Nat.mod_eq_of_lt hlt]

/-- A field read after it was written gives the value's low bits. -/
theorem fieldOf_withField (w : Word) (lo n v : Nat) (h : lo + n ≤ 32) : fieldOf (withField w lo n v) lo n = v % 2 ^ n := by
  rw [fieldOf, withField_toNat w lo n v h, Nat.add_mul_div_left _ _ (Nat.two_pow_pos lo),
    Nat.div_eq_of_lt (Nat.mod_lt _ (Nat.two_pow_pos lo)), Nat.zero_add, Nat.add_mul_mod_self_left, Nat.mod_mod]

/-- A field below the one written keeps its value. -/
theorem fieldOf_withField_below (w : Word) (lo n v lo' n' : Nat) (h : lo + n ≤ 32) (hd : lo' + n' ≤ lo) :
    fieldOf (withField w lo n v) lo' n' = fieldOf w lo' n' := by
  have key : ∀ x : Nat, x / 2 ^ lo' % 2 ^ n' = x % 2 ^ lo / 2 ^ lo' % 2 ^ n' := by
    intro x
    have hp : (2 : Nat) ^ lo = 2 ^ lo' * 2 ^ (lo - lo') := by rw [← Nat.pow_add]; congr 1; omega
    rw [hp, Nat.mod_mul_right_div_self, Nat.mod_mod_of_dvd _ (Nat.pow_dvd_pow 2 (by omega))]
  rw [fieldOf, fieldOf, key, key w.toNat, withField_toNat w lo n v h, Nat.add_mul_mod_self_left, Nat.mod_mod]

/-- A field above the one written keeps its value. -/
theorem fieldOf_withField_above (w : Word) (lo n v lo' n' : Nat) (h : lo + n ≤ 32) (hd : lo + n ≤ lo') :
    fieldOf (withField w lo n v) lo' n' = fieldOf w lo' n' := by
  have hp : (2 : Nat) ^ lo' = 2 ^ lo * (2 ^ n * 2 ^ (lo' - (lo + n))) := by
    rw [← Nat.pow_add, ← Nat.pow_add]; congr 1; omega
  rw [fieldOf, fieldOf, hp, ← Nat.div_div_eq_div_mul, ← Nat.div_div_eq_div_mul, ← Nat.div_div_eq_div_mul,
    ← Nat.div_div_eq_div_mul, withField_toNat w lo n v h, Nat.add_mul_div_left _ _ (Nat.two_pow_pos lo),
    Nat.div_eq_of_lt (Nat.mod_lt _ (Nat.two_pow_pos lo)), Nat.zero_add, Nat.add_mul_div_left _ _ (Nat.two_pow_pos n),
    Nat.div_eq_of_lt (Nat.mod_lt _ (Nat.two_pow_pos n)), Nat.zero_add]

/-! ### Fields of the state -/

/-- The bits of a field lie within its register. -/
def Fld.ok (f : Fld) : Prop := f.lo + f.w ≤ 32

/-- Two fields share no bit: of different registers, or apart in one. -/
def Fld.apart (f g : Fld) : Prop := f.key ≠ g.key ∨ f.lo + f.w ≤ g.lo ∨ g.lo + g.w ≤ f.lo

theorem getF_setF_same (s : State) (f : Fld) (v : Nat) (h : f.ok) : getF (setF s f v) f = v % 2 ^ f.w := by
  simp only [getF, setF, getReg_setReg_same]
  exact fieldOf_withField _ _ _ _ h

/-- A field write leaves every field that shares no bit with it alone. -/
theorem getF_setF_apart (s : State) (f g : Fld) (v : Nat) (hf : f.ok) (h : f.apart g) : getF (setF s f v) g = getF s g := by
  by_cases hk : g.key = f.key
  · have : (setF s f v).regs = setReg s.regs f.key (withField (getReg s.regs f.key) f.lo f.w v) := rfl
    simp only [getF, this, hk, getReg_setReg_same]
    rcases h with h | h | h
    · exact absurd hk.symm h
    · exact fieldOf_withField_above _ _ _ _ _ _ hf h
    · exact fieldOf_withField_below _ _ _ _ _ _ hf h
  · simp only [getF, setF, getReg_setReg_ne _ _ hk]

/-- A field write leaves every other register alone. -/
theorem setF_reg_ne (s : State) (f : Fld) (v : Nat) {k : Nat} (h : k ≠ f.key) : getReg (setF s f v).regs k = getReg s.regs k :=
  getReg_setReg_ne _ _ h

/-! ### A field write changes only `regs` -/

@[simp] theorem setF_now (s : State) (f : Fld) (v : Nat) : (setF s f v).now = s.now := rfl
@[simp] theorem setF_wins (s : State) (f : Fld) (v : Nat) : (setF s f v).wins = s.wins := rfl
@[simp] theorem setF_imgRegs (s : State) (f : Fld) (v : Nat) : (setF s f v).imgRegs = s.imgRegs := rfl
@[simp] theorem setF_paths (s : State) (f : Fld) (v : Nat) : (setF s f v).paths = s.paths := rfl
@[simp] theorem setF_snaps (s : State) (f : Fld) (v : Nat) : (setF s f v).snaps = s.snaps := rfl
@[simp] theorem setF_pins (s : State) (f : Fld) (v : Nat) : (setF s f v).pins = s.pins := rfl
@[simp] theorem setF_otp (s : State) (f : Fld) (v : Nat) : (setF s f v).otp = s.otp := rfl
@[simp] theorem setF_keyProg (s : State) (f : Fld) (v : Nat) : (setF s f v).keyProg = s.keyProg := rfl
@[simp] theorem setF_flash (s : State) (f : Fld) (v : Nat) : (setF s f v).flash = s.flash := rfl
@[simp] theorem setF_pageBuf (s : State) (f : Fld) (v : Nat) : (setF s f v).pageBuf = s.pageBuf := rfl
@[simp] theorem setF_flashOp (s : State) (f : Fld) (v : Nat) : (setF s f v).flashOp = s.flashOp := rfl
@[simp] theorem setF_loadBuf (s : State) (f : Fld) (v : Nat) : (setF s f v).loadBuf = s.loadBuf := rfl
@[simp] theorem setF_mem (s : State) (f : Fld) (v : Nat) : (setF s f v).mem = s.mem := rfl
@[simp] theorem setF_memChk (s : State) (f : Fld) (v : Nat) : (setF s f v).memChk = s.memChk := rfl
@[simp] theorem setF_memFold (s : State) (f : Fld) (v : Nat) : (setF s f v).memFold = s.memFold := rfl
@[simp] theorem setF_slots (s : State) (f : Fld) (v : Nat) : (setF s f v).slots = s.slots := rfl
@[simp] theorem setF_hflush (s : State) (f : Fld) (v : Nat) : (setF s f v).hflush = s.hflush := rfl
@[simp] theorem setF_search (s : State) (f : Fld) (v : Nat) : (setF s f v).search = s.search := rfl
@[simp] theorem setF_ebuf (s : State) (f : Fld) (v : Nat) : (setF s f v).ebuf = s.ebuf := rfl
@[simp] theorem setF_dir (s : State) (f : Fld) (v : Nat) : (setF s f v).dir = s.dir := rfl
@[simp] theorem setF_inject (s : State) (f : Fld) (v : Nat) : (setF s f v).inject = s.inject := rfl
@[simp] theorem setF_recov (s : State) (f : Fld) (v : Nat) : (setF s f v).recov = s.recov := rfl
@[simp] theorem setF_recovWait (s : State) (f : Fld) (v : Nat) : (setF s f v).recovWait = s.recovWait := rfl
@[simp] theorem setF_flows (s : State) (f : Fld) (v : Nat) : (setF s f v).flows = s.flows := rfl
@[simp] theorem setF_chain (s : State) (f : Fld) (v : Nat) : (setF s f v).chain = s.chain := rfl
@[simp] theorem setF_trackers (s : State) (f : Fld) (v : Nat) : (setF s f v).trackers = s.trackers := rfl
@[simp] theorem setF_arb (s : State) (f : Fld) (v : Nat) : (setF s f v).arb = s.arb := rfl
@[simp] theorem setF_locks (s : State) (f : Fld) (v : Nat) : (setF s f v).locks = s.locks := rfl
@[simp] theorem setF_waits (s : State) (f : Fld) (v : Nat) : (setF s f v).waits = s.waits := rfl
@[simp] theorem setF_evq (s : State) (f : Fld) (v : Nat) : (setF s f v).evq = s.evq := rfl
@[simp] theorem setF_breaks (s : State) (f : Fld) (v : Nat) : (setF s f v).breaks = s.breaks := rfl
@[simp] theorem setF_ports (s : State) (f : Fld) (v : Nat) : (setF s f v).ports = s.ports := rfl
@[simp] theorem setF_tick (s : State) (f : Fld) (v : Nat) : (setF s f v).tick = s.tick := rfl
@[simp] theorem setF_live (s : State) (f : Fld) (v : Nat) : (setF s f v).live = s.live := rfl
@[simp] theorem setF_evt (s : State) (f : Fld) (v : Nat) : (setF s f v).evt = s.evt := rfl
@[simp] theorem setF_active (s : State) (f : Fld) (v : Nat) : (setF s f v).active = s.active := rfl
@[simp] theorem setF_applied (s : State) (f : Fld) (v : Nat) : (setF s f v).applied = s.applied := rfl
@[simp] theorem setF_pendSet (s : State) (f : Fld) (v : Nat) : (setF s f v).pendSet = s.pendSet := rfl
@[simp] theorem setF_retiring (s : State) (f : Fld) (v : Nat) : (setF s f v).retiring = s.retiring := rfl
@[simp] theorem setF_fv (s : State) (f : Fld) (v : Nat) : (setF s f v).fv = s.fv := rfl
@[simp] theorem setF_weevil (s : State) (f : Fld) (v : Nat) : (setF s f v).weevil = s.weevil := rfl
@[simp] theorem setF_sweep (s : State) (f : Fld) (v : Nat) : (setF s f v).sweep = s.sweep := rfl
@[simp] theorem setF_kept (s : State) (f : Fld) (v : Nat) : (setF s f v).kept = s.kept := rfl
@[simp] theorem setF_haltAt (s : State) (f : Fld) (v : Nat) : (setF s f v).haltAt = s.haltAt := rfl
@[simp] theorem setF_partnerDead (s : State) (f : Fld) (v : Nat) : (setF s f v).partnerDead = s.partnerDead := rfl
@[simp] theorem setF_dreset (s : State) (f : Fld) (v : Nat) : (setF s f v).dreset = s.dreset := rfl
@[simp] theorem setF_power (s : State) (f : Fld) (v : Nat) : (setF s f v).power = s.power := rfl
@[simp] theorem setF_nextId (s : State) (f : Fld) (v : Nat) : (setF s f v).nextId = s.nextId := rfl
@[simp] theorem setF_pair (s : State) (f : Fld) (v : Nat) : (setF s f v).pair = s.pair := rfl
@[simp] theorem setF_fports (s : State) (f : Fld) (v : Nat) : (setF s f v).fports = s.fports := rfl
@[simp] theorem setF_fabric (s : State) (f : Fld) (v : Nat) : (setF s f v).fabric = s.fabric := rfl
@[simp] theorem setF_stns (s : State) (f : Fld) (v : Nat) : (setF s f v).stns = s.stns := rfl
@[simp] theorem setF_qualOk (s : State) (f : Fld) (v : Nat) : (setF s f v).qualOk = s.qualOk := rfl
@[simp] theorem setF_mboxes (s : State) (f : Fld) (v : Nat) : (setF s f v).mboxes = s.mboxes := rfl
@[simp] theorem setF_mbxLast (s : State) (f : Fld) (v : Nat) : (setF s f v).mbxLast = s.mbxLast := rfl
@[simp] theorem setF_cargo (s : State) (f : Fld) (v : Nat) : (setF s f v).cargo = s.cargo := rfl
@[simp] theorem setF_svc (s : State) (f : Fld) (v : Nat) : (setF s f v).svc = s.svc := rfl
@[simp] theorem setF_jtag (s : State) (f : Fld) (v : Nat) : (setF s f v).jtag = s.jtag := rfl
@[simp] theorem setF_nirqLow (s : State) (f : Fld) (v : Nat) : (setF s f v).nirqLow = s.nirqLow := rfl
@[simp] theorem setF_alertLow (s : State) (f : Fld) (v : Nat) : (setF s f v).alertLow = s.alertLow := rfl
@[simp] theorem setF_alertAcked (s : State) (f : Fld) (v : Nat) : (setF s f v).alertAcked = s.alertAcked := rfl
@[simp] theorem setF_outs (s : State) (f : Fld) (v : Nat) : (setF s f v).outs = s.outs := rfl
@[simp] theorem setF_intQ (s : State) (f : Fld) (v : Nat) : (setF s f v).intQ = s.intQ := rfl
@[simp] theorem setF_free (s : State) (f : Fld) (v : Nat) : (setF s f v).free = s.free := rfl
@[simp] theorem setF_pending (s : State) (f : Fld) (v : Nat) : (setF s f v).pending = s.pending := rfl

end Sys2Proof.Machine
end

