-- ==== Sys2Proof/Laws/Frame.lean ====
section
/-! SUPPORT. Frames: relations between a state and a later one that every action of a kind keeps, and how they compose along the
form of a meaning. -/

namespace Sys2Proof.Machine

variable {α β : Type}

/-- A relation between a state and a later one: reflexive and transitive. -/
structure Keeps where
  rel : State → State → Prop
  refl : ∀ s, rel s s
  trans : ∀ a b c, rel a b → rel b c → rel a c

/-- The action stays within the frame, whatever the state. -/
def Within (F : Keeps) (m : M α) : Prop := ∀ s, F.rel s (m s).2

/-- The frame of one part of the state: it is unchanged. -/
def keepFrame (π : State → β) : Keeps := ⟨fun s t => π t = π s, fun _ => rfl, fun _ _ _ h k => k.trans h⟩

theorem Within.pure (F : Keeps) (a : α) : Within F (Pure.pure a : M α) := fun s => F.refl s

theorem Within.get (F : Keeps) : Within F (MonadState.get : M State) := fun s => F.refl s

theorem Within.bind {F : Keeps} {m : M α} {f : α → M β} (hm : Within F m) (hf : ∀ a, Within F (f a)) : Within F (m >>= f) :=
  fun s => F.trans _ _ _ (hm s) (hf (m s).1 (m s).2)

/-- As `Within.bind`, where the first part's result has a property. -/
theorem Within.bindP {F : Keeps} {m : M α} {f : α → M β} (P : α → Prop) (hm : Within F m) (hp : ∀ s, P (m s).1)
    (hf : ∀ a, P a → Within F (f a)) : Within F (m >>= f) :=
  fun s => F.trans _ _ _ (hm s) (hf (m s).1 (hp s) (m s).2)

theorem Within.modify {F : Keeps} {f : State → State} (h : ∀ s, F.rel s (f s)) : Within F (modify f : M Unit) := fun s => h s

theorem Within.ite {F : Keeps} {c : Prop} [Decidable c] {a b : M α} (ha : Within F a) (hb : Within F b) :
    Within F (if c then a else b) := by split <;> assumption

theorem Within.onlyIf {F : Keeps} {c : Bool} {m : M Unit} (h : Within F m) : Within F (onlyIf c m) := by
  unfold Machine.onlyIf; split
  · exact h
  · exact Within.pure F _

theorem Within.each {F : Keeps} (l : List α) (f : α → M Unit) (h : ∀ a, a ∈ l → Within F (f a)) : Within F (each l f) := by
  induction l with
  | nil => exact Within.pure F _
  | cons a t ih =>
    exact Within.bind (h a (by simp)) fun _ => ih fun x hx => h x (by simp [hx])

theorem Within.map {F : Keeps} {m : M α} (f : α → β) (h : Within F m) : Within F (f <$> m) := fun s => h s

theorem Within.rdF (F : Keeps) (f : Fld) : Within F (rdF f) := fun s => F.refl s

theorem Within.rdB (F : Keeps) (f : Fld) : Within F (rdB f) := fun s => F.refl s

theorem Within.rdReg (F : Keeps) (p o : Nat) : Within F (rdReg p o) := fun s => F.refl s

/-! ### What the register operations answer -/

@[simp] theorem wrF_run (f : Fld) (v : Nat) (s : State) : wrF f v s = ((), setF s f v) := rfl

@[simp] theorem rdF_run (f : Fld) (s : State) : rdF f s = (getF s f, s) := rfl

@[simp] theorem rdB_run (f : Fld) (s : State) : rdB f s = (getF s f != 0, s) := rfl

@[simp] theorem addF_run (f : Fld) (n : Nat) (s : State) : addF f n s = ((), setF s f (min (getF s f + n) (2 ^ f.w - 1))) := rfl

@[simp] theorem onlyIf_true (m : M Unit) : onlyIf true m = m := rfl

@[simp] theorem onlyIf_false (m : M Unit) : onlyIf false m = pure () := rfl

end Sys2Proof.Machine
end

