-- ==== Sys2Proof/Laws/Deliver.lean ====
section
/-! SUPPORT. What the end of every meaning can do: the deliveries of interrupts and the interrupt lines (15 R703-R706). -/

namespace Sys2Proof.Machine

/-- What a delivery can change: those registers, what waits for the pair link, fabric ports and counters, mailboxes, the free
counter, what was sent, the pages to deliver, the two lines. -/
def deliverFrame : Keeps where
  rel s t := t = { s with
      regs := t.regs, pair := t.pair, fports := t.fports, fabric := t.fabric, mboxes := t.mboxes, mbxLast := t.mbxLast,
      free := t.free, outs := t.outs, intQ := t.intQ, nirqLow := t.nirqLow, alertLow := t.alertLow,
      alertAcked := t.alertAcked } ∧
    ∀ k, deliveryKey k = false → getReg t.regs k = getReg s.regs k
  refl s := ⟨rfl, fun _ _ => rfl⟩
  trans a b c h k := by
    refine ⟨?_, fun x hx => (k.2 x hx).trans (h.2 x hx)⟩
    have h1 := h.1
    have k1 := k.1
    rw [h1] at k1
    exact k1


/-! ### Registers and queues -/

theorem mbG_lt (m : Nat) : mbG m < 8 := by unfold mbG; omega

theorem mbK_lt (m : Nat) : mbK m < 16 := by unfold mbK; omega

theorem deliver_setF (s : State) (f : Fld) (v : Nat) (h : deliveryKey f.key = true) : deliverFrame.rel s (setF s f v) := by
  refine ⟨rfl, fun k hk => setF_reg_ne s f v ?_⟩
  rintro rfl
  rw [h] at hk
  exact absurd hk (by decide)

theorem deliver_wrF (f : Fld) (v : Nat) (h : deliveryKey f.key = true) : Within deliverFrame (wrF f v) :=
  fun s => deliver_setF s f v h

theorem deliver_addF (f : Fld) (n : Nat) (h : deliveryKey f.key = true) : Within deliverFrame (addF f n) :=
  fun s => deliver_setF s f _ h

theorem deliver_incF (f : Fld) (h : deliveryKey f.key = true) : Within deliverFrame (incF f) := deliver_addF f 1 h

/-- A register of an MBOX page. -/
theorem mbox_key (m : Nat) (f : Fld) (o lo w : Nat) (h : o < 0x140) (e : f = ⟨0x60 + mbG m, o + 64 * mbK m, lo, w⟩) :
    deliveryKey f.key = true := by
  subst e
  have h1 := mbG_lt m
  have h2 := mbK_lt m
  have : ((0x60 + mbG m) * 4096 + (o + 64 * mbK m)) / 4096 = 0x60 + mbG m := by omega
  simp only [deliveryKey, Fld.key, regKey, this]
  have : decide (0x40 ≤ 0x60 + mbG m ∧ 0x60 + mbG m ≤ 0x67) = true := by simp; omega
  simp [this]

theorem mbox_key_count (m : Nat) : deliveryKey (R.MBOX_STAT_COUNT (mbG m) (mbK m)).key = true :=
  mbox_key m _ 0x10C _ _ (by decide) rfl
theorem mbox_key_full (m : Nat) : deliveryKey (R.MBOX_STAT_FULL (mbG m) (mbK m)).key = true :=
  mbox_key m _ 0x10C _ _ (by decide) rfl
theorem mbox_key_pend (m : Nat) : deliveryKey (R.MBOX_STAT_PEND_ACK (mbG m) (mbK m)).key = true :=
  mbox_key m _ 0x10C _ _ (by decide) rfl
theorem mbox_key_collision (m : Nat) : deliveryKey (R.MBOX_STAT_COLLISION (mbG m) (mbK m)).key = true :=
  mbox_key m _ 0x10C _ _ (by decide) rfl
theorem mbox_key_lost (m : Nat) : deliveryKey (R.MBOX_LOST_CNT_CNT (mbG m) (mbK m)).key = true :=
  mbox_key m _ 0x110 _ _ (by decide) rfl
theorem mbox_key_reject (m : Nat) : deliveryKey (R.MBOX_REJECT_CNT_CNT (mbG m) (mbK m)).key = true :=
  mbox_key m _ 0x118 _ _ (by decide) rfl

/-- A register of a page that deliveries write, by its page and offset. -/
theorem page_key (page o lo w : Nat) (ho : o < 4096)
    (hp : page = 4 ∨ (0x1C ≤ page ∧ page ≤ 0x1F) ∨ (0x40 ≤ page ∧ page ≤ 0x67) ∨ page = 0x78) :
    deliveryKey (Fld.key ⟨page, o, lo, w⟩) = true := by
  have : (page * 4096 + o) / 4096 = page := by omega
  simp only [deliveryKey, Fld.key, regKey, this]
  rcases hp with rfl | h | h | rfl <;> simp_all

theorem deliver_raise (page bit : Nat)
    (h : page = 0 ∨ page = 4 ∨ (0x1C ≤ page ∧ page ≤ 0x1F) ∨ (0x40 ≤ page ∧ page ≤ 0x67) ∨ page = 0x78) :
    Within deliverFrame (raise page bit) := by
  intro s
  have k1 : deliveryKey (regKey page offIrqRaw) = true := by
    rcases h with rfl | h
    · decide
    · exact page_key page offIrqRaw 0 1 (by decide) h
  have k2 : deliveryKey (regKey page offIrqStat) = true := by
    rcases h with rfl | h
    · decide
    · exact page_key page offIrqStat 0 1 (by decide) h
  have h1 : ∀ (rs : KV Word) (v : Word) (k : Nat), deliveryKey k = false →
      getReg (setReg rs (regKey page offIrqRaw) v) k = getReg rs k :=
    fun rs v k hk => getReg_setReg_ne rs v (fun e => by rw [e, k1] at hk; exact absurd hk (by decide))
  have h2 : ∀ (rs : KV Word) (v : Word) (k : Nat), deliveryKey k = false →
      getReg (setReg rs (regKey page offIrqStat) v) k = getReg rs k :=
    fun rs v k hk => getReg_setReg_ne rs v (fun e => by rw [e, k2] at hk; exact absurd hk (by decide))
  have key : ∀ (rs : KV Word) (b : Bool) (v w : Word) (k : Nat), deliveryKey k = false →
      getReg (if b then setReg (setReg rs (regKey page offIrqRaw) v) (regKey page offIrqStat) w
        else setReg rs (regKey page offIrqRaw) v) k = getReg rs k := by
    intro rs b v w k hk
    cases b
    · exact h1 rs v k hk
    · exact (h2 _ w k hk).trans (h1 rs v k hk)
  have gen : ∀ (c : Bool) (rs : KV Word), (∀ k, deliveryKey k = false → getReg rs k = getReg s.regs k) →
      deliverFrame.rel s (if c then { { s with regs := rs } with intQ := s.intQ ++ [page] } else { s with regs := rs }) := by
    intro c rs h
    cases c
    · exact ⟨rfl, h⟩
    · exact ⟨rfl, h⟩
  exact gen _ _ fun k hk => key _ _ _ _ k hk

theorem deliver_emit (o : Out) : Within deliverFrame (emit o) := fun _ => ⟨rfl, fun _ _ => rfl⟩

theorem deliver_emitLand (o : Out) : Within deliverFrame (emitLand o) :=
  Within.bind (Within.get _) fun _ => Within.onlyIf (deliver_emit o)

theorem deliver_drawBool : Within deliverFrame drawBool := fun _ => ⟨rfl, fun _ _ => rfl⟩

theorem deliver_setPair (f : PairSt → PairSt) : Within deliverFrame (setPair f) := fun _ => ⟨rfl, fun _ _ => rfl⟩

theorem deliver_sendFlits (os : List Out) : Within deliverFrame (sendFlits .pair os) := fun _ => ⟨rfl, fun _ _ => rfl⟩

theorem deliver_pumpPairList (l : List PairMsg) : ∀ b, Within deliverFrame (pumpPairList l b) := by
  induction l with
  | nil => exact fun _ => Within.pure _ _
  | cons m t ih =>
    intro b
    unfold pumpPairList
    refine Within.bind (Within.get _) fun s => ?_
    split
    · exact Within.bind (deliver_setPair _) fun _ => Within.bind (deliver_sendFlits _) fun _ => ih _
    · exact Within.bind (deliver_setPair _) fun _ => ih _

theorem deliver_pumpPair : Within deliverFrame pumpPair :=
  Within.bind (Within.get _) fun _ => Within.bind (deliver_setPair _) fun _ => deliver_pumpPairList _ _

theorem deliver_sendPair (m : PairMsg) : Within deliverFrame (sendPair m) :=
  Within.bind (deliver_setPair _) fun _ => deliver_pumpPair

/-! ### Doorbells -/

theorem deliver_setDoorbell (t b : Nat) (h : t < 32) : Within deliverFrame (setDoorbell t b) :=
  Within.bind (Within.rdF _ _) fun _ => deliver_wrF _ _ (page_key _ _ _ _ (by decide) (by omega))

theorem deliver_ringDoorbell (t b : Nat) (h : t < 32) : Within deliverFrame (ringDoorbell t b) := by
  refine Within.bind (Within.get _) fun s => ?_
  dsimp only
  split
  · exact deliver_setDoorbell t b h
  · split
    · exact deliver_sendPair _
    · exact deliver_incF _ (page_key _ _ _ _ (by decide) (by omega))

theorem getF_lt (s : State) (f : Fld) : getF s f < 2 ^ f.w := fieldOf_lt _ _ _

/-! ### Sending on the fabric -/

theorem deliver_perf (ev : Nat) (a b : Option Nat) : Within deliverFrame (perf ev a b) := by
  unfold perf perfN
  refine Within.each _ _ fun k hk => ?_
  have hk' : k < 8 := by simpa using hk
  refine Within.bind (Within.rdF _ _) fun _ => Within.bind (Within.rdF _ _) fun _ => Within.bind (Within.rdF _ _) fun _ =>
    Within.bind (Within.rdF _ _) fun _ => Within.onlyIf (deliver_addF _ _ ?_)
  exact page_key _ _ _ _ (by omega) (by omega)

theorem deliver_setFport (p : Nat) (f : FPort → FPort) : Within deliverFrame (setFport p f) := fun _ => ⟨rfl, fun _ _ => rfl⟩

theorem deliver_setFabric (f : Fabric → Fabric) : Within deliverFrame (setFabric f) := fun _ => ⟨rfl, fun _ _ => rfl⟩

theorem deliver_fTake (p vc : Nat) (h : p < 4) : Within deliverFrame (fTake p vc) := by
  refine Within.bind (Within.get _) fun _ => ?_
  split
  · exact deliver_wrF _ _ (page_key _ _ _ _ (by decide) (by omega))
  · exact deliver_wrF _ _ (page_key _ _ _ _ (by decide) (by omega))

theorem deliver_fEmit (p : Nat) (g : Sys2Proof.Frame) (h : p < 4) :
    Within deliverFrame (fEmit p g) :=
  Within.bind (deliver_incF _ (page_key _ _ _ _ (by decide) (by omega))) fun _ =>
    Within.bind (deliver_perf _ _ _) fun _ => deliver_emit _

theorem deliver_fPumpPrio (p k : Nat) (h : p < 4) (l : List Sys2Proof.Frame) : Within deliverFrame (fPumpPrio p k l) := by
  induction l with
  | nil => exact Within.pure _ _
  | cons f t ih =>
    unfold fPumpPrio
    dsimp only
    refine Within.ite (Within.bind (Within.get _) fun _ => Within.ite ?_ ?_) ?_
    · refine Within.ite ?_ ?_
      · exact Within.bind (deliver_fTake _ _ h) fun _ => Within.bind (deliver_fEmit _ _ h) fun _ => ih
      · exact Within.bind (deliver_fEmit _ _ h) fun _ => ih
    · exact Within.bind ih fun _ => Within.pure _ _
    · exact Within.bind ih fun _ => Within.pure _ _

theorem deliver_fPump (p : Nat) (h : p < 4) : Within deliverFrame (fPump p) :=
  Within.each _ _ fun _ _ => Within.bind (Within.get _) fun _ => Within.bind (deliver_fPumpPrio _ _ h _) fun _ =>
    deliver_setFport _ _

theorem deliver_fSend (p : Nat) (f : Sys2Proof.Frame) (h : p < 4) : Within deliverFrame (fSend p f) :=
  Within.bind (Within.get _) fun _ => Within.bind (deliver_setFport _ _) fun _ => deliver_fPump _ h

theorem deliver_nextSeq (c d : Nat) : Within deliverFrame (nextSeq c d) :=
  Within.bind (Within.get _) fun _ => Within.bind (deliver_setFabric _) fun _ => Within.pure _ _

theorem deliver_fRoute (f : Sys2Proof.Frame) : Within deliverFrame (fRoute f none) := by
  refine Within.bind (Within.get _) fun s => ?_
  dsimp only
  split
  · rename_i h
    exact deliver_fSend _ _ (by simp at h; exact h.1)
  · unfold countNoRoute
    split
    · rename_i p h
      have hp : p < 4 := by
        split at h
        · simp at h; omega
        · simp at h
      exact Within.bind (deliver_incF _ (page_key _ _ _ _ (by decide) (by omega))) fun _ =>
        deliver_raise _ _ (by unfold pgFport; omega)
    · exact Within.pure _ _

/-! ### Mailboxes -/

theorem deliver_setMbox (m : Nat) (f : Mbox → Mbox) : Within deliverFrame (setMbox m f) :=
  Within.bind (Within.get _) fun _ => Within.bind (fun _ => ⟨rfl, fun _ _ => rfl⟩) fun _ =>
    Within.bind (deliver_wrF _ _ (mbox_key_count m)) fun _ =>
    Within.bind (deliver_wrF _ _ (mbox_key_full m)) fun _ =>
    deliver_wrF _ _ (mbox_key_pend m)

theorem deliver_mbIrq (m b : Nat) : Within deliverFrame (mbIrq m b) :=
  deliver_raise _ _ (by have := mbG_lt m; unfold pgMbox; omega)

theorem deliver_secEvent (k t a : Nat) : Within deliverFrame (secEvent k t a) :=
  Within.bind (deliver_incF _ (by decide)) fun _ => Within.bind (deliver_wrF _ _ (by decide)) fun _ =>
    Within.bind (deliver_wrF _ _ (by decide)) fun _ => Within.bind (deliver_wrF _ _ (by decide)) fun _ =>
    deliver_raise _ _ (Or.inl rfl)

theorem deliver_postStore (m : Nat) (q : Quad) (w : BitVec 64) : Within deliverFrame (postStore m q w) := by
  have ring : Within deliverFrame (do
      let s ← get
      onlyIf (!mbOut s m)
        (ringDoorbell (getF s (R.MBOX_CTL_RX_TENANT (mbG m) (mbK m))) (getF s (R.MBOX_CTL_DB_BIT (mbG m) (mbK m))))) :=
    Within.bind (Within.get _) fun s => Within.onlyIf (deliver_ringDoorbell _ _ (getF_lt _ _))
  refine Within.bind (Within.get _) fun s => ?_
  dsimp only
  refine Within.ite ?_ (Within.ite ?_ ?_)
  · exact Within.bind (deliver_setMbox _ _) fun _ => Within.bind ring fun _ => Within.pure _ _
  · exact Within.bind (deliver_incF _ (mbox_key_reject m)) fun _ => Within.bind (deliver_mbIrq _ _) fun _ =>
      Within.pure _ _
  · exact Within.bind (deliver_setMbox _ _) fun _ => Within.bind (deliver_wrF _ _ (mbox_key_collision m)) fun _ =>
      Within.bind (deliver_incF _ (mbox_key_lost m)) fun _ => Within.bind (deliver_mbIrq _ _) fun _ =>
      Within.bind ring fun _ => Within.pure _ _

theorem deliver_acceptPost (m src seq : Nat) (q : Quad) (st : Nat) : Within deliverFrame (acceptPost m src seq q st) := by
  have new : Within deliverFrame (acceptPost.acceptNew m src seq q st) := by
    refine Within.bind (Within.get _) fun s => ?_
    refine Within.ite ?_ ?_
    · exact Within.bind (deliver_mbIrq _ _) fun _ => Within.bind (deliver_secEvent _ _ _) fun _ => Within.pure _ _
    · refine Within.bind (deliver_postStore _ _ _) fun _ => Within.ite (Within.pure _ _) ?_
      exact Within.bind (fun _ => ⟨rfl, fun _ _ => rfl⟩) fun _ => Within.pure _ _
  refine Within.bind (Within.get _) fun s => ?_
  split
  · exact Within.ite (Within.pure _ _) new
  · exact new

theorem deliver_dropOldest (m : Nat) (lost : Bool) : Within deliverFrame (dropOldest m lost) := by
  refine Within.bind (deliver_setMbox _ _) fun _ => Within.ite ?_ (Within.pure _ _)
  exact Within.bind (deliver_incF _ (mbox_key_lost m)) fun _ => deliver_mbIrq _ _

theorem deliver_sendPost (m seq : Nat) : Within deliverFrame (sendPost m seq) := by
  refine Within.bind (Within.get _) fun s => ?_
  dsimp only
  split
  · exact Within.pure _ _
  · refine Within.ite ?_ ?_
    · exact Within.bind (deliver_acceptPost _ _ _ _ _) fun _ => Within.pure _ _
    · exact Within.bind (deliver_fRoute _) fun _ => Within.pure _ _

theorem deliver_ackResult (m r : Nat) : Within deliverFrame (ackResult m r) :=
  Within.ite (deliver_dropOldest _ _) (Within.ite (deliver_dropOldest _ _) (Within.pure _ _))

theorem deliver_sendNext (m n : Nat) : Within deliverFrame (sendNext m n) := by
  induction n with
  | zero => exact Within.pure _ _
  | succ n ih =>
    unfold sendNext
    refine Within.bind (Within.get _) fun s => ?_
    dsimp only
    refine Within.ite ?_ (Within.pure _ _)
    refine Within.bind (deliver_nextSeq _ _) fun _ => Within.bind (deliver_setMbox _ _) fun _ =>
      Within.bind (deliver_sendPost _ _) fun r => ?_
    split
    · exact Within.bind (deliver_ackResult _ _) fun _ => ih
    · exact Within.pure _ _

theorem deliver_svcPostMsg (m : Nat) (q : Quad) : Within deliverFrame (svcPostMsg m q) :=
  Within.bind (Within.get _) fun _ => Within.ite (Within.pure _ _)
    (Within.bind (deliver_postStore _ _ _) fun _ => Within.bind (deliver_sendNext _ _) fun _ => Within.pure _ _)

theorem deliver_postEvent (page : Nat) : Within deliverFrame (postEvent page) := by
  refine Within.bind (Within.get _) fun s => ?_
  dsimp only
  refine Within.ite ?_ (Within.ite ?_ (deliver_incF _ (by decide)))
  · exact Within.bind (deliver_svcPostMsg _ _) fun _ => Within.onlyIf (deliver_incF _ (by decide))
  · exact Within.bind (deliver_sendPair _) fun _ => Within.bind deliver_drawBool fun _ =>
      Within.onlyIf (deliver_incF _ (by decide))

/-! ### The deliveries and the lines -/

theorem deliver_deliverPage (page : Nat) : Within deliverFrame (deliverPage page) := by
  refine Within.bind (Within.get _) fun s => ?_
  dsimp only
  have l1 : Within deliverFrame (if routeBit s page 1 = true then (modify fun s => { s with alertAcked := false } : M PUnit)
      else Pure.pure PUnit.unit) :=
    Within.ite (fun _ => ⟨rfl, fun _ _ => rfl⟩) (Within.pure _ _)
  have l2 : Within deliverFrame (if routeBit s page 3 = true then do
      postEvent page
      if routeBit s page 1 = true then modify fun s => { s with alertAcked := false } else Pure.pure PUnit.unit
    else if routeBit s page 1 = true then modify fun s => { s with alertAcked := false } else Pure.pure PUnit.unit) :=
    Within.ite (Within.bind (deliver_postEvent _) fun _ => l1) l1
  exact Within.ite (Within.bind (deliver_ringDoorbell _ _ (getF_lt _ _)) fun _ => l2) l2

theorem deliver_deliverAll (n : Nat) : Within deliverFrame (deliverAll n) := by
  induction n with
  | zero => exact Within.pure _ _
  | succ n ih =>
    unfold deliverAll
    refine Within.bind (Within.get _) fun s => ?_
    split
    · exact Within.pure _ _
    · exact Within.bind (fun _ => ⟨rfl, fun _ _ => rfl⟩) fun _ => Within.bind (deliver_deliverPage _) fun _ => ih

theorem deliver_driveLines : Within deliverFrame driveLines := by
  refine Within.bind (Within.get _) fun s => ?_
  refine Within.bind (deliver_wrF _ _ (by decide)) fun _ => Within.bind (deliver_wrF _ _ (by decide)) fun _ => ?_
  have a : ∀ (c : Prop) [Decidable c] (b : Bool), Within deliverFrame (if c then do
      modify fun s => { s with alertLow := b }
      emitLand (.alert b) else Pure.pure PUnit.unit) := fun c _ b =>
    Within.ite (Within.bind (fun _ => ⟨rfl, fun _ _ => rfl⟩) fun _ => deliver_emitLand _) (Within.pure _ _)
  dsimp only
  refine Within.ite (Within.bind (fun _ => ⟨rfl, fun _ _ => rfl⟩) fun _ => Within.bind (deliver_emitLand _) fun _ => ?_) ?_ <;>
    exact a _ _

/-! ### How every meaning ends -/

theorem deliver_settle (s : State) : deliverFrame.rel s (settle s) :=
  deliverFrame.trans _ _ _ (deliver_deliverAll 256 s) (deliver_driveLines _)

/-! ### What settling keeps -/

@[simp] theorem settle_now (s : State) : (settle s).now = s.now := by rw [(deliver_settle s).1]
@[simp] theorem settle_wins (s : State) : (settle s).wins = s.wins := by rw [(deliver_settle s).1]
@[simp] theorem settle_imgRegs (s : State) : (settle s).imgRegs = s.imgRegs := by rw [(deliver_settle s).1]
@[simp] theorem settle_paths (s : State) : (settle s).paths = s.paths := by rw [(deliver_settle s).1]
@[simp] theorem settle_snaps (s : State) : (settle s).snaps = s.snaps := by rw [(deliver_settle s).1]
@[simp] theorem settle_pins (s : State) : (settle s).pins = s.pins := by rw [(deliver_settle s).1]
@[simp] theorem settle_otp (s : State) : (settle s).otp = s.otp := by rw [(deliver_settle s).1]
@[simp] theorem settle_keyProg (s : State) : (settle s).keyProg = s.keyProg := by rw [(deliver_settle s).1]
@[simp] theorem settle_flash (s : State) : (settle s).flash = s.flash := by rw [(deliver_settle s).1]
@[simp] theorem settle_pageBuf (s : State) : (settle s).pageBuf = s.pageBuf := by rw [(deliver_settle s).1]
@[simp] theorem settle_flashOp (s : State) : (settle s).flashOp = s.flashOp := by rw [(deliver_settle s).1]
@[simp] theorem settle_loadBuf (s : State) : (settle s).loadBuf = s.loadBuf := by rw [(deliver_settle s).1]
@[simp] theorem settle_mem (s : State) : (settle s).mem = s.mem := by rw [(deliver_settle s).1]
@[simp] theorem settle_memChk (s : State) : (settle s).memChk = s.memChk := by rw [(deliver_settle s).1]
@[simp] theorem settle_memFold (s : State) : (settle s).memFold = s.memFold := by rw [(deliver_settle s).1]
@[simp] theorem settle_slots (s : State) : (settle s).slots = s.slots := by rw [(deliver_settle s).1]
@[simp] theorem settle_hflush (s : State) : (settle s).hflush = s.hflush := by rw [(deliver_settle s).1]
@[simp] theorem settle_search (s : State) : (settle s).search = s.search := by rw [(deliver_settle s).1]
@[simp] theorem settle_ebuf (s : State) : (settle s).ebuf = s.ebuf := by rw [(deliver_settle s).1]
@[simp] theorem settle_dir (s : State) : (settle s).dir = s.dir := by rw [(deliver_settle s).1]
@[simp] theorem settle_inject (s : State) : (settle s).inject = s.inject := by rw [(deliver_settle s).1]
@[simp] theorem settle_recov (s : State) : (settle s).recov = s.recov := by rw [(deliver_settle s).1]
@[simp] theorem settle_recovWait (s : State) : (settle s).recovWait = s.recovWait := by rw [(deliver_settle s).1]
@[simp] theorem settle_flows (s : State) : (settle s).flows = s.flows := by rw [(deliver_settle s).1]
@[simp] theorem settle_chain (s : State) : (settle s).chain = s.chain := by rw [(deliver_settle s).1]
@[simp] theorem settle_trackers (s : State) : (settle s).trackers = s.trackers := by rw [(deliver_settle s).1]
@[simp] theorem settle_arb (s : State) : (settle s).arb = s.arb := by rw [(deliver_settle s).1]
@[simp] theorem settle_locks (s : State) : (settle s).locks = s.locks := by rw [(deliver_settle s).1]
@[simp] theorem settle_waits (s : State) : (settle s).waits = s.waits := by rw [(deliver_settle s).1]
@[simp] theorem settle_evq (s : State) : (settle s).evq = s.evq := by rw [(deliver_settle s).1]
@[simp] theorem settle_breaks (s : State) : (settle s).breaks = s.breaks := by rw [(deliver_settle s).1]
@[simp] theorem settle_ports (s : State) : (settle s).ports = s.ports := by rw [(deliver_settle s).1]
@[simp] theorem settle_tick (s : State) : (settle s).tick = s.tick := by rw [(deliver_settle s).1]
@[simp] theorem settle_live (s : State) : (settle s).live = s.live := by rw [(deliver_settle s).1]
@[simp] theorem settle_evt (s : State) : (settle s).evt = s.evt := by rw [(deliver_settle s).1]
@[simp] theorem settle_active (s : State) : (settle s).active = s.active := by rw [(deliver_settle s).1]
@[simp] theorem settle_applied (s : State) : (settle s).applied = s.applied := by rw [(deliver_settle s).1]
@[simp] theorem settle_pendSet (s : State) : (settle s).pendSet = s.pendSet := by rw [(deliver_settle s).1]
@[simp] theorem settle_retiring (s : State) : (settle s).retiring = s.retiring := by rw [(deliver_settle s).1]
@[simp] theorem settle_fv (s : State) : (settle s).fv = s.fv := by rw [(deliver_settle s).1]
@[simp] theorem settle_weevil (s : State) : (settle s).weevil = s.weevil := by rw [(deliver_settle s).1]
@[simp] theorem settle_sweep (s : State) : (settle s).sweep = s.sweep := by rw [(deliver_settle s).1]
@[simp] theorem settle_kept (s : State) : (settle s).kept = s.kept := by rw [(deliver_settle s).1]
@[simp] theorem settle_haltAt (s : State) : (settle s).haltAt = s.haltAt := by rw [(deliver_settle s).1]
@[simp] theorem settle_partnerDead (s : State) : (settle s).partnerDead = s.partnerDead := by rw [(deliver_settle s).1]
@[simp] theorem settle_dreset (s : State) : (settle s).dreset = s.dreset := by rw [(deliver_settle s).1]
@[simp] theorem settle_power (s : State) : (settle s).power = s.power := by rw [(deliver_settle s).1]
@[simp] theorem settle_nextId (s : State) : (settle s).nextId = s.nextId := by rw [(deliver_settle s).1]
@[simp] theorem settle_stns (s : State) : (settle s).stns = s.stns := by rw [(deliver_settle s).1]
@[simp] theorem settle_qualOk (s : State) : (settle s).qualOk = s.qualOk := by rw [(deliver_settle s).1]
@[simp] theorem settle_cargo (s : State) : (settle s).cargo = s.cargo := by rw [(deliver_settle s).1]
@[simp] theorem settle_svc (s : State) : (settle s).svc = s.svc := by rw [(deliver_settle s).1]
@[simp] theorem settle_jtag (s : State) : (settle s).jtag = s.jtag := by rw [(deliver_settle s).1]
@[simp] theorem settle_pending (s : State) : (settle s).pending = s.pending := by rw [(deliver_settle s).1]

theorem settle_getF (s : State) (f : Fld) (hf : deliveryKey f.key = false) : getF (settle s) f = getF s f := by
  unfold getF
  rw [(deliver_settle s).2 _ hf]

theorem finish_eq (m : M Unit) (s : State) : finish m s = .next { settle (ran m s) with pending := s.pending } := rfl

/-- Every meaning ends in a next state: it keeps the queue; what its own action did outside the reach of deliveries stands. -/
theorem finish_next (m : M Unit) (s : State) : ∃ t, finish m s = .next t ∧ t.pending = s.pending ∧
    deliverFrame.rel { ran m s with pending := s.pending } t := by
  refine ⟨_, finish_eq m s, rfl, ?_, (deliver_settle (ran m s)).2⟩
  rw [(deliver_settle (ran m s)).1]

/-- A field outside the reach of deliveries, after a meaning. -/
theorem finish_getF (m : M Unit) (s t : State) (h : finish m s = .next t) (f : Fld) (hf : deliveryKey f.key = false) :
    getF t f = getF (ran m s) f := by
  obtain ⟨u, hu, -, hr⟩ := finish_next m s
  rw [h] at hu
  obtain rfl : t = u := by injection hu
  unfold getF
  rw [hr.2 _ hf]

end Sys2Proof.Machine
end

