-- ==== Sys2Proof/Laws/Memory.lean ====
section
/-! SUPPORT. The byte stores: reading after a write, and the canonical form that every memory operation keeps. -/

namespace Sys2Proof.Machine

theorem memory_wf_iff (s : State) : Memory.wf s = true ↔
    kvWf (fun _ => (0 : Byte)) s.mem = true ∧ kvWf chkDflt s.memChk = true ∧ kvWf (fun _ => 0xFF#8) s.flash = true ∧
      kvWf (fun _ => 0#8) s.pageBuf = true := by
  simp [Memory.wf, and_assoc]

theorem memory_wf_reset : Memory.wf State.reset = true := by decide

/-- The frame of the canonical form. -/
def wfFrame : Keeps := ⟨fun s t => Memory.wf s = true → Memory.wf t = true, fun _ h => h, fun _ _ _ h k x => k (h x)⟩

theorem wrF_wf (f : Fld) (v : Nat) : Within wfFrame (wrF f v) := fun _ h => h

/-! ### Memory -/

theorem memByte_memPut_same (s : State) (a : Nat) (b : BitVec 13) : memByte (memPut s a b) a = b := by
  have h : b.toNat < 8192 := b.isLt
  apply BitVec.eq_of_toNat_eq
  simp only [memByte, memData, memPut, kvGet_kvSet_same, BitVec.toNat_ofNat]
  omega

theorem memByte_memPut_ne (s : State) {a c : Nat} (b : BitVec 13) (h : c ≠ a) : memByte (memPut s a b) c = memByte s c := by
  simp only [memByte, memData, memPut, kvGet_kvSet_ne _ _ _ h]

theorem memPut_wf (s : State) (a : Nat) (b : BitVec 13) (h : Memory.wf s = true) : Memory.wf (memPut s a b) = true := by
  obtain ⟨h1, h2, h3, h4⟩ := (memory_wf_iff s).1 h
  exact (memory_wf_iff _).2 ⟨kvWf_kvSet _ _ _ _ h1, kvWf_kvSet _ _ _ _ h2, h3, h4⟩

theorem memPutBytes_wf (bs : List (BitVec 13)) : ∀ (a : Nat) (s : State), Memory.wf s = true →
    Memory.wf (memPutBytes a bs s) = true := by
  induction bs with
  | nil => exact fun _ _ h => h
  | cons b t ih => exact fun a s h => ih (a + 1) _ (memPut_wf s a b h)

theorem memPutWord_wf (wa : Nat) (bs : List (BitVec 13)) : Within wfFrame (memPutWord wa bs) :=
  fun s h => memPutBytes_wf bs _ s h

/-- Every byte outside the ones written reads as before. -/
theorem memByte_memPutBytes_out (bs : List (BitVec 13)) : ∀ (a : Nat) (s : State) (c : Nat), (c < a ∨ a + bs.length ≤ c) →
    memByte (memPutBytes a bs s) c = memByte s c := by
  induction bs with
  | nil => exact fun _ _ _ _ => rfl
  | cons b t ih =>
    intro a s c h
    simp only [List.length_cons] at h
    rw [memPutBytes, ih _ _ _ (by omega), memByte_memPut_ne _ _ (by omega)]

/-! ### Dropping entries, flash -/

theorem kvWf_filter {α : Type} [DecidableEq α] (d : Nat → α) (m : KV α) (p : Nat × α → Bool) (h : kvWf d m = true) :
    kvWf d (m.filter p) = true := by
  induction m with
  | nil => rfl
  | cons e t ih =>
    obtain ⟨a, v⟩ := e
    obtain ⟨h1, h2, h3⟩ := (kvWf_cons d a v t).1 h
    rw [List.filter_cons]
    split
    · exact (kvWf_cons d a v _).2 ⟨h1, fun e he => h2 e (List.mem_filter.1 he).1, ih h3⟩
    · exact ih h3

theorem kvWf_append {α : Type} [DecidableEq α] (d : Nat → α) (l m : KV α) (hl : kvWf d l = true) (hm : kvWf d m = true)
    (h : ∀ x ∈ l, ∀ y ∈ m, x.1 < y.1) : kvWf d (l ++ m) = true := by
  induction l with
  | nil => exact hm
  | cons e t ih =>
    obtain ⟨a, v⟩ := e
    obtain ⟨h1, h2, h3⟩ := (kvWf_cons d a v t).1 hl
    refine (kvWf_cons d a v _).2 ⟨h1, ?_, ih h3 fun x hx => h x (List.mem_cons_of_mem _ hx)⟩
    intro e he
    rcases List.mem_append.1 he with he | he
    · exact h2 e he
    · exact h (a, v) List.mem_cons_self e he

/-- Freeing a block only drops entries. -/
theorem freeBlock_wf (r : Nat) : Within wfFrame (freeBlock r) := by
  refine Within.bind (Within.get _) fun s => Within.ite ?_ (Within.pure _ _)
  refine Within.bind (Within.modify fun s h => ?_) fun _ =>
    Within.bind (wrF_wf _ _) fun _ => Within.bind (wrF_wf _ _) fun _ => wrF_wf _ _
  obtain ⟨h1, h2, h3, h4⟩ := (memory_wf_iff s).1 h
  exact (memory_wf_iff _).2 ⟨kvWf_filter _ _ _ h1, kvWf_filter _ _ _ h2, h3, h4⟩

theorem flashCells_wf (a : Nat) (bs : List Byte) :
    kvWf (fun _ => 0xFF#8) (flashCells a bs) = true ∧ ∀ e ∈ flashCells a bs, a ≤ e.1 ∧ e.1 < a + bs.length := by
  have key : ∀ (bs : List Byte) (n : Nat),
      let l := ((bs.zipIdx n).filter fun e => e.1 != 0xFF#8).map fun e => (a + e.2, e.1)
      kvWf (fun _ => 0xFF#8) l = true ∧ ∀ e ∈ l, a + n ≤ e.1 ∧ e.1 < a + n + bs.length := by
    intro bs
    induction bs with
    | nil => intro n; exact ⟨rfl, fun e he => by simp at he⟩
    | cons b t ih =>
      intro n
      obtain ⟨k1, k2⟩ := ih (n + 1)
      simp only [List.zipIdx_cons, List.filter_cons]
      split
      · rename_i hb
        simp only [List.map_cons]
        refine ⟨(kvWf_cons _ _ _ _).2 ⟨by simpa using hb, fun e he => ?_, k1⟩, ?_⟩
        · have := k2 e he; omega
        · intro e he
          rcases List.mem_cons.1 he with rfl | he
          · simp
          · have := k2 e he; simp only [List.length_cons]; omega
      · refine ⟨k1, fun e he => ?_⟩
        have := k2 e he; simp only [List.length_cons]; omega
  exact key bs 0

theorem setFlash_wf (a : Nat) (bs : List Byte) : Within wfFrame (setFlash a bs) := by
  refine Within.modify fun s h => ?_
  obtain ⟨h1, h2, h3, h4⟩ := (memory_wf_iff s).1 h
  obtain ⟨k1, k2⟩ := flashCells_wf a bs
  refine (memory_wf_iff _).2 ⟨h1, h2, ?_, h4⟩
  refine kvWf_append _ _ _ (kvWf_append _ _ _ (kvWf_filter _ _ _ h3) k1 ?_) (kvWf_filter _ _ _ h3) ?_
  · intro x hx y hy
    have := (List.mem_filter.1 hx).2
    have := k2 y hy
    simp at *; omega
  · intro x hx y hy
    have hy := (List.mem_filter.1 hy).2
    rcases List.mem_append.1 hx with hx | hx
    · have := (List.mem_filter.1 hx).2
      simp at *; omega
    · have := k2 x hx
      simp at *; omega

/-- Filling the page buffer keeps its form. -/
theorem fillPage_wf (m : List Host.Cell) (a : Nat) (bs : List Byte) (h : kvWf (fun _ => 0#8) m = true) :
    kvWf (fun _ => 0#8) (fillPage m a bs) = true := by
  unfold fillPage
  generalize bs.zipIdx = l
  induction l generalizing m with
  | nil => exact h
  | cons e t ih => exact ih _ (kvWf_kvSet _ _ _ _ h)

end Sys2Proof.Machine
end

