-- ==== Sys2Proof/Laws/Tables.lean ====
section
/-! SUPPORT. The register tables: looking a register up in the tables of its page finds what the whole table holds. -/

namespace Sys2Proof.Machine

/-- Each row of a table names pages the table spans. -/
def tableHolds (t : PageTable) : Bool :=
  t.rows.all fun r => decide (t.page ≤ r.page ∧ r.page + r.npage ≤ t.page + t.npage)

theorem pageTables_hold : pageTables.all tableHolds = true := by decide +kernel

theorem hit_page {r : FieldRow} {page off : Nat} (h : r.hit page off = true) : r.page ≤ page ∧ page < r.page + r.npage := by
  simp only [FieldRow.hit, Bool.and_eq_true, decide_eq_true_eq] at h
  exact h.1.1

/-- A table that does not span a page holds no row of it. -/
theorem table_misses {t : PageTable} {page : Nat} (ht : tableHolds t = true) (h : ¬ (t.page ≤ page ∧ page < t.page + t.npage))
    (off : Nat) : (t.rows.filter fun r => r.hit page off) = [] := by
  rw [List.filter_eq_nil_iff]
  intro r hr hit
  have hp := hit_page hit
  simp only [tableHolds, List.all_eq_true, decide_eq_true_eq] at ht
  have := ht r hr
  omega

theorem tables_filter (ts : List PageTable) (hs : ts.all tableHolds = true) (page off : Nat) :
    (((ts.filter fun t => decide (t.page ≤ page ∧ page < t.page + t.npage)).map fun t => t.rows).flatten.filter
      fun r => r.hit page off) = ((ts.map fun t => t.rows).flatten.filter fun r => r.hit page off) := by
  induction ts with
  | nil => rfl
  | cons t ts ih =>
    simp only [List.all_cons, Bool.and_eq_true] at hs
    by_cases h : t.page ≤ page ∧ page < t.page + t.npage
    · simp only [List.filter_cons, h, and_self, decide_true, if_true, List.map_cons, List.flatten_cons, List.filter_append, ih hs.2]
    · simp only [List.filter_cons, h, decide_false, Bool.false_eq_true, if_false, List.map_cons, List.flatten_cons,
        List.filter_append, ih hs.2, table_misses hs.1 h off, List.nil_append]

theorem rowsOfPage_filter (page off : Nat) :
    ((rowsOfPage page).filter fun r => r.hit page off) = fieldTable.filter fun r => r.hit page off :=
  tables_filter pageTables pageTables_hold page off

end Sys2Proof.Machine
end

