-- ==== Sys2Proof/Machine/Wire.lean ====
section
/-! DEFINITION. What stands on the lanes: the octets and code groups of everything the hub sends (04 R151-R157, R170, R174; 12 R517,
R518, R520, R524-R526; 13 R557-R562). The running disparity of a lane is what the outputs so far have left it at. -/

namespace Sys2Proof.Machine

/-! ### Control flits (R170, R521, R524) -/

/-- Freed-buffer counters in payload bits 16 and up, REQ lowest. -/
def counterBits (freed : List Nat) : Nat := bytesToNat freed * 2 ^ 16

/-- The payload of a control flit: CTYPE in bits 7:0, ACK_SEQ or training state in 15:8, the counters or capabilities above. -/
def ctlPayload : Ctl → Nat
  | .status ack freed => 0x01 + ack * 2 ^ 8 + counterBits freed
  | .nak ack freed => 0x02 + ack * 2 ^ 8 + counterBits freed
  | .ts1 state => 0x10 + state * 2 ^ 8
  | .ts2 payload => 0x11 + payload * 2 ^ 8
  | .retrain => 0x20
  | .skip => 0

/-- Header of a control flit: FT=0b01, VC and SEQ 0 (R158). -/
def ctlHdr : Nat := hdrBits 1 0 0 false false

/-- The octets of a control flit. A training flit has K28.5 in byte 0, the striped TS1 of the pair link in bytes 0 to 3. -/
def ctlOctets (lk : LinkSel) : Ctl → List Octet
  | .skip => skipOctets
  | .ts1 n => trainingOctets (if lk = .pair ∧ n ≠ 1 then 4 else 1) (ctlPayload (.ts1 n))
  | .ts2 v => trainingOctets 1 (ctlPayload (.ts2 v))
  | c => flitOctets ctlHdr (ctlPayload c)

/-! ### The pair link (12) -/

/-- A payload with the opcode and the address at the places of 04 R161 and the other bits left open by the spec (log 126). -/
def openPayload (op ha : Nat) (m : PairMsg) : Nat :=
  let w := (Config.recordBits m).toNat
  op + w / 2 ^ 8 % 2 ^ 56 * 2 ^ 8 + ha * 2 ^ 64 + w / 2 ^ 112 * 2 ^ 112

def snpOpcode : SnpKind → Nat
  | .snpS => 0x20 | .snpInv => 0x21 | .snpFwdS => 0x22 | .snpFwdU => 0x23 | .snpFlushSet => 0x24

/-- Payload of the first flit of a message on the pair link: the control flits of R524, messages in the layout of 04 R161 with the HA as
their address; the layout of the other records is open (log 126). -/
def pairPayload (m : PairMsg) : Nat :=
  match m with
  | .tickMark k num => 0x30 + k * 2 ^ 8 + num * 2 ^ 16
  | .flipMark k num rel => 0x31 + k * 2 ^ 8 + num * 2 ^ 16 + rel.toNat * 2 ^ 48
  | .echo n => 0x32 + n * 2 ^ 8
  | .echoRsp n => 0x33 + n * 2 ^ 8
  | .request op agent tag tenant ha spec _ =>
    op + tag * 2 ^ 8 + tenant * 2 ^ 14 + agent * 2 ^ 19 + spec % 2 ^ 40 * 2 ^ 24 + ha * 2 ^ 64 + spec / 2 ^ 40 * 2 ^ 112
  | .answer _ a => payloadOf a
  | .edata agent tag line _ => 0x3A + tag * 2 ^ 8 + agent * 2 ^ 19 + line * 64 * 2 ^ 64
  | .verdict agent tag line confirm reason =>
    (if confirm then 0x3B else 0x3C) + tag * 2 ^ 8 + agent * 2 ^ 19 + reason * 2 ^ 24 + line * 64 * 2 ^ 64
  | .snoop _ kind ha _ => openPayload (snpOpcode kind) ha m
  | .response _ op ha _ => openPayload op ha m
  | _ => (Config.recordBits m).toNat

/-- Is it one of the control flits of R524? -/
def isPairCtl : PairMsg → Bool
  | .tickMark _ _ => true
  | .flipMark _ _ _ => true
  | .echo _ => true
  | .echoRsp _ => true
  | _ => false

/-- The data flits of a message on the pair link; what a record carries there is open (log 126). -/
def pairQuads : PairMsg → LineData
  | .request _ _ _ _ _ _ d => d
  | .answer _ m => m.data
  | .edata _ _ _ d => d
  | .response _ _ _ d => d
  | .msgOp _ _ _ _ _ _ d => d
  | .engineWrite _ _ d => d
  | .engineAnswer _ d => d
  | m => (List.range (pairData m)).map fun i => ⟨Config.recordBits (m, i), false⟩

/-- The flits of a message on the pair link, as octets. -/
def pairOctets (seq : Nat) (m : PairMsg) : List Octet :=
  if isPairCtl m then flitOctets ctlHdr (pairPayload m)
  else flitOctets (hdrBits 0 (pairChan m) seq false false) (pairPayload m) ++
    (dataFlits (seq + 1) (pairQuads m)).flatMap fun f => flitOctets (hdrBits f.ft f.vc f.seq f.poison f.last) f.payload

/-! ### The fabric (13) -/

/-- The 48 header bits of a frame (R561). -/
def frameHeader (f : Frame) : Nat :=
  f.dst.toNat + f.src.toNat * 2 ^ 6 + f.cls.val * 2 ^ 12 + f.vc.val * 2 ^ 15 + f.hops.val * 2 ^ 16 + f.seq.toNat * 2 ^ 20 +
    f.payload.length * 2 ^ 36

/-- The bytes of a frame: header, payload, CRC-32 low byte first (R561, R562). -/
def frameBytes (f : Frame) : List Nat :=
  let bs := natToBytes 6 (frameHeader f) ++ f.payload.map (·.toNat)
  bs ++ natToBytes 4 (crc32 bs)

/-- /S/, the bytes of a frame, /T/R/, and a further /R/ where the next ordered set would else start on an odd code group (R559). -/
def framedOctets (f : Frame) : List Octet :=
  let bs := frameBytes f
  startOctet :: bs.map dataOctet ++ endOctet :: extendOctet :: (if bs.length % 2 = 0 then [extendOctet] else [])

/-- /I/: K28.5 with D5.6 at positive running disparity, which turns it, else with D16.2 (R557). -/
def idleOctets (rd : Bool) : List Octet := [comma, dataOctet (if rd then 0xC5 else 0x50)]

/-- `n` idle ordered sets from a running disparity. -/
def idleSets (rd : Bool) : Nat → List Octet
  | 0 => []
  | n + 1 => idleOctets rd ++ idleSets false n

/-- A frame with the gap after it: four idle ordered sets, so that at least 10 code groups stand from /T/ to the next /S/ (R559). -/
def frameOctets (rd : Bool) (f : Frame) : List Octet :=
  framedOctets f ++ idleSets (codeLane rd (framedOctets f)).2 4

/-- The configuration register of Clause 37: FD in bit 5; HD, PS1, PS2, RF and the next-page bit 0 (R558). -/
def anBasePage : Nat := 0x0020

/-- /C/: the ordered sets C1 and C2 with the base page (R557, R558). -/
def configOctets : List Octet :=
  let page := (natToBytes 2 anBasePage).map dataOctet
  [comma, dataOctet 0xB5] ++ page ++ [comma, dataOctet 0x42] ++ page

/-! ### The lanes -/

/-- A lane that the hub sends on: an agent port, one of the four lanes of the pair link, a fabric port. -/
inductive TxLane where
  | aport (p : Fin 16) | pair (k : Fin 4) | fport (p : Fin 4)
  deriving DecidableEq, Repr

/-- The octets that an output puts on a lane at its running disparity. In ALIGN every lane of the pair link sends the training flit
alone (R525). -/
def laneOctets (ln : TxLane) (rd : Bool) (o : Out) : List Octet :=
  match ln, o with
  | .aport p, .flit q f => if q = p.val then (flitWire f).map dataOctet else []
  | .aport p, .ctl (.aport q) c => if q = p then ctlOctets (.aport q) c else []
  | .pair k, .ctl .pair c => if c = .ts1 1 then ctlOctets .pair c else laneShare k.val (ctlOctets .pair c)
  | .pair k, .pair seq m =>
    let os := pairOctets seq m
    (List.range (os.length / 20)).flatMap fun i => laneShare k.val (os.drop (20 * i))
  | .fport p, .frame q f => if q = p.val then frameOctets rd f else []
  | .fport p, .config q => if q = p.val then configOctets else []
  | _, _ => []

/-- The code groups of outputs on a lane and the running disparity after them; negative at first (R151, log 125). -/
def laneGroups (ln : TxLane) : Bool → List Out → List (BitVec 10) × Bool
  | rd, [] => ([], rd)
  | rd, o :: t =>
    let (gs, rd1) := codeLane rd (laneOctets ln rd o)
    let (hs, rd2) := laneGroups ln rd1 t
    (gs ++ hs, rd2)

/-- The running disparity that a lane holds now: true is positive. -/
def runningDisparity (s : State) (ln : TxLane) : Bool := (laneGroups ln false s.outs).2

end Sys2Proof.Machine
end

