-- ==== Sys2Proof/WellFormed.lean ====
section
/-! DEFINITION. Well-formed commands: what the sender's side of the spec fixes of the operands beyond their types. -/

namespace Sys2Proof

/-- Line messages carry an address with bits 5:0 zero (04 R161). -/
def lineAddr (h : Hdr) : Bool := h.addr.toNat % 64 == 0

/-- Word messages name a 16-byte word: bits 3:0 zero (05 R213). -/
def wordAddr (h : Hdr) : Bool := h.addr.toNat % 16 == 0

/-- Freed-buffer counters: six on an agent link (04 R170), eight on the pair link (12 R521). -/
def freedOk (lk : LinkSel) (freed : List (BitVec 8)) : Bool :=
  match lk with | .aport _ => freed.length == 6 | .pair => freed.length == 8

/-- Advertised credits come one for each of the six channels. -/
def capsOk (c : Ts2) : Bool := c.credits.length == 6

/-- LEN runs from 0 to 256 (13 R561). -/
def frameOk (f : Frame) : Bool := decide (f.payload.length ≤ 256)

/-- A configuration address is a multiple of 4 (17 R766). -/
def caOk (ca : BitVec 24) : Bool := ca.toNat % 4 == 0

/-- Is the command well formed? -/
def WellFormed : Instr → Bool
  | .registerWrite _ ca _ => caOk ca
  | .multiWordLowRead _ ca => caOk ca
  | .multiWordHighWrite _ ca _ => caOk ca
  | .aliasAccess _ ca _ => caOk ca
  | .rdS h _ => lineAddr h
  | .rdU h => lineAddr h
  | .upg h _ => lineAddr h
  | .rdOnce h => lineAddr h
  | .evClean h => lineAddr h
  | .lkRd h _ => lineAddr h
  | .ulWr h _ _ => lineAddr h
  | .wrBack h _ => lineAddr h
  | .wrFull h _ => lineAddr h
  | .wrPartial h _ _ => wordAddr h
  | .hAtom h _ _ => wordAddr h
  | .status lk _ freed => freedOk lk freed
  | .nak lk _ freed => freedOk lk freed
  | .ts2 _ caps => capsOk caps
  | .frameForward _ f => frameOk f
  | .hello _ f => frameOk f
  | .links _ f => frameOk f
  | .route _ f => frameOk f
  | .routeAck _ f => frameOk f
  | .credit _ f => frameOk f
  | .fabricEcho _ f _ => frameOk f
  | .fabricEchoRsp _ f _ => frameOk f
  | .syncEdge _ f _ _ => frameOk f
  | .syncStretch _ f => frameOk f
  | .stnIn _ f => frameOk f
  | .bindAck _ f => frameOk f
  | .mbxPostFrame _ f => frameOk f
  | .mbxAckFrame _ f => frameOk f
  | _ => true

end Sys2Proof
end

