-- ==== Sys2Proof/Tests/Slice0.lean ====
section
/-! SUPPORT. Tests: the worked cases of spec/, an ill-formed command for each check of WellFormed, and for every
obligation that has hypotheses a state and operands that meet them (wit_NAME for the obligation NAME, one witness for
each of its clauses). The states are helpers that set a few fields of the machine after reset. -/

namespace Sys2Proof.Tests

open Sys2Proof Sys2Proof.Machine

set_option Elab.async false
set_option linter.unusedVariables false

/-! ### States and operands -/

/-- A hub in stage RUN. -/
def sRun : State := sets State.reset [(R.BOOT_STAT_STAGE, 4)]

/-- The same with further fields. -/
def sWith (l : List (Fld × Nat)) : State := sets sRun l

/-- The master of a joined pair, its pair link ACTIVE. -/
def sPair : State := sWith [(R.PAIR_CTL_EN, 1), (R.PAIR_STAT_JOINED, 1), (R.PAIR_STAT_LSTATE, 6)]

/-- Hub 1 of a joined pair. -/
def sHub1 : State := sets sPair [(R.PAIR_STAT_ROLE, 1)]

/-- A tick of 250 µs that has just reached an offset. -/
def sTick (s : State) (off : Nat) : State := { s with tick := { Tick.empty with
  running := true, started := true, offset := off, len := 25000, base := 25000, period := 25000, precommit := 500, budget := 1000, release := 10000,
  hkStart := 12000, hkLen := 2000, cutoff := 3000 } }

/-- A window over region 0. -/
def wOpen : Window := ⟨[0], 0, 0, [], [], false, false, false⟩

/-- The same with another tick, frame-versioned state or pair. -/
def tk (s : State) (f : Tick → Tick) : State := { s with tick := f s.tick }
def withCommit (s : State) (w : Window) : State := { s with fv := { Fv.empty with commit := some w } }
def withRelease (s : State) (w : Window) : State := { s with fv := { Fv.empty with release := some w } }
def withActive (s : State) (l : KV Desc) : State := { s with active := l }
def withEvt (s : State) (f : Evt → Evt) : State := { s with evt := f s.evt }

/-- A valid region of 1 MiB at an HA, with a policy. -/
def rgn (base policy : Nat) (out : Bool) : Desc := ⟨true, base, 20, policy, 0, 0, out, false, 0, 0xFFFFFFFF, 0xFFFFFFFF, 0xFFFFFFFF⟩

/-- Port 0 in ACTIVE, with a window over the first 256 MiB and tenant 0, and a WB region 0 of 1 MiB. -/
def sPort : State := withActive (sWith [(R.APORT_STAT_LSTATE 0, 4), (R.APORT_CTL_EN 0, 1), (R.APORT_WIN_CTL_EN 0 0, 1),
  (R.APORT_WIN_CTL_SIZE_LOG2 0 0, 28), (R.APORT_TEN_MASK_T 0, 1), (R.TENANT_CTL_EN 0, 1)]) [(0, rgn 0 0 false)]

/-- The same as the master of a joined pair, whose region lies on both hubs. -/
def sPortPair : State := sets sPort [(R.PAIR_CTL_EN, 1), (R.PAIR_STAT_JOINED, 1), (R.PAIR_STAT_LSTATE, 6)]

def withPort (s : State) (p : Nat) (f : Port → Port) : State := { s with ports := [(p, f Port.empty)] }

/-- A request of port 0, and a header of it. -/
def hd (tag : Fin 64) (vc : Fin 8) (a : BitVec 48) : Hdr := ⟨.agent 0, 0, vc, tag, 0, a⟩
def rq (op : ReqOp) (line : Nat) : Req := ⟨0, .port 0, op, 5, 0, 0, line * 64, line, 0, false, 0, [], 0, 0, 0, 0, 0, false, false, false, false⟩
def tagSt (op : Nat) : TagSt := ⟨0, op, 0, 0, 0, 0, 0, 0, 0, 0, false, 3, false⟩
def snp (k : SnpKind) : Snoop := ⟨k, 64, false, 0, 1000, 0, false, false, false, 0⟩
def rh (sid : Fin 64) (vc : Fin 8) : RspHdr := ⟨.agent 0, 0, vc, sid, 0x1000⟩

/-- A record of an image that writes a register. -/
def imgRec (f : Fld) (v : Nat) : List Nat := natToBytes 4 (1 + f.page * 2 ^ 8 + f.off * 2 ^ 16) ++ natToBytes 4 v

/-- The bytes of an image with SEQ 7 that sets a phase layout. -/
def goodHead : List Nat := natToBytes 4 0x4B583249 ++ natToBytes 2 1 ++ natToBytes 2 0 ++ natToBytes 4 88 ++ natToBytes 4 7 ++ [0x10] ++
  List.replicate 47 0 ++ imgRec R.TICK_PERIOD_NS10 25000 ++ imgRec R.TICK_HK_START_NS10 12000 ++ imgRec R.TICK_RELEASE_NS10 10000
def goodImage : List Byte := (goodHead ++ natToBytes 4 (crc32 goodHead)).map (BitVec.ofNat 8)

/-! ### Worked cases of the manual -/

/-- 04 R157: the CRC-16 of the nine ASCII bytes "123456789". -/
theorem test_crc16 : crc16 [0x31, 0x32, 0x33, 0x34, 0x35, 0x36, 0x37, 0x38, 0x39] = 0x29B1 := by decide +kernel

/-- IEEE 802.3's own check value (13 R562 names the CRC). -/
theorem test_crc32 : crc32 [0x31, 0x32, 0x33, 0x34, 0x35, 0x36, 0x37, 0x38, 0x39] = 0xCBF43926 := by decide +kernel

/-- The check value of the SMBus CRC-8 (17 R783 names the CRC). -/
theorem test_crc8 : crc8 [0x31, 0x32, 0x33, 0x34, 0x35, 0x36, 0x37, 0x38, 0x39] = 0xF4 := by decide +kernel

/-- FIPS 180-4's example "abc", first byte (16 R745 names the hash). -/
theorem test_sha256 : (sha256 [0x61, 0x62, 0x63]).take 4 = [0xBA, 0x78, 0x16, 0xBF] := by decide +kernel

/-- IEEE 802.3 Clause 36, its tables of code groups: D0.0, K28.5 at both disparities, D5.6, D16.2, /S/, /R/ (04 R151 and 13 R557 name
the code). -/
theorem test_code_groups : (codeGroup false (dataOctet 0)).1 = 0b1001110100#10 ∧ (codeGroup false comma).1 = 0b0011111010#10 ∧
    (codeGroup true comma).1 = 0b1100000101#10 ∧ (codeGroup false (dataOctet 0xC5)).1 = 0b1010010110#10 ∧
    (codeGroup false (dataOctet 0x50)).1 = 0b0110110101#10 ∧ (codeGroup false startOctet).1 = 0b1101101000#10 ∧
    (codeGroup false extendOctet).1 = 0b1110101000#10 := by decide +kernel

/-- 09, worked case of check bits, steps 1 to 3. -/
theorem test_check_bits : foldWa 0x0018A52C = 0x91 ∧ foldA 0x91 = 0b11000 ∧ foldB 0x91 = 0b11101 ∧
    checkBits 0x3C 0 0x91 = 0b11101 ∧ checkBits 0x3C 1 0x91 = 0b11000 := by decide +kernel

/-- The same, step 4: bit d3 of lane 0 flips. -/
theorem test_single_error : syndrome (storeByte 0x3C 0 0x91 ^^^ 8#13) 0 0x91 = 0b01101 ∧
    decodeSyndrome 0b01101 = .data 3 ∧ correctByte (storeByte 0x3C 0 0x91 ^^^ 8#13) 0 0x91 = 0x3C := by decide +kernel

/-- The same, step 5: the word of SA 0x018A_42C0 comes back instead. -/
theorem test_wrong_word : foldWa 0x0018A42C = 0x90 ∧ syndrome (storeByte 0x3C 0 0x90) 0 0x91 = 0b00011 ∧
    syndrome (storeByte 0x3C 1 0x90) 1 0x91 = 0b00110 ∧
    classWord 0x91 (encodeQuad 0x90 ⟨0x3C3C#128, false⟩) = .address := by decide +kernel

/-- A stored word reads back clean, and a poisoned word as POISON (09 R399, R400). -/
theorem test_word_classes : classWord 0x91 (encodeQuad 0x91 ⟨0xDEADBEEF#128, false⟩) = .clean ∧
    decodeQuad 0x91 (encodeQuad 0x91 ⟨0xDEADBEEF#128, false⟩) = ⟨0xDEADBEEF#128, false⟩ ∧
    classWord 0x91 (encodeQuad 0x91 ⟨0#128, true⟩) = .poison := by decide +kernel

/-- 08, worked case of the first four victim starts. -/
theorem test_lfsr : lfsrStep 0xACE1 = 0x59C3 ∧ lfsrStep 0x59C3 = 0xB387 ∧ lfsrStep 0xB387 = 0x670F ∧
    lfsrStep 0x670F = 0xCE1E := by decide +kernel

/-- 08, worked case of a tag parity error: the set and tag of HA 0x0314_B2C0. -/
theorem test_set_and_tag : Machine.setOf (0x0314B2C0 / 64) = 0x52D3 ∧ tagOfLine (0x0314B2C0 / 64) = 0x018 ∧
    lineOfEntry 0x52D3 0x018 = 0x0314B2C0 / 64 := by decide +kernel

/-- 03, worked case of translation: the hub and LA of HA 0x0314_B2C0 in a pair with ILV=1. -/
theorem test_interleave :
    homeOf (sets sPair [(R.REGION_HA_MAP_ILV, 1)]) 0x0314B2C0 = 1 ∧
    laOf (sets sPair [(R.REGION_HA_MAP_ILV, 1)]) 0x0314B2C0 = 0x018A52C0 := by decide +kernel

/-- 02, worked case of a stretched tick, step 2: the bound of 30 invalidations and 50 carries, in 10 ns. -/
theorem test_bound : boundOf 30 50 = 296 := by decide

/-- 18, worked case of two registers: SVC_CMD of mailbox 200 from the master, and the KX1 alias of TEN_MASK of port 6. -/
theorem test_register_addresses : caHub 0x164338 = 1 ∧ caPage 0x164338 = 0x64 ∧ caOff 0x164338 = 0x338 ∧
    caPage 0x085880 = 0x85 ∧ aliasTarget sRun 0x85 0x880 = .reg 0x0E 0x100 := by decide +kernel

/-- 20, worked case of a KX1 driver: steps 2 to 5. -/
theorem test_kx1_driver : aliasTarget sRun 0x8E 0x040 = .removed ∧ aliasTarget sRun 0x81 0x048 = .reg 0x01 0x048 ∧
    aliasTarget sRun 0x85 0xB80 = .reg 0x0F 0x040 ∧ aliasTarget sRun 0x80 0x140 = .removed := by decide +kernel

/-- 13, worked case of a Firefly correction at hub B, steps 4 and 5: e = +80 ns. -/
def sFirefly : State :=
  let s := sets (sTick sRun 248) [(R.FABRIC_FF_CTL_STEP_MAX, 100), (R.FABRIC_FF_TRIM_TRIM, 192), (R.TICK_PERIOD_NS10, 25000)]
  { s with fabric := { s.fabric with acc := 128 } }

theorem test_firefly :
    (ran (acceptSync 80) sFirefly).tick.len = 24992 ∧ (ran (acceptSync 80) sFirefly).fabric.acc = 64 ∧
    getF (ran (acceptSync 80) sFirefly) R.FABRIC_FF_ERR_NS = 80 ∧
    signedOf 16 (getF (ran (acceptSync 80) sFirefly) R.FABRIC_FF_TRIM_TRIM) = -64 := by decide +kernel

/-! ### The register tables -/

/-- The rows listed as not 0 at reset are those of the whole table. -/
theorem test_reset_rows : nzRows = fieldTable.filter (fun r => r.dflt != 0) := by decide +kernel

/-- Every stored field marked mirrored lies in a mirrored register (12 R532). -/
theorem test_mirrored_rows : (fieldTable.filter (fun r => r.mir && r.acc != .wo)).all (fun r => mirrorKeys.contains (regKey r.page r.off)) := by
  decide +kernel

/-- No field reaches beyond bit 31, and each width is at least one bit. -/
theorem test_field_places : fieldTable.all (fun r => decide (1 ≤ r.w ∧ r.lo + r.w ≤ 32)) := by decide +kernel

/-- The memory of the machine after reset is in canonical form. -/
theorem test_reset_memory : Memory.wf State.reset = true := memory_wf_reset

/-- The queue of the machine after reset is empty, and stepping it lets time pass. -/
theorem test_first_step : State.reset.pending = [] ∧
    (match step State.reset with | .next t => t.now == 10 | _ => false) = true := by decide +kernel

/-! ### Ill-formed commands, one for each check of WellFormed -/

def badHdr : Hdr := ⟨.agent 0, 0, 0, 5, 0, 0x1001#48⟩
def aFrame : Frame := ⟨0, 0, 0, 0, 0, 0, []⟩
def bigFrame : Frame := { aFrame with payload := List.replicate 257 0#8 }

theorem test_wellformed_ca : WellFormed (.registerWrite .spi 0x001042#24 0) = false ∧
    WellFormed (.registerWrite .spi 0x001044#24 0) = true := by decide
theorem test_wellformed_line : WellFormed (.rdU badHdr) = false ∧ WellFormed (.rdU { badHdr with addr := 0x1010#48 }) = false ∧
    WellFormed (.rdU { badHdr with addr := 0x1040#48 }) = true := by decide
theorem test_wellformed_word : WellFormed (.wrPartial badHdr 0 []) = false ∧
    WellFormed (.wrPartial { badHdr with addr := 0x1010#48 } 0 []) = true := by decide
theorem test_wellformed_credits : WellFormed (.status (.aport 0) 0 [0, 0, 0, 0, 0, 0, 0, 0]) = false ∧
    WellFormed (.status .pair 0 [0, 0, 0, 0, 0, 0, 0, 0]) = true := by decide
theorem test_wellformed_frame : WellFormed (.links 0 bigFrame) = false ∧ WellFormed (.links 0 aFrame) = true := by decide +kernel

/-! ### Witnesses of the hypotheses of the obligations -/

theorem wit_IdleStepCountsTime :
    ∃ s : State, s.pending = [] :=
  ⟨sRun, by decide +kernel⟩

theorem wit_NirqFollowsPendingPages :
    ∃ s t : State, Machine.step s = .next t :=
  ⟨sRun, _, rfl⟩

theorem wit_AlertFollowsPendingPages :
    ∃ s t : State, Machine.step s = .next t :=
  ⟨sRun, _, rfl⟩

theorem wit_RegisterWriteSetsFields :
    (∃ (path : Path) (ca : BitVec 24) (v : Word) (s : State), ownCa path ca.toNat ∧ quietReg (caPage ca.toNat) (caOff
      ca.toNat) ∧ accepted path (caPage ca.toNat) (caOff ca.toNat) v s) ∧
    (∃ (path : Path) (ca : BitVec 24) (v : Word) (c : Nat) (s : State), ownCa path ca.toNat ∧ quietReg (caPage ca.toNat)
      (caOff ca.toNat) ∧ served path (caPage ca.toNat) s ∧ (writeResult path s (caPage ca.toNat) (caOff ca.toNat) v).2 = [c]
      ∧ getF s (capValid (caPage ca.toNat)) = 0 ∧ c < 256) :=
  ⟨⟨.spi, 0x029044#24, 5, sRun, by decide +kernel⟩, ⟨.spi, 0x033044#24, 9000, 0xF0, sRun, by decide +kernel⟩⟩

theorem wit_FieldsAreWrittenOneByOne :
    (∃ (s : State) (img : Bool) (page off : Nat) (old v : Word) (rows : List FieldRow), (rows.Pairwise (fun a b => a.lo + a.w
      ≤ b.lo ∨ b.lo + b.w ≤ a.lo)) ∧ (∀ r ∈ rows, r.lo + r.w ≤ 32) ∧ rows ≠ []) ∧
    (∃ (s : State) (img : Bool) (page off : Nat) (old v : Word) (r : FieldRow), r.acc = .rw ∧ img = false ∧ refusals s img
      page off r (fieldOf v r.lo r.w) = []) :=
  ⟨⟨sRun, false, 0x29, 0x044, 0, 5, rowsAt 0x29 0x044, by decide +kernel⟩, ⟨sRun, false, 0x29, 0x044, 0, 5, (rowsAt 0x29
    0x044).headD ⟨0, 0, 0, [], 0, 0, .ro, 0, 0, false, .any, false, false⟩, by decide +kernel⟩⟩

theorem wit_MultiWordValues :
    (∃ (path : Path) (ca : BitVec 24) (base n : Nat) (s : State), ownCa path ca.toNat ∧ reads path s ∧ groupOf (caPage
      ca.toNat) (caOff ca.toNat) = some (base, 0, n) ∧ rowsAt (caPage ca.toNat) (caOff ca.toNat) ≠ []) ∧
    (∃ (path : Path) (ca : BitVec 24) (base i n : Nat) (w : Word) (s : State), ownCa path ca.toNat ∧ reads path s ∧ pathNo
      path < 19 ∧ groupOf (caPage ca.toNat) (caOff ca.toNat) = some (base, i, n) ∧ 0 < i ∧ rowsAt (caPage ca.toNat) (caOff
      ca.toNat) ≠ [] ∧ noted (pathSt s (pathNo path)).latch (regKey (caPage ca.toNat) (caOff ca.toNat)) = some w) ∧
    (∃ (path : Path) (ca : BitVec 24) (base i n : Nat) (v : Word) (s : State), ownCa path ca.toNat ∧ served path (caPage
      ca.toNat) s ∧ groupOf (caPage ca.toNat) (caOff ca.toNat) = some (base, i, n) ∧ i + 1 < n ∧ groupWritable (caPage
      ca.toNat) (caOff ca.toNat) ∧ rowsAt (caPage ca.toNat) (caOff ca.toNat) ≠ []) ∧
    (∃ (path : Path) (a : Fin 16) (lo v : Word) (s : State), noted (pathSt s (pathNo path)).held (regKey 0x20 (0x100 + 16 *
      a.val)) = some lo ∧ accepted path 0x20 (0x100 + 16 * a.val) lo s ∧ accepted path 0x20 (0x104 + 16 * a.val) v s) :=
  ⟨⟨.spi, 0x020048#24, 0x048, 2, sRun, by decide +kernel⟩, ⟨.spi, 0x02004C#24, 0x048, 1, 2, 7,
    ({ sRun with paths := [(0, ⟨[(regKey 0x20 0x04C, 7)], []⟩)] }), by decide +kernel⟩, ⟨.spi, 0x020100#24, 0x100, 0, 2, 9,
    sRun, by decide +kernel⟩, ⟨.spi, 3, 5, 6, ({ sRun with paths := [(0, ⟨[], [(regKey 0x20 0x130, 5)]⟩)] }),
    by decide +kernel⟩⟩

theorem wit_TickRegistersAct :
    (∃ (path : Path) (v : Word) (s : State), ownCa path R.TICK_CTL_RUN.key ∧ accepted path 0x01 0x040 (withField v 0 1 1) s ∧
      mayStart s ∧ (isHub1 s && !pairOn s) = false ∧ s.tick.running = false ∧ bitOf v R.TICK_CTL_FAULT_CLR = false) ∧
    (∃ (path : Path) (v : Word) (s : State), ownCa path R.TICK_CTL_RUN.key ∧ accepted path 0x01 0x040 (withField v 0 1 1) s ∧
      awaitsJoin s ∧ bitOf v R.TICK_CTL_FAULT_CLR = false) ∧
    (∃ (path : Path) (v : Word) (s : State), ownCa path R.TICK_CTL_RUN.key ∧ accepted path 0x01 0x040 (withField v 0 1 0) s ∧
      awaitsJoin s = false ∧ (isHub1 s && !pairOn s) = false ∧ s.tick.running ∧ getF s R.TICK_CTL_RUN = 1 ∧ s.fv.commit =
      none ∧ s.fv.release = none ∧ s.pendSet = none) ∧
    (∃ (path : Path) (v : Word) (s : State), ownCa path R.TICK_PERIOD_NS10.key ∧ accepted path 0x01 0x044 v s ∧ breaksLayout
      s R.TICK_PERIOD_NS10.key (writeResult path s 0x01 0x044 v).1 = false) ∧
    (∃ (path : Path) (r : PhaseReg) (v : Word) (s : State), ownCa path (phaseFld r).key ∧ accepted path 0x01 (phaseFld r).off
      v s ∧ breaksLayout s (phaseFld r).key (writeResult path s 0x01 (phaseFld r).off v).1 = false) ∧
    (∃ (path : Path) (r : PhaseReg) (v : Word) (s : State), ownCa path (phaseFld r).key ∧ served path 0x01 s ∧ isImage path =
      false ∧ breaksLayout s (phaseFld r).key (writeResult path s 0x01 (phaseFld r).off v).1) ∧
    (∃ (path : Path) (v : Word) (s : State), ownCa path R.TICK_CTL_RUN.key ∧ accepted path 0x01 0x040 (withField v 8 1 1) s ∧
      s.tick.running ∧ fieldOf v 0 1 = 1 ∧ getF s R.TICK_CTL_RUN = 1 ∧ awaitsJoin s = false ∧ (isHub1 s && !pairOn s) = false
      ∧ getF s R.TICK_STAT_FAULTED = 1) :=
  ⟨⟨.spi, 0, sRun, by decide +kernel⟩, ⟨.spi, 0, (sWith [(R.PAIR_CTL_EN, 1)]), by decide +kernel⟩, ⟨.spi, 0, (sTick (sWith
    [(R.TICK_CTL_RUN, 1)]) 5), by decide +kernel⟩, ⟨.spi, 25000, (sTick sRun 5), by decide +kernel⟩, ⟨.spi, .hkLen, 2000,
    (sTick sRun 5), by decide +kernel⟩, ⟨.spi, .commitBudget, 20000, (sWith [(R.TICK_PERIOD_NS10, 25000),
    (R.TICK_COMMIT_BUDGET_NS10, 1000), (R.TICK_RELEASE_NS10, 10000), (R.TICK_HK_START_NS10, 12000), (R.TICK_HK_LEN_NS10,
    2000), (R.TICK_IN_CUTOFF_NS10, 3000)]), by decide +kernel⟩, ⟨.spi, 1, (sTick (sWith [(R.TICK_CTL_RUN, 1),
    (R.TICK_STAT_FAULTED, 1)]) 5), by decide +kernel⟩⟩

theorem wit_TickEdgeStartsANewTick :
    (∃ (s : State), s.tick.running ∧ ownEdges s ∧ s.tick.len ≤ s.tick.offset ∧ linkOut s = false ∧ isMirror s = false ∧
      s.active = [] ∧ s.fv.commit = none ∧ s.fv.release = none ∧ s.pendSet = none ∧ s.live = [] ∧ s.locks = [] ∧ s.waits = []
      ∧ s.pair.mirrorQ = [] ∧ s.pair.acked = [] ∧ 120 ≤ getF s R.TICK_COMMIT_BUDGET_NS10 ∧ isCoord s = false) ∧
    (∃ (num : Word) (s : State), isMirror s ∧ hasPartner s ∧ pairLstate s = 6 ∧ s.tick.running ∧ num.toNat ≠ tickNum s ∧
      ownEdges s = false ∧ s.active = [] ∧ s.fv.commit = none ∧ s.fv.release = none ∧ s.pendSet = none ∧ s.live = [] ∧
      s.locks = [] ∧ s.waits = [] ∧ s.pair.mirrorQ = [] ∧ s.pair.acked = [] ∧ 120 ≤ getF s R.TICK_COMMIT_BUDGET_NS10 ∧
      isCoord s = false) ∧
    (∃ (s : State), isMirror s ∧ hasPartner s ∧ s.tick.running ∧ s.tick.len ≤ s.tick.offset ∧ ownEdges s = false ∧ s.active =
      [] ∧ s.fv.commit = none ∧ s.fv.release = none ∧ s.pendSet = none ∧ s.live = [] ∧ s.locks = [] ∧ s.waits = [] ∧
      s.pair.mirrorQ = [] ∧ s.pair.acked = [] ∧ 120 ≤ getF s R.TICK_COMMIT_BUDGET_NS10 ∧ isCoord s = false) :=
  ⟨⟨(sTick (sWith [(R.TICK_COMMIT_BUDGET_NS10, 1000), (R.TICK_NUM_NUM, 0xFFFFFFFF)]) 25000), by decide +kernel⟩, ⟨7, (sTick
    (sets sHub1 [(R.TICK_COMMIT_BUDGET_NS10, 1000)]) 24990), by decide +kernel⟩, ⟨(sTick (sets sHub1
    [(R.TICK_COMMIT_BUDGET_NS10, 1000)]) 25000), by decide +kernel⟩⟩

theorem wit_CommitChecksAndVisits :
    (∃ (s : State), s.tick.running ∧ s.tick.budgetDone = false ∧ s.tick.budget ≤ s.tick.offset ∧ s.fv.commit = none) ∧
    (∃ (w : Window) (s : State), s.tick.running ∧ s.tick.budgetDone = false ∧ s.tick.budget ≤ s.tick.offset ∧ s.fv.commit =
      some w ∧ w.flipped ∧ s.tick.overrun = false) ∧
    (∃ (w : Window) (s : State), s.tick.running ∧ s.tick.budgetDone = false ∧ s.tick.budget ≤ s.tick.offset ∧ s.fv.commit =
      some w ∧ w.flipped = false ∧ ovrPol s = 0 ∧ isMirror s = false ∧ hasPartner s = false) ∧
    (∃ (w : Window) (s : State), s.tick.running ∧ s.fv.commit = some w ∧ w.flipped = false ∧ ovrPol s = 1 ∧ isMirror s =
      false ∧ hasPartner s = false ∧ s.fv.release = none ∧ s.tick.budget + getF s R.TICK_STRETCH_MAX_NS10 ≤ s.tick.offset) ∧
    (∃ (s : State), s.tick.running ∧ isRunning s ∧ commitsStopped s = false ∧ 0 < s.tick.precommit ∧ s.fv.commit = none ∧
      s.tick.len ≤ s.tick.offset + s.tick.precommit) ∧
    (∃ (s : State), s.tick.running ∧ isRunning s ∧ commitsStopped s = false ∧ 0 < s.tick.precommit ∧ s.fv.commit = none ∧
      s.tick.relDone = false ∧ phaseAt s s.tick.release ≤ s.tick.offset + s.tick.precommit) ∧
    (∃ (l : Nat) (s : State), isRunning s ∧ inStandby s = false ∧ discards s = false ∧ s.fv.commit = none ∧ s.fv.release =
      none ∧ 0 < getF s R.COMMIT_CTL_PRECARRY ∧ s.fv.carryAt + 1000 ≤ s.now ∧ s.arb.waiting = [] ∧ s.chain = [] ∧ (bySa s
      (linesOf s (List.range 64) needsCarry)).head? = some l) :=
  ⟨⟨(sTick sRun 1000), by decide +kernel⟩, ⟨({ wOpen with flipped := true }), (withCommit (sTick sRun 1000)
    { wOpen with flipped := true }), by decide +kernel⟩, ⟨wOpen, (withCommit (sTick (sWith [(R.TICK_CTL_OVR_POL, 0)]) 1000)
    wOpen), by decide +kernel⟩, ⟨wOpen, (withCommit (sTick (sWith [(R.TICK_CTL_OVR_POL, 1)]) 20000) wOpen),
    by decide +kernel⟩, ⟨(sTick sRun 24600), by decide +kernel⟩, ⟨(sTick sRun 9600), by decide +kernel⟩, ⟨5,
    ({ sWith [(R.COMMIT_COPY_PLACED 0, 1), (R.COMMIT_CTL_PRECARRY, 4)] with now := 5000, active := [(0, ⟨true, 0, 20, 4, 0, 0, false, true, 0, 0, 0, 0⟩)], fv := { Fv.empty with diff := [(5, true)] } }),
    by decide +kernel⟩⟩

theorem wit_CommitAndReleaseFlip :
    (∃ (w : Window) (s : State), s.fv.commit = some w ∧ s.fv.release = none ∧ w.ready = false ∧ w.flipped = false ∧
      boundsChecked s false ∧ windowQuiet s w ∧ ringIn s w = false ∧ linesOf s w.regions needsInv = [] ∧ isMirror s = false) ∧
    (∃ (r : Fin 64) (w : Window) (s : State), s.fv.commit = some w ∧ w.regions = [r.val] ∧ mayFlip s w) ∧
    (∃ (r : Fin 64) (w : Window) (s : State), isMirror s ∧ hasPartner s ∧ pairLstate s = 6 ∧ s.fv.commit = some w ∧ w.flipped
      = false ∧ w.regions = [r.val] ∧ s.arb.waiting = []) ∧
    (∃ (w : Window) (s : State), s.fv.commit = some w ∧ w.flipped ∧ w.carry = [] ∧ w.inv = [] ∧ s.fv.release = none ∧
      s.tick.overrun = false) ∧
    (∃ (s : State), s.tick.running ∧ s.tick.relDone = false ∧ phaseAt s s.tick.release ≤ s.tick.offset ∧ s.tick.overrun =
      false ∧ commitsStopped s = false ∧ s.fv.release = none ∧ s.tick.noMark = false ∧ hasPartner s = false ∧ boundOf
      (linesOf s (partRegions s true) needsInv).length (linesOf s (partRegions s true) needsCarry).length ≤ getF s
      R.COMMIT_REL_BUDGET_NS10) ∧
    (∃ (remote : List (List DFlit)) (w : Window) (s : State), s.tick.running ∧ s.tick.relDone ∧ phaseAt s s.tick.release +
      getF s R.COMMIT_REL_BUDGET_NS10 ≤ s.tick.offset ∧ s.fv.release = some w ∧ w.flipped = false ∧ hasPartner s = false ∧
      ovrPol s ≠ 2 ∧ s.tick.relSent) ∧
    (∃ (remote : List (List DFlit)) (r : Fin 64) (w : Window) (s : State), s.fv.release = some w ∧ w.regions = [r.val] ∧
      mayFlip s w ∧ s.tick.relSent) ∧
    (∃ (r : Fin 64) (w : Window) (s : State), pairRoom s 7 0 ∧ isMirror s ∧ hasPartner s ∧ s.fv.commit = some w ∧ w.flipped =
      false ∧ w.regions = [r.val] ∧ s.arb.waiting = []) ∧
    (∃ (w : Window) (s : State), pairRoom s 7 0 ∧ isMirror s ∧ hasPartner s ∧ s.fv.commit = some w ∧ w.flipped = false) ∧
    (∃ (w : Window) (s : State), pairRoom s 7 0 ∧ isMirror s ∧ hasPartner s ∧ s.fv.commit = some w ∧ w.flipped = false ∧
      s.fv.release = none) ∧
    (∃ (bound : BitVec 20) (s : State), pairRoom s 7 0 ∧ isMaster s ∧ hasPartner s ∧ s.fv.commit = none) ∧
    (∃ (w : Window) (s : State), pairRoom s 7 0 ∧ isMaster s ∧ hasPartner s ∧ s.fv.commit = some w) :=
  ⟨⟨wOpen, (withCommit (sTick sRun 10) wOpen), by decide +kernel⟩, ⟨0, ({ wOpen with ready := true }), (withCommit (sTick
    sRun 10) { wOpen with ready := true }), by decide +kernel⟩, ⟨0, wOpen, (withCommit (sTick sHub1 10) wOpen),
    by decide +kernel⟩, ⟨({ wOpen with flipped := true }), (withCommit (sTick sRun 10) { wOpen with flipped := true }),
    by decide +kernel⟩, ⟨(sTick sRun 10000), by decide +kernel⟩, ⟨[], wOpen, (withRelease (tk (sTick (sWith
    [(R.TICK_CTL_OVR_POL, 1)]) 20000) fun t => { t with relDone := true, relSent := true }) wOpen), by decide +kernel⟩, ⟨[],
    0, ({ wOpen with ready := true }), (withRelease (tk (sTick sRun 10010) fun t => { t with relSent := true })
    { wOpen with ready := true }), by decide +kernel⟩, ⟨0, wOpen, (withCommit (sTick sHub1 10) wOpen), by decide +kernel⟩,
    ⟨wOpen, (withCommit (sTick sHub1 10) wOpen), by decide +kernel⟩, ⟨wOpen, (withCommit (sTick sHub1 10) wOpen),
    by decide +kernel⟩, ⟨500, (sTick sPair 10), by decide +kernel⟩, ⟨wOpen, (withCommit (sTick sPair 10) wOpen),
    by decide +kernel⟩⟩

theorem wit_EventUnit :
    (∃ (pin : Fin 16) (rising : Bool) (s : State), getF s (R.EVT_PIN_MODE pin.val) = 1 ∧ evtOn s ∧ landsOff s = false ∧
      ((getF s (R.EVT_PIN_EDGE pin.val)).testBit (if rising then 0 else 1)) ∧ s.evt.fifo.length < 32) ∧
    (∃ (pin : Fin 16) (rising : Bool) (s : State), getF s (R.EVT_PIN_MODE pin.val) = 1 ∧ evtOn s ∧ landsOff s = false ∧
      ((getF s (R.EVT_PIN_EDGE pin.val)).testBit (if rising then 0 else 1)) ∧ 32 ≤ s.evt.fifo.length) ∧
    (∃ (c : Capture) (rest : List Capture) (s : State), evtOn s ∧ s.evt.fifo = c :: rest ∧ s.evt.stopped = false ∧ inStandby
      s = false ∧ s.evt.wroteAt + 1000 ≤ s.now ∧ (¬(s.tick.running = true ∧ c.tick = (tickNum s + 1) % 2 ^ 32)) ∧ s.fv.commit
      = none ∧ isHome s ((ringPlace s (getF s R.EVT_RING_WP_WP)).1 * 64) ∧ fvRegion s (ringPlace s (getF s
      R.EVT_RING_WP_WP)).1 = none) ∧
    (∃ (remote : List (List DFlit)) (s : State), evtOn s ∧ s.evt.loadDue ∧ s.fv.release = none ∧ fvHolds s (getF s
      R.EVT_SCHED_BASE_LINE * 64) 1024 true) ∧
    (∃ (k : Fin 256) (e : BitVec 32) (s : State), s.tick.running ∧ evtOn s ∧ s.evt.took ∧ k.val = s.evt.applied ∧ getF s
      R.TICK_STAT_FAULTED = 0 ∧ s.evt.sched[k.val]? = some (some e) ∧ entOff e < s.tick.base ∧ entOff e ≤ s.tick.offset ∧
      entAct e ≠ 0 ∧ isOutput s (entPin e)) ∧
    (∃ (pin : Fin 16) (t : Nat) (s : State), (s.evt.pulses.find? (fun e => e.1 == pin.val) = some (pin.val, t)) ∧ t ≤ s.now ∧
      isOutput s pin.val) :=
  ⟨⟨3, true, (sTick (sWith [(R.EVT_PIN_MODE 3, 1), (R.EVT_PIN_EDGE 3, 3), (R.EVT_CTL_EN, 1)]) 77), by decide +kernel⟩, ⟨3,
    false, (withEvt (sWith [(R.EVT_PIN_MODE 3, 1), (R.EVT_PIN_EDGE 3, 3), (R.EVT_CTL_EN, 1)]) fun e =>
    { e with fifo := List.replicate 32 ⟨0, 0, 0, false, 0⟩ }), by decide +kernel⟩, ⟨(⟨1, 5, 3, true, 9⟩), [], (withEvt
    { sWith [(R.EVT_CTL_EN, 1), (R.EVT_RING_LEN_LOG2, 6)] with now := 2000 } fun e =>
    { e with fifo := [⟨1, 5, 3, true, 9⟩] }), by decide +kernel⟩, ⟨[], (withActive (withEvt (sWith [(R.EVT_CTL_EN, 1)]) fun e
    => { e with loadDue := true }) [(0, rgn 0 4 true)]), by decide +kernel⟩, ⟨0, 0x01300010#32, (withEvt (sTick (sWith
    [(R.EVT_CTL_EN, 1), (R.EVT_PIN_MODE 3, 2)]) 20) fun e => { e with took := true, sched := [some 0x01300010#32] }),
    by decide +kernel⟩, ⟨3, 0, (withEvt (sWith [(R.EVT_PIN_MODE 3, 2)]) fun e => { e with pulses := [(3, 0)] }),
    by decide +kernel⟩⟩

theorem wit_HousekeepingAndCutoff :
    (∃ (s : State), s.tick.running ∧ weevilOn s ∧ s.tick.hkDone = false ∧ phaseAt s s.tick.hkStart ≤ s.tick.offset ∧
      stretchOpen s = false ∧ s.weevil.revisit = [] ∧ getF s R.DIR_CTL_AUDIT_EN = 0 ∧ s.weevil.linesInForce = 0 ∧
      s.weevil.hcInForce = 0) ∧
    (∃ (s : State), s.tick.running ∧ s.weevil.inSlice ∧ phaseAt s (s.tick.hkStart + s.tick.hkLen) ≤ s.tick.offset ∧
      s.weevil.cut ∧ scrubOn s = false ∧ s.weevil.done < 2 ^ 13) ∧
    (∃ (e : Fin 48) (s : State), s.tick.running ∧ s.tick.cutDone = false ∧ s.tick.cutoff + s.tick.stretch ≤ s.tick.offset ∧
      stretchOpen s = false ∧ stationOn s ∧ s.qualOk = false ∧ stnState s e.val ≠ 0) :=
  ⟨⟨(sTick (sWith [(R.DIR_CTL_AUDIT_EN, 0)]) 12000), by decide +kernel⟩,
    ⟨({ sTick (sWith [(R.SCRUB_CTL_EN, 0)]) 14000 with weevil := ⟨[], 0, 0, 5, none, true, true⟩ }), by decide +kernel⟩, ⟨2,
    (sTick (sWith [(R.STATION_CTL_EN, 1), (R.STATION_STATUS_STATE 2, 3), (R.STATION_ENTRY_CTL_MISS_LIM 2, 5)]) 3000),
    by decide +kernel⟩⟩

theorem wit_RegionsAndTenants :
    (∃ (path : Path) (p k : Fin 16) (v : Word) (s : State), ownCa path (R.APORT_WIN_CTL_EN p.val k.val).key ∧ accepted path
      (0x08 + p.val) (0x20C + 16 * k.val) v s ∧ winBreach s p.val k.val (fieldOf v 0 1 != 0) (fieldOf v 4 5) = none) ∧
    (∃ (path : Path) (p k : Fin 16) (v : Word) (c : Nat) (s : State), ownCa path (R.APORT_WIN_CTL_EN p.val k.val).key ∧
      served path (0x08 + p.val) s ∧ winBreach s p.val k.val (fieldOf v 0 1 != 0) (fieldOf v 4 5) = some c ∧ getF s (capValid
      (pgAport p.val)) = 0) ∧
    (∃ (path : Path) (r : Fin 64) (reg : Fin 5) (v : Word) (s : State), ownCa path (regKey 0x38 (0x400 + 0x20 * r.val + 4 *
      reg.val)) ∧ accepted path 0x38 (0x400 + 0x20 * r.val + 4 * reg.val) v s) ∧
    (∃ (path : Path) (v : Word) (code r : Nat) (s : State), ownCa path R.REGION_CTL_APPLY.key ∧ isMirror s = false ∧ accepted
      path 0x38 0x040 (withField v 0 1 1) s ∧ fieldOf v 1 1 = 0 ∧ applyFails s (shadowSet s) = some (code, r)) ∧
    (∃ (path : Path) (v : Word) (s : State), ownCa path R.REGION_CTL_APPLY.key ∧ isMirror s = false ∧ accepted path 0x38
      0x040 (withField v 0 1 1) s ∧ fieldOf v 1 1 = 0 ∧ applyFails s (shadowSet s) = none ∧ getF s R.TICK_CTL_RUN = 1) ∧
    (∃ (path : Path) (v : Word) (r : Fin 64) (s : State), ownCa path R.REGION_CTL_APPLY.key ∧ isMirror s = false ∧ accepted
      path 0x38 0x040 (withField v 0 1 1) s ∧ fieldOf v 1 1 = 0 ∧ applyFails s (shadowSet s) = none ∧ getF s R.TICK_CTL_RUN =
      0 ∧ (shadowDesc s r.val).valid) ∧
    (∃ (path : Path) (v : Word) (r : Fin 64) (s : State), ownCa path R.REGION_CTL_APPLY.key ∧ isMirror s = false ∧ accepted
      path 0x38 0x040 (withField v 1 1 1) s ∧ fieldOf v 0 1 = 0) ∧
    (∃ (r : Fin 64) (s : State), isRunning s ∧ s.retiring = [r.val] ∧ isFv (descOf s.active r.val) = false ∧ s.dir = [] ∧
      s.flows = [] ∧ s.chain = [] ∧ s.arb.waiting = [] ∧ s.locks = [] ∧ s.fv.commit = none ∧ s.fv.release = none ∧ s.slots =
      [] ∧ s.ebuf = []) ∧
    (∃ (path : Path) (t : Fin 32) (v : Word) (s : State), ownCa path (R.TENANT_CTL_RESET t.val).key ∧ accepted path (0x40 +
      t.val) 0x040 (withField v 8 1 1) s ∧ isMirror s = false ∧ higherReset s = false ∧ s.chain = [] ∧ s.flows = []) ∧
    (∃ (t : Fin 32) (s : State), isRunning s ∧ tenantResetting s t.val ∧ tenantFlows s t.val = false ∧ s.locks = [] ∧
      s.cargo.owner = [] ∧ pairOn s = false) :=
  ⟨⟨.spi, 2, 0, 0x1C1, sRun, by decide +kernel⟩, ⟨.spi, 2, 0, 0xB1, 0xF0, sRun, by decide +kernel⟩, ⟨.spi, 4, 1, 0x141, sRun,
    by decide +kernel⟩, ⟨.spi, 0, 4, 1, (sWith [(R.REGION_DESC_CTL_VALID 1, 1), (R.REGION_DESC_CTL_SIZE_LOG2 1, 20),
    (R.REGION_DESC_BASE_HA4K 1, 0xFF00)]), by decide +kernel⟩, ⟨.spi, 0, (sWith [(R.TICK_CTL_RUN, 1),
    (R.REGION_DESC_CTL_VALID 1, 1), (R.REGION_DESC_CTL_SIZE_LOG2 1, 20)]), by decide +kernel⟩, ⟨.spi, 0, 1, (sWith
    [(R.REGION_DESC_CTL_VALID 1, 1), (R.REGION_DESC_CTL_SIZE_LOG2 1, 20)]), by decide +kernel⟩, ⟨.spi, 0, 2,
    ({ withActive sRun [(2, rgn 0x100000 0 false)] with applied := [(2, rgn 0x100000 0 false)] }), by decide +kernel⟩, ⟨2,
    ({ withActive sRun [(2, rgn 0x100000 0 false)] with retiring := [2] }), by decide +kernel⟩, ⟨.spi, 3, 1, sRun,
    by decide +kernel⟩, ⟨3, (sWith [(R.TENANT_STAT_RESETTING 3, 1)]), by decide +kernel⟩⟩

theorem wit_RequestsAreAdmitted :
    (∃ (i : Instr) (r : ReqForm) (p : Fin 16) (ha : Nat) (s : State), reqForm i = some r ∧ reqReady s r p ∧ admission s p.val
      r.h.tenant.val r.h.addr.toNat r.op = .ok ha ∧ lineTaken s p.val r.op ha = false ∧ isHome s ha ∧ (r.op == .wrPartial &&
      r.be == 0) = false ∧ (r.op == .wrBack && (crossing s (agentOf s p.val) (ha / 64) || !(portOf s p.val).snpWait.isEmpty))
      = false) ∧
    (∃ (i : Instr) (r : ReqForm) (p : Fin 16) (ha : Nat) (s : State), reqForm i = some r ∧ reqReady s r p ∧ admission s p.val
      r.h.tenant.val r.h.addr.toNat r.op = .ok ha ∧ lineTaken s p.val r.op ha = false ∧ isHome s ha = false ∧ hasPartner s ∧
      (r.op == .wrBack && !(portOf s p.val).snpWait.isEmpty) = false) ∧
    (∃ (i : Instr) (r : ReqForm) (p : Fin 16) (code : Nat) (s : State), reqForm i = some r ∧ reqReady s r p ∧ admission s
      p.val r.h.tenant.val r.h.addr.toNat r.op = .err code) ∧
    (∃ (i : Instr) (r : ReqForm) (p : Fin 16) (ha : Nat) (s : State), reqForm i = some r ∧ reqReady s r p ∧ admission s p.val
      r.h.tenant.val r.h.addr.toNat r.op = .lost ha) ∧
    (∃ (h : Hdr) (fs : List DFlit) (p : Fin 16) (ha : Nat) (s : State), reqReady s ⟨h, 0x12, 3, .wrPartial, false, 0, fs, 1⟩
      p ∧ admission s p.val h.tenant.val h.addr.toNat .wrPartial = .ok ha ∧ lineTaken s p.val .wrPartial ha = false ∧ isHome
      s ha) ∧
    (∃ (h : Hdr) (fs : List DFlit) (p : Fin 16) (s : State), h.src = .agent p ∧ (flitsOk s p.val h.ft.val h.vc.val 3 fs
      fs.length ∨ (flitsOk s p.val h.ft.val h.vc.val 3 [] 0 ∧ fs = [])) ∧ lstate s p.val = 4 ∧ s.trackers = []) ∧
    (∃ (i : Instr) (r : ReqForm) (a : Fin 32) (s : State), reqForm i = some r ∧ r.h.src = .partner a ∧ (pairRoom s (if
      r.flits.isEmpty then 0 else 3) r.flits.length) ∧ hasPartner s ∧ discards s = false ∧ isHome s (r.h.addr.toNat % 2 ^ 30)
      ∧ shareBlocked s r.op (r.h.addr.toNat % 2 ^ 30) = false ∧ (r.op == .wrPartial && r.be == 0) = false ∧ r.op ≠ .wrBack) ∧
    (∃ (i : Instr) (r : ReqForm) (q : Fin 22) (s : State), reqForm i = some r ∧ r.h.src = .engine q ∧ pairRoom s 6
      r.flits.length ∧ hasPartner s ∧ discards s = false ∧ isHome s (r.h.addr.toNat % 2 ^ 30) ∧ shareBlocked s r.op
      (r.h.addr.toNat % 2 ^ 30) = false ∧ r.op ≠ .wrBack) :=
  ⟨⟨(.rdS (hd 5 0 0x1000) true), (⟨hd 5 0 0x1000, 0x01, 0, .rdS, true, 0, [], 0⟩), 0, 0x1000, sPort, by decide +kernel⟩,
    ⟨(.rdU (hd 5 0 0x1040)), (⟨hd 5 0 0x1040, 0x02, 0, .rdU, false, 0, [], 0⟩), 0, 0x1040, sPortPair, by decide +kernel⟩,
    ⟨(.wrBack (hd 5 3 0x1000) [⟨1, false, false⟩, ⟨2, false, false⟩, ⟨3, false, false⟩, ⟨4, false, true⟩]), (⟨hd 5 3 0x1000,
    0x10, 3, .wrBack, false, 0, [⟨1, false, false⟩, ⟨2, false, false⟩, ⟨3, false, false⟩, ⟨4, false, true⟩], 4⟩), 0, 1, (sets
    sPort [(R.TENANT_CTL_EN 0, 0)]), by decide +kernel⟩, ⟨(.rdU (hd 5 0 0x1040)), (⟨hd 5 0 0x1040, 0x02, 0, .rdU, false, 0,
    [], 0⟩), 0, 0x1040, (sets sPort [(R.PAIR_CTL_EN, 1), (R.PAIR_STAT_JOINED, 1), (R.PAIR_STAT_LOST, 1)]),
    by decide +kernel⟩, ⟨(hd 5 3 0x1010), ([⟨7, false, true⟩]), 0, 0x1010, sPort, by decide +kernel⟩, ⟨(hd 5 3 0x1010), ([⟨7,
    false, true⟩]), 0, sPort, by decide +kernel⟩, ⟨(.rdU ⟨.partner 17, 0, 0, 5, 0, 0x1000⟩), (⟨⟨.partner 17, 0, 0, 5, 0,
    0x1000⟩, 0x02, 0, .rdU, false, 0, [], 0⟩), 17, sPortPair, by decide +kernel⟩, ⟨(.rdOnce ⟨.engine 20, 0, 0, 5, 0,
    0x1000⟩), (⟨⟨.engine 20, 0, 0, 5, 0, 0x1000⟩, 0x04, 0, .rdOnce, false, 0, [], 0⟩), 20, sPortPair, by decide +kernel⟩⟩

theorem wit_ArbiterAndChains :
    (∃ (q : Nat) (r : Req) (s : State), isRunning s ∧ discards s = false ∧ nextGrant s = some q ∧ offer s q = some r ∧ q < 22
      ∧ needsSearch s (slotIx (curLoc s r.line)) = false ∧ r.op ≠ .ulWr ∧ busyFor s r ∧ (beforeWindow s r && (flowOf s
      r.line).isNone && !searchBusyFor s r.line) = false ∧ lockOn s r.line = none ∧ reqNo r ≠ 16) ∧
    (∃ (p : Fin 16) (line : BitVec 24) (r : Req) (s : State), s.dir = [] ∧ s.flows = [] ∧ s.recov = none ∧ s.recovWait = [] ∧
      s.inject = [] ∧ s.locks = [] ∧ s.search = none ∧ needsSearch s (slotIx (curLoc s line.toNat)) = false ∧ chainHead s
      line.toNat = some r ∧ r.op = .evClean ∧ r.src = .port p.val ∧ r.gone = false ∧ r.line = line.toNat) ∧
    (∃ (p : Fin 16) (set : Fin 32768) (f : Flow) (s : State), s.dir = [] ∧ s.recov = none ∧ s.recovWait = [] ∧ s.inject = []
      ∧ s.flows = [f] ∧ f.phase = .alloc ∧ Machine.setOf f.line = set.val ∧ f.req.op = .evClean ∧ f.req.src = .port p.val ∧
      f.req.gone = false) ∧
    (∃ (q : Fin 22) (s : State), (s.arb.rotated ∨ 64 ≤ s.arb.cycles)) ∧
    (∃ (path : Path) (v : Word) (q : Fin 22) (s : State), ownCa path R.ARB_STARVE_FLAG.key ∧ accepted path 0x28 0x044 v s ∧
      v.getLsbD q.val) :=
  ⟨⟨0, (rq .rdS 64),
    ({ sPort with arb := { State.reset.arb with waiting := [rq .rdS 64] }, flows := [newFlow { rq .rdU 64 with id := 9, agent := 1 } .own .snoop none .untracked .untracked] }),
    by decide +kernel⟩, ⟨0, 64#24, (rq .evClean 64), ({ sPort with chain := [rq .evClean 64] }), by decide +kernel⟩, ⟨0,
    (⟨Machine.setOf 64, by decide⟩), (newFlow (rq .evClean 64) .own .alloc none .untracked .untracked),
    ({ sPort with flows := [newFlow (rq .evClean 64) .own .alloc none .untracked .untracked] }), by decide +kernel⟩, ⟨0,
    ({ sPort with arb := { State.reset.arb with waiting := [rq .rdS 64], cycles := 64 } }), by decide +kernel⟩, ⟨.spi, 5, 2,
    (sWith [(R.ARB_STARVE_FLAG, 7), (R.ARB_WAIT_MAX 2, 9)]), by decide +kernel⟩⟩

theorem wit_QueuedRequestsAreServed :
    (∃ (p : Fin 16) (r : Req) (s : State), isRunning s ∧ discards s = false ∧ nextGrant s = some p.val ∧ offer s p.val = some
      r ∧ needsSearch s (slotIx (curLoc s r.line)) = false ∧ r.src = .port p.val ∧ r.gone = false ∧ r.id < s.nextId) ∧
    (∃ (p : Fin 16) (line : BitVec 24) (r : Req) (s : State), chainHead s line.toNat = some r ∧ r.line = line.toNat ∧
      s.search = none ∧ needsSearch s (slotIx (curLoc s line.toNat)) = false ∧ ran (checkSet (Machine.setOf r.line) 0) s = s
      ∧ r.src = .port p.val ∧ r.gone = false ∧ r.id < s.nextId) ∧
    (∃ (set : Fin 32768) (f : Flow) (s : State), inRecovery s set.val = false ∧ ((s.flows.find? fun g => g.phase == .alloc &&
      Machine.setOf g.line == set.val) = some f) ∧ flowOf s f.line = some f ∧ f.req.op ≠ .evClean ∧ f.req.op ≠ .preCarry ∧
      f.req.op ≠ .lkRd ∧ ran (checkSet set.val 1) s = s ∧ lookup s f.line = none ∧ ((List.range 16).any fun w => viewWay s
      set.val w == some .free)) :=
  ⟨⟨0, (rq .rdS 64), ({ sPort with nextId := 1, arb := { State.reset.arb with waiting := [rq .rdS 64] } }),
    by decide +kernel⟩, ⟨0, 64#24, (rq .rdU 64), ({ sPort with nextId := 1, chain := [rq .rdU 64] }), by decide +kernel⟩,
    ⟨(⟨Machine.setOf 64, by decide⟩), (newFlow (rq .rdU 64) .own .alloc none .untracked .untracked),
    ({ sPort with flows := [newFlow (rq .rdU 64) .own .alloc none .untracked .untracked] }), by decide +kernel⟩⟩

theorem wit_RoundsAndStarvation :
    (∃ (q : Fin 22) (s : State), (s.arb.rotated ∨ 64 ≤ s.arb.cycles)) ∧
    (∃ (path : Path) (v : Word) (q : Fin 22) (s : State), ownCa path R.ARB_STARVE_FLAG.key ∧ accepted path 0x28 0x044 v s) :=
  ⟨⟨0, ({ sPort with arb := { State.reset.arb with waiting := [rq .rdS 64], cycles := 64 } }), by decide +kernel⟩, ⟨.spi, 5,
    2, (sWith [(R.ARB_STARVE_FLAG, 7), (R.ARB_WAIT_MAX 2, 9)]), by decide +kernel⟩⟩

theorem wit_SnoopResponses :
    (∃ (i : Instr) (r : RspForm) (p : Fin 16) (sn : Snoop) (s : State), rspForm i = some r ∧ rspReady s r p sn ∧ sn.remote ∧
      hasPartner s ∧ r.opcode ≠ 0x65 ∧ (portOf s p.val).snpWait = []) ∧
    (∃ (i : Instr) (r : RspForm) (p : Fin 16) (sn : Snoop) (f : Flow) (s : State), rspForm i = some r ∧ rspReady s r p sn ∧
      sn.remote = false ∧ sn.kind ≠ .snpFlushSet ∧ r.opcode ≠ 0x65 ∧ (portOf s p.val).snpWait = [] ∧ flowOf s sn.line = some
      f ∧ f.line = sn.line ∧ f.pend.filter (· != agentOf s p.val) ≠ []) ∧
    (∃ (r : RspHdr) (p : Fin 16) (sn : Snoop) (f : Flow) (s : State), rspReady s ⟨r, 0x65, 2, [], 0⟩ p sn ∧ sn.remote = false
      ∧ sn.kind ≠ .snpFlushSet ∧ flowOf s sn.line = some f ∧ f.line = sn.line ∧ waitingWb s (agentOf s p.val) sn.line = none
      ∧ wrBackHere s p.val sn.line = false) ∧
    (∃ (r : RspHdr) (p : Fin 16) (sn : Snoop) (f : Flow) (b : Req) (s : State), rspReady s ⟨r, 0x65, 2, [], 0⟩ p sn ∧
      sn.remote = false ∧ sn.kind ≠ .snpFlushSet ∧ (portOf s p.val).snpWait = [] ∧ flowOf s sn.line = some f ∧ f.line =
      sn.line ∧ f.pend.filter (· != agentOf s p.val) ≠ [] ∧ waitingWb s (agentOf s p.val) sn.line = some b ∧ b.line = sn.line
      ∧ b.agent = agentOf s p.val ∧ b.src = .port p.val ∧ b.gone = false) ∧
    (∃ (r : RspHdr) (p : Fin 16) (sn : Snoop) (s : State), rspReady s ⟨r, 0x60, 2, [], 0⟩ p sn ∧ sn.remote = false ∧ sn.kind
      = .snpFlushSet ∧ (portOf s p.val).snpWait = []) ∧
    (∃ (r : RspHdr) (p : Fin 16) (s : State), r.src = .agent p ∧ flitsOk s p.val r.ft.val r.vc.val 2 [] 0 ∧ lstate s p.val =
      4 ∧ s.trackers = []) :=
  ⟨⟨(.rspI (rh 2 2)), (⟨rh 2 2, 0x60, 2, [], 0⟩), 0, ({ snp .snpInv with remote := true }), (withPort sPortPair 0 fun pt =>
    { pt with snoops := [(2, some { snp .snpInv with remote := true })], issued := [(2, true)] }), by decide +kernel⟩,
    ⟨(.rspIWb (rh 2 3) [⟨1, false, false⟩, ⟨2, false, false⟩, ⟨3, false, false⟩, ⟨4, false, true⟩]), (⟨rh 2 3, 0x62, 3, [⟨1,
    false, false⟩, ⟨2, false, false⟩, ⟨3, false, false⟩, ⟨4, false, true⟩], 4⟩), 0, (snp .snpInv),
    ({ newFlow (rq .rdU 64) .own .snoop none .untracked .untracked with pend := [0, 3] }),
    ({ withPort sPort 0 fun pt => { pt with snoops := [(2, some (snp .snpInv))], issued := [(2, true)] } with flows := [{ newFlow (rq .rdU 64) .own .snoop none .untracked .untracked with pend := [0, 3] }] }),
    by decide +kernel⟩, ⟨(rh 2 2), 0, (snp .snpInv),
    ({ newFlow (rq .rdU 64) .own .snoop none .untracked .untracked with pend := [0, 3] }),
    ({ withPort sPort 0 fun pt => { pt with snoops := [(2, some (snp .snpInv))], issued := [(2, true)] } with flows := [{ newFlow (rq .rdU 64) .own .snoop none .untracked .untracked with pend := [0, 3] }] }),
    by decide +kernel⟩, ⟨(rh 2 2), 0, (snp .snpInv),
    ({ newFlow (rq .rdU 64) .own .snoop none .untracked .untracked with pend := [0, 3] }),
    ({ rq .wrBack 64 with agent := 0 }),
    ({ withPort sPort 0 fun pt => { pt with snoops := [(2, some (snp .snpInv))], issued := [(2, true)] } with flows := [{ newFlow (rq .rdU 64) .own .snoop none .untracked .untracked with pend := [0, 3] }], arb := { sPort.arb with waiting := [{ rq .wrBack 64 with agent := 0 }] } }),
    by decide +kernel⟩, ⟨(rh 2 2), 0, (snp .snpFlushSet), (withPort sPort 0 fun pt =>
    { pt with snoops := [(2, some (snp .snpFlushSet))], issued := [(2, true)] }), by decide +kernel⟩, ⟨(rh 2 2), 0, sPort,
    by decide +kernel⟩⟩

theorem wit_TimersOfRequestsAndSnoops :
    (∃ (p : Fin 16) (tag : Fin 64) (t : TagSt) (s : State), tagOf (portOf s p.val) tag.val = some t ∧ portSends s p.val ∧
      isHalted s = false ∧ t.due ≤ s.now ∧ (((portOf s p.val).txq.any fun m => m.op == 0x36 && m.tag == tag.val) = false) ∧
      t.holds < 64 ∧ t.remote = false) ∧
    (∃ (p : Fin 16) (tag : Fin 64) (t : TagSt) (s : State), tagOf (portOf s p.val) tag.val = some t ∧ portSends s p.val ∧
      isHalted s = false ∧ t.due ≤ s.now ∧ (((portOf s p.val).txq.any fun m => m.op == 0x36 && m.tag == tag.val) = false) ∧
      64 ≤ t.holds ∧ t.remote = false ∧ ((s.arb.waiting.find? fun r => r.id == t.req).any fun w => !awaitsMatch s w) ∧
      trackerOf s p.val tag.val = none) ∧
    (∃ (p : Fin 16) (tag : Fin 64) (t : TagSt) (s : State), tagOf (portOf s p.val) tag.val = some t ∧ portSends s p.val ∧
      isHalted s = false ∧ t.due ≤ s.now ∧ (((portOf s p.val).txq.any fun m => m.op == 0x36 && m.tag == tag.val) = false) ∧
      t.holds = 64 ∧ t.remote ∧ hasPartner s) ∧
    (∃ (p : Fin 16) (tag : Fin 64) (t : Tracker) (g : TagSt) (s : State), trackerOf s p.val tag.val = some t ∧ tagOf (portOf
      s p.val) tag.val = some g ∧ t.sent ∧ t.timedOut = false ∧ portSends s p.val ∧ t.start + t.wait ≤ s.now) ∧
    (∃ (p : Fin 16) (sid : Fin 64) (sn : Snoop) (s : State), snoopOf (portOf s p.val) sid.val = some sn ∧ portSends s p.val ∧
      sn.resnooped = false ∧ sn.wbp = false ∧ sn.sent + deadlineOf sn ≤ s.now) ∧
    (∃ (p : Fin 16) (sid : Fin 64) (sn : Snoop) (s : State), snoopOf (portOf s p.val) sid.val = some sn ∧ portSends s p.val ∧
      isDead s (agentOf s p.val) = false ∧ isHalted s = false ∧ isMaster s ∧ getF s R.GLOBAL_FAIL_CTL_DEAD_POL ≠ 1 ∧
      sn.resnooped ∧ sn.wbp = false ∧ sn.sent + deadlineOf sn ≤ s.now) ∧
    (∃ (p : Fin 16) (sid : Fin 64) (sn : Snoop) (s : State), snoopOf (portOf s p.val) sid.val = some sn ∧ portSends s p.val ∧
      isDead s (agentOf s p.val) = false ∧ isHalted s = false ∧ isMaster s ∧ getF s R.GLOBAL_FAIL_CTL_DEAD_POL ≠ 1 ∧ sn.wbp ∧
      sn.sent + sn.dl ≤ s.now) :=
  ⟨⟨0, 5, (tagSt 1), (withPort sPort 0 fun pt => { pt with tags := [(5, some (tagSt 1))] }), by decide +kernel⟩, ⟨0, 5,
    ({ tagSt 1 with holds := 64 }),
    ({ withPort sPort 0 fun pt => { pt with tags := [(5, some { tagSt 1 with holds := 64 })] } with arb := { State.reset.arb with waiting := [rq .rdS 64] } }),
    by decide +kernel⟩, ⟨0, 5, ({ tagSt 1 with holds := 64, remote := true }), (withPort sPortPair 0 fun pt =>
    { pt with tags := [(5, some { tagSt 1 with holds := 64, remote := true })] }), by decide +kernel⟩, ⟨0, 5, (⟨0, 5, true,
    0, 0, [], false, 0x30, false⟩), (tagSt 1),
    ({ withPort sPort 0 fun pt => { pt with tags := [(5, some (tagSt 1))] } with now := 1000000, trackers := [⟨0, 5, true, 0, 0, [], false, 0x30, false⟩] }),
    by decide +kernel⟩, ⟨0, 2, (snp .snpInv),
    ({ withPort sPort 0 fun pt => { pt with snoops := [(2, some (snp .snpInv))] } with now := 5000 }), by decide +kernel⟩,
    ⟨0, 2, ({ snp .snpInv with resnooped := true }),
    ({ withPort (sets sPort [(R.GLOBAL_FAIL_CTL_DEAD_POL, 0)]) 0 fun pt => { pt with snoops := [(2, some { snp .snpInv with resnooped := true })] } with now := 5000 }),
    by decide +kernel⟩, ⟨0, 2, ({ snp .snpInv with wbp := true }),
    ({ withPort (sets sPort [(R.GLOBAL_FAIL_CTL_DEAD_POL, 0)]) 0 fun pt => { pt with snoops := [(2, some { snp .snpInv with wbp := true })] } with now := 5000 }),
    by decide +kernel⟩⟩

theorem wit_FailureContainment :
    (∃ (path : Path) (v : Word) (s : State), ownCa path R.GLOBAL_FAIL_CTL_HALT.key ∧ accepted path 0x00 0x0C0 (withField v
      R.GLOBAL_FAIL_CTL_HALT.lo 1 1) s ∧ bitOf v R.GLOBAL_FAIL_CTL_RESTART = false ∧ isHalted s = false) ∧
    (∃ (store : ParityStore) (s : State), isRunning s ∧ isHalted s = false) ∧
    (∃ (cause : Fin 16) (s : State), pairRoom s 7 0 ∧ isHalted s = false) ∧
    (∃ (a : Fin 32) (s : State), pairRoom s 7 0 ∧ isHalted s = false ∧ isMaster s ∧ getF s R.GLOBAL_FAIL_CTL_DEAD_POL ≠ 1) ∧
    (∃ (ids : Word) (s : State), pairRoom s 7 0) ∧
    (∃ (w : Sweep) (s : State), isRunning s ∧ s.sweep = some w ∧ w.left ≠ 0 ∧ inRecovery s w.next) ∧
    (∃ (w : Sweep) (s : State), isRunning s ∧ s.sweep = some w ∧ w.left ≠ 0 ∧ s.recov = none ∧ s.recovWait = [] ∧ s.dir = []
      ∧ s.inject = []) ∧
    (∃ (w : Sweep) (s : State), isRunning s ∧ s.sweep = some w ∧ w.left = 0 ∧ w.passed = []) ∧
    (∃ (path : Path) (v : Word) (s : State), ownCa path R.GLOBAL_FAIL_CTL_HALT.key ∧ accepted path 0x00 0x0C0 (withField v
      R.GLOBAL_FAIL_CTL_RESTART.lo 1 1) s ∧ bitOf v R.GLOBAL_FAIL_CTL_HALT = false ∧ isHalted s ∧ s.dreset = false ∧
      s.power.save = false ∧ isMaster s) ∧
    (∃ (s : State), getF s R.GLOBAL_FAIL_CTL_AUTO_RESTART ≠ 0 ∧ s.haltAt + 1000000 * getF s R.GLOBAL_FAIL_CTL_AUTO_RESTART ≤
      s.now ∧ isHalted s ∧ s.dreset = false ∧ s.power.save = false ∧ isMaster s) ∧
    (∃ (s : State), pairRoom s 7 0 ∧ isMirror s ∧ hasPartner s) ∧
    (∃ (s : State), s.dreset) :=
  ⟨⟨.spi, 0, sPort, by decide +kernel⟩, ⟨.chain, sPort, by decide +kernel⟩, ⟨4, sHub1, by decide +kernel⟩, ⟨17, (sets sPair
    [(R.GLOBAL_FAIL_CTL_DEAD_POL, 0)]), by decide +kernel⟩, ⟨5, sPair, by decide +kernel⟩, ⟨(⟨7, 9, 1, []⟩),
    ({ sRun with sweep := some ⟨7, 9, 1, []⟩, recov := some ⟨7, 0, [], [], false, none, false, false, 0⟩ }),
    by decide +kernel⟩, ⟨(⟨7, 9, 1, []⟩), ({ sRun with sweep := some ⟨7, 9, 1, []⟩ }), by decide +kernel⟩, ⟨(⟨0, 0, 3, []⟩),
    ({ sWith [(R.GLOBAL_DEAD_IDS, 7)] with sweep := some ⟨0, 0, 3, []⟩ }), by decide +kernel⟩, ⟨.spi, 0, (sets sPort
    [(R.GLOBAL_FAIL_STAT_HALTED, 1)]), by decide +kernel⟩,
    ⟨({ sets sPort [(R.GLOBAL_FAIL_STAT_HALTED, 1), (R.GLOBAL_FAIL_CTL_AUTO_RESTART, 1)] with now := 2000000 }),
    by decide +kernel⟩, ⟨sHub1, by decide +kernel⟩, ⟨({ sets sPort [(R.GLOBAL_FAIL_STAT_HALTED, 1)] with dreset := true }),
    by decide +kernel⟩⟩

theorem wit_FilterAndCacheUpkeep :
    (∃ (r : Recovery) (p : Fin 16) (i : Nat) (s : State), s.recov = some r ∧ r.sent = false ∧ r.pend = [] ∧ isRunning s ∧
      s.flows = [] ∧ (List.range 16).any (windowWay s r.set) = false ∧ r.agents = [agentOf s p.val] ∧ agentOf s p.val < 32 ∧
      isDead s (agentOf s p.val) = false ∧ portUp s p.val ∧ freeSid (portOf s p.val) = some i) ∧
    (∃ (r : Recovery) (s : State), s.recov = some r ∧ r.sent ∧ r.pend = [] ∧ s.recovWait = [] ∧ s.dir = [] ∧ s.inject = [] ∧
      s.flows = [] ∧ s.chain = [] ∧ s.arb.waiting = []) ∧
    (∃ (line : BitVec 24) (p : Fin 16) (i : Nat) (k : SnpKind) (nd : Bool) (f : Flow) (s : State), flowOf s line.toNat = some
      f ∧ f.line = line.toNat ∧ f.req.op = .repair ∧ f.phase = .search ∧ isRunning s ∧ snoopsFor s { f with phase := .snoop }
      = [(agentOf s p.val, k, nd)] ∧ isDead s (agentOf s p.val) = false ∧ portUp s p.val ∧ k ≠ .snpFlushSet ∧ (transHa s
      p.val (line.toNat * 64)).isSome ∧ freeSid (portOf s p.val) = some i ∧ f.pend = []) ∧
    (∃ (path : Path) (v : Word) (s : State), ownCa path R.DIR_INJECT_GO.key ∧ accepted path 0x30 0x08C (withField v 31 1 1) s
      ∧ v.toNat / 2 ^ 24 % 4 ≠ 3) ∧
    (∃ (path : Path) (v : Word) (s : State), ownCa path R.HCACHE_CTL_FLUSH.key ∧ accepted path 0x31 0x040 (withField v
      R.HCACHE_CTL_FLUSH.lo 1 1) s ∧ s.hflush = none ∧ s.slots = []) ∧
    (∃ (n : Nat) (s : State), s.hflush = some ⟨n, []⟩ ∧ s.ebuf.any (·.flush) = false) ∧
    (∃ (y : SearchSt) (t : Nat) (s : State), s.search = some y ∧ matchesOf (slotOf s y.index) y.index = [t] ∧ s.ebuf.length <
      32) ∧
    (∃ (e : EbEntry) (t : List EbEntry) (s : State), s.ebuf = e :: t ∧ e.writing = none ∧ (t.all fun y => y.loc != e.loc)) ∧
    (∃ (e : EbEntry) (a : Nat) (s : State), s.ebuf = [e] ∧ e.writing.isSome ∧ e.data.length = 64 ∧ (s.flows.any (fun f =>
      f.phase == .evict) = false)) ∧
    (∃ (path : Path) (v : Word) (j : Nat) (s : State), ownCa path R.HCACHE_INJECT_GO.key ∧ accepted path 0x31 0x080
      (withField v 31 1 1) s ∧ v.toNat / 2 ^ 16 % 8 < 5) ∧
    (∃ (path : Path) (v : Word) (a : Nat) (s : State), ownCa path R.MEM_INJECT_GO.key ∧ accepted path 0x32 0x064 (withField v
      31 1 1) s ∧ v.toNat / 16 % 16 < 13 ∧ v.toNat / 2 ^ 8 % 4 = 0 ∧ backedSa (getF s R.MEM_INJECT_WA_WA * 16)) :=
  ⟨⟨(⟨7, 0, [0], [], false, none, false, false, 0⟩), 0, 0,
    ({ sPort with recov := some ⟨7, 0, [0], [], false, none, false, false, 0⟩ }), by decide +kernel⟩, ⟨(⟨7, 0, [0], [], true,
    none, false, false, 0⟩), ({ sPort with recov := some ⟨7, 0, [0], [], true, none, false, false, 0⟩ }), by decide +kernel⟩,
    ⟨64#24, 0, 0, .snpInv, false, ({ newFlow (rq .repair 64) .own .search none (.owned 0) (.owned 0) with pend := [] }),
    ({ sPort with flows := [newFlow (rq .repair 64) .own .search none (.owned 0) (.owned 0)] }), by decide +kernel⟩, ⟨.spi,
    0x01020003, sRun, by decide +kernel⟩, ⟨.spi, 0, sRun, by decide +kernel⟩, ⟨65536,
    ({ sRun with hflush := some ⟨65536, []⟩ }), by decide +kernel⟩, ⟨(⟨0, 0⟩), 0,
    ({ sRun with search := some ⟨0, 0⟩, slots := [(0, ⟨0x700#12, encodeQuad (foldWa 0) Quad.zero ++ encodeQuad (foldWa 1) Quad.zero ++ encodeQuad (foldWa 2) Quad.zero ++ encodeQuad (foldWa 3) Quad.zero⟩)] }),
    by decide +kernel⟩, ⟨(⟨3, [], none, false⟩), [], ({ sRun with ebuf := [⟨3, [], none, false⟩] }), by decide +kernel⟩,
    ⟨(⟨3, List.replicate 64 5#13, some 0, false⟩), 200, ({ sRun with ebuf := [⟨3, List.replicate 64 5#13, some 0, false⟩] }),
    by decide +kernel⟩, ⟨.spi, 0x00010003, 3, sRun, by decide +kernel⟩, ⟨.spi, 0x00000035, 0x125, (sWith
    [(R.MEM_INJECT_WA_WA, 0x12)]), by decide +kernel⟩⟩

theorem wit_LocksAndMantis :
    (∃ (path : Path) (v : Word) (l : Lock) (j : Nat) (s : State), ownCa path R.LOCK_FORCE_GO.key ∧ accepted path 0x29 0x078
      (withField v R.LOCK_FORCE_GO.lo 1 1) s ∧ (kvGet (fun _ => (none : Option Lock)) s.locks (fieldOf v 0 8) = some l) ∧
      s.chain = [] ∧ s.flows = []) ∧
    (∃ (a b : Fin 32) (tag : Fin 64) (lk : Bool) (t : Word) (o : BitVec 20) (line : BitVec 24) (s : State), pairRoom s 7 0 ∧
      isMaster s ∧ hasPartner s ∧ a ≠ b ∧ s.waits = [] ∧ s.evq = [] ∧ s.breaks = []) ∧
    (∃ (a b : Fin 32) (tag : Fin 64) (lk : Bool) (t : Word) (o : BitVec 20) (line : BitVec 24) (s : State), pairRoom s 7 0 ∧
      isMaster s ∧ hasPartner s) ∧
    (∃ (a : Fin 32) (tag : Fin 64) (line : BitVec 24) (r : Req) (p : Nat) (s : State), pairRoom s 7 0 ∧ hasPartner s ∧
      ((s.chain.find? fun r => r.agent == a.val && r.tag == tag.val && r.line == line.toNat) = some r) ∧ lockOn s r.line =
      none ∧ r.op = .lkRd ∧ r.src = .port p ∧ r.gone = false) :=
  ⟨⟨.spi, 3, (⟨64, 0, 0, 0, false⟩), 3, ({ sRun with locks := [(3, some ⟨64, 0, 0, 0, false⟩)] }), by decide +kernel⟩, ⟨17,
    2, 5, true, 0, 9, 64#24, sPair, by decide +kernel⟩, ⟨17, 2, 5, true, 0, 9, 64#24,
    ({ sPair with waits := [⟨17, 2, 64, 5, true, 0, 9, true⟩] }), by decide +kernel⟩, ⟨0, 5, 64#24, (rq .lkRd 64), 0,
    ({ sPortPair with chain := [rq .lkRd 64] }), by decide +kernel⟩⟩

theorem wit_AgentLinkLayer :
    (∃ (p : Fin 16) (ack : BitVec 8) (freed : List (BitVec 8)) (s : State), portSends s p.val ∧ (portOf s p.val).txq = []) ∧
    (∃ (p : Fin 16) (s : State), lstate s p.val = 3 ∧ (portOf s p.val).txq = []) ∧
    (∃ (p : Fin 16) (ack : BitVec 8) (freed : List (BitVec 8)) (s : State), portSends s p.val ∧ (portOf s p.val).txq = [] ∧
      (portOf s p.val).link.peerNaks = 0 ∧ (portOf s p.val).link.peerNakSeq ≠ ack.toNat) ∧
    (∃ (p : Fin 16) (rd : BitVec 4) (gs : List (BitVec 10)) (s : State), portSends s p.val ∧ readFlit 1 rd.toNat gs = .bad ∧
      (portOf s p.val).link.rejecting = false) ∧
    (∃ (p : Fin 16) (rd : BitVec 4) (gs : List (BitVec 10)) (bs : List Nat) (s : State), portSends s p.val ∧ readFlit 1
      rd.toNat gs = .good bs ∧ rxFt bs ≠ 1 ∧ ((portOf s p.val).link.lastAcc + 256 - rxSeq bs) % 256 < 64) ∧
    (∃ (p : Fin 16) (rd : BitVec 4) (gs : List (BitVec 10)) (bs : List Nat) (s : State), portSends s p.val ∧ readFlit 1
      rd.toNat gs = .good bs ∧ rxFt bs = 1 ∧ rxByte bs 0 ≠ 0x01 ∧ rxByte bs 0 ≠ 0x02 ∧ rxByte bs 0 ≠ 0x20) ∧
    (∃ (p : Fin 16) (rd : BitVec 4) (gs : List (BitVec 10)) (bs : List Nat) (s : State), portSends s p.val ∧ readFlit 1
      rd.toNat gs = .good bs ∧ isRunning s ∧ lstate s p.val = 4 ∧ rxSeq bs = ((portOf s p.val).link.lastAcc + 1) % 256 ∧ rxFt
      bs = 3) ∧
    (∃ (p : Fin 16) (rd : BitVec 4) (gs : List (BitVec 10)) (bs : List Nat) (s : State), portSends s p.val ∧ readFlit 1
      rd.toNat gs = .good bs ∧ isRunning s ∧ lstate s p.val = 4 ∧ rxSeq bs = ((portOf s p.val).link.lastAcc + 1) % 256 ∧ rxFt
      bs = 0 ∧ (rxVc bs = 1 ∨ rxVc bs = 4 ∨ 6 ≤ rxVc bs)) ∧
    (∃ (p : Fin 16) (rd : BitVec 4) (gs : List (BitVec 10)) (bs : List Nat) (s : State), portSends s p.val ∧ readFlit 1
      rd.toNat gs = .good bs ∧ isRunning s ∧ lstate s p.val = 4 ∧ rxSeq bs = ((portOf s p.val).link.lastAcc + 1) % 256 ∧ rxFt
      bs = 0 ∧ (¬(rxVc bs = 1 ∨ rxVc bs = 4 ∨ 6 ≤ rxVc bs)) ∧ rxByte bs 0 ∉ agentOpcodes (rxVc bs)) ∧
    (∃ (p : Fin 16) (rd : BitVec 4) (gs : List (BitVec 10)) (bs : List Nat) (s : State), portSends s p.val ∧ readFlit 1
      rd.toNat gs = .good bs ∧ isRunning s ∧ lstate s p.val = 4 ∧ rxSeq bs = ((portOf s p.val).link.lastAcc + 1) % 256 ∧ rxFt
      bs = 2 ∧ 0 < (portOf s p.val).link.part) ∧
    (∃ (p : Fin 16) (rd : BitVec 4) (gs : List (BitVec 10)) (s : State), (lstate s p.val = 1 ∨ lstate s p.val = 2 ∨ lstate s
      p.val = 5) ∧ readFlit 1 rd.toNat gs = .bad) ∧
    (∃ (p : Fin 16) (s : State), portSends s p.val) ∧
    (∃ (p : Fin 16) (s : State), portSends s p.val) ∧
    (∃ (p : Fin 16) (s : State), lstate s p.val = 4) ∧
    (∃ (p : Fin 16) (s : State), lstate s p.val = 4) ∧
    (∃ (p : Fin 16) (s : State), lstate s p.val = 4 ∧ (portOf s p.val).link.replay ≠ [] ∧ (portOf s p.val).link.ackAt + 2000
      ≤ s.now) ∧
    (∃ (p : Fin 16) (s : State), lstate s p.val = 4 ∧ (portOf s p.val).link.goodAt + 4000 ≤ s.now) ∧
    (∃ (p : Fin 16) (s : State), lstate s p.val = 5 ∧ (portOf s p.val).link.since + 20000 ≤ s.now ∧ isClean s p.val ∧ (portOf
      s p.val).txq = []) ∧
    (∃ (p : Fin 16) (ack : BitVec 8) (freed : List (BitVec 8)) (s : State), lstate s p.val = 5 ∧ (portOf s p.val).txq = [] ∧
      (portOf s p.val).link.replay = []) :=
  ⟨⟨0, 0, ([3, 0, 0, 4, 0, 0]), sPort, by decide +kernel⟩, ⟨0, (sets sPort [(R.APORT_STAT_LSTATE 0, 3)]), by decide +kernel⟩,
    ⟨0, 9, [], (withPort sPort 0 fun pt =>
    { pt with link := { Link.empty with replay := [⟨0, 4, 9, false, false, 7⟩, ⟨0, 4, 10, false, false, 8⟩] } }),
    by decide +kernel⟩, ⟨0, 0, [], sPort, by decide +kernel⟩, ⟨0, 0, ((codeLane false (flitOctets (hdrBits 0 0 255 false
    false) (1))).1), (natToBytes 2 (hdrBits 0 0 255 false false) ++ natToBytes 16 (1)), sPort, by decide +kernel⟩, ⟨0, 0,
    ((codeLane false (flitOctets (hdrBits 1 0 0 false false) (0x31))).1), (natToBytes 2 (hdrBits 1 0 0 false false) ++
    natToBytes 16 (0x31)), sPort, by decide +kernel⟩, ⟨0, 0, ((codeLane false (flitOctets (hdrBits 3 0 0 false false)
    (1))).1), (natToBytes 2 (hdrBits 3 0 0 false false) ++ natToBytes 16 (1)), sPort, by decide +kernel⟩, ⟨0, 0, ((codeLane
    false (flitOctets (hdrBits 0 1 0 false false) (0x20))).1), (natToBytes 2 (hdrBits 0 1 0 false false) ++ natToBytes 16
    (0x20)), sPort, by decide +kernel⟩, ⟨0, 0, ((codeLane false (flitOctets (hdrBits 0 0 0 false false) (0x08))).1),
    (natToBytes 2 (hdrBits 0 0 0 false false) ++ natToBytes 16 (0x08)), sPort, by decide +kernel⟩, ⟨0, 0, ((codeLane false
    (flitOctets (hdrBits 2 3 1 false false) (7))).1), (natToBytes 2 (hdrBits 2 3 1 false false) ++ natToBytes 16 (7)),
    (withPort sPort 0 fun pt => { pt with link := { Link.empty with lastAcc := 0, part := 1 } }), by decide +kernel⟩, ⟨0, 0,
    [], (withPort (sets sPort [(R.APORT_STAT_LSTATE 0, 2)]) 0 fun pt =>
    { pt with link := { Link.empty with tsCount := 9 } }), by decide +kernel⟩, ⟨0, sPort, by decide +kernel⟩, ⟨0, sPort,
    by decide +kernel⟩, ⟨0, sPort, by decide +kernel⟩, ⟨0, sPort, by decide +kernel⟩, ⟨0,
    ({ withPort sPort 0 fun pt => { pt with link := { Link.empty with replay := [⟨0, 4, 9, false, false, 7⟩] } } with now := 3000 }),
    by decide +kernel⟩, ⟨0, ({ sPort with now := 5000 }), by decide +kernel⟩, ⟨0,
    ({ sets sPort [(R.APORT_STAT_LSTATE 0, 5)] with now := 30000 }), by decide +kernel⟩, ⟨0, 0, [], (sets sPort
    [(R.APORT_STAT_LSTATE 0, 5)]), by decide +kernel⟩⟩

theorem wit_AgentLinkTraining :
    (∃ (p : Fin 16) (s : State), mayTrain s p.val ∧ (portOf s p.val).link.failed = false) ∧
    (∃ (p : Fin 16) (s : State), mayTrain s p.val ∧ (portOf s p.val).link.failed ∧ (portOf s p.val).link.since + 1000000 ≤
      s.now) ∧
    (∃ (p : Fin 16) (lanes : BitVec 20) (s : State), lstate s p.val = 1 ∧ (portOf s p.val).link.tsCount = 63) ∧
    (∃ (p : Fin 16) (c : Ts2) (s : State), lstate s p.val = 2 ∧ (portOf s p.val).link.tsCount = 15 ∧ (portOf s
      p.val).link.tsCaps = some c ∧ capCheck s c = 0) ∧
    (∃ (p : Fin 16) (c : Ts2) (e : Nat) (s : State), lstate s p.val = 2 ∧ (portOf s p.val).link.tsCount = 15 ∧ (portOf s
      p.val).link.tsCaps = some c ∧ capCheck s c = e ∧ e ≠ 0) ∧
    (∃ (p : Fin 16) (s : State), lstate s p.val = 1 ∧ (portOf s p.val).link.since + 100000 ≤ s.now) ∧
    (∃ (path : Path) (p : Fin 16) (v : Word) (s : State), ownCa path (R.APORT_CTL_EN p.val).key ∧ accepted path (0x08 +
      p.val) 0x040 (withField v (R.APORT_CTL_LRESET 0).lo 1 1) s ∧ bitOf v (R.APORT_CTL_EN 0) ∧ higherReset s = false ∧
      isClean s p.val ∧ isHalted s = false ∧ (portOf s p.val).txq = []) ∧
    (∃ (path : Path) (p : Fin 16) (v : Word) (s : State), ownCa path (R.APORT_CTL_EN p.val).key ∧ accepted path (0x08 +
      p.val) 0x040 (withField v (R.APORT_CTL_EN 0).lo 1 0) s ∧ bitOf v (R.APORT_CTL_LRESET 0) = false ∧ getF s
      (R.APORT_CTL_EN p.val) = 1 ∧ portUp s p.val ∧ higherReset s = false ∧ isClean s p.val ∧ isHalted s = false ∧ (portOf s
      p.val).txq = []) :=
  ⟨⟨0, (sets sPort [(R.APORT_STAT_LSTATE 0, 0)]), by decide +kernel⟩, ⟨0,
    ({ withPort (sets sPort [(R.APORT_STAT_LSTATE 0, 0)]) 0 fun pt => { pt with link := { Link.empty with failed := true } } with now := 1000000 }),
    by decide +kernel⟩, ⟨0, 0, (withPort (sets sPort [(R.APORT_STAT_LSTATE 0, 1)]) 0 fun pt =>
    { pt with link := { Link.empty with tsCount := 63 } }), by decide +kernel⟩, ⟨0, (⟨2, true, true, true, false, true, [0,
    64, 0, 64, 64, 16], false, false, 0x10, 7⟩), (withPort (sets sPort [(R.APORT_STAT_LSTATE 0, 2)]) 0 fun pt =>
    { pt with link := { Link.empty with tsCount := 15, tsCaps := some ⟨2, true, true, true, false, true, [0, 64, 0, 64, 64, 16], false, false, 0x10, 7⟩ } }),
    by decide +kernel⟩, ⟨0, (⟨3, true, true, true, false, true, [0, 64, 0, 64, 64, 16], false, false, 0x10, 7⟩), 2, (withPort
    (sets sPort [(R.APORT_STAT_LSTATE 0, 2)]) 0 fun pt =>
    { pt with link := { Link.empty with tsCount := 15, tsCaps := some ⟨3, true, true, true, false, true, [0, 64, 0, 64, 64, 16], false, false, 0x10, 7⟩ } }),
    by decide +kernel⟩, ⟨0, ({ sets sPort [(R.APORT_STAT_LSTATE 0, 1)] with now := 100000 }), by decide +kernel⟩, ⟨.spi, 0,
    1, sPort, by decide +kernel⟩, ⟨.spi, 0, 0, sPort, by decide +kernel⟩⟩

theorem wit_PairLinkLayer :
    (∃ (ack : BitVec 8) (freed : List (BitVec 8)) (s : State), pairLstate s = 6 ∧ s.pair.txq = []) ∧
    (∃ (s : State), pairLstate s = 6) ∧
    (∃ (s : State), pairLstate s = 6) ∧
    (∃ (ack : BitVec 8) (freed : List (BitVec 8)) (s : State), pairLstate s = 6 ∧ s.pair.txq = [] ∧ s.pair.link.peerNaks = 0
      ∧ s.pair.link.peerNakSeq ≠ ack.toNat) ∧
    (∃ (rd : BitVec 4) (gs : List (BitVec 10)) (s : State), pairLstate s = 6 ∧ readFlit 4 rd.toNat gs = .bad ∧
      s.pair.link.rejecting = false) ∧
    (∃ (s : State), pairLstate s = 6) ∧
    (∃ (s : State), pairLstate s = 6) ∧
    (∃ (s : State), pairLstate s = 6 ∧ s.pair.sent ≠ [] ∧ s.pair.link.ackAt + 2000 ≤ s.now) ∧
    (∃ (s : State), pairLstate s = 6 ∧ s.pair.link.goodAt + 4000 ≤ s.now) ∧
    (∃ (s : State), pairLstate s = 7 ∧ s.pair.link.since + 20000 ≤ s.now ∧ isLost s = false ∧ isJoined s = false) ∧
    (∃ (s : State), pairMayTrain s ∧ s.pair.link.failed = false) ∧
    (∃ (s : State), pairMayTrain s ∧ s.pair.link.failed ∧ s.pair.link.since + 1000000 ≤ s.now) ∧
    (∃ (s : State), pairMayTrain s ∧ s.pair.link.failed ∧ s.pair.link.since + 1000000 ≤ s.now) ∧
    (∃ (t code : Nat) (s : State), pairTimeout s = some (t, code) ∧ s.pair.link.since + t ≤ s.now) ∧
    (∃ (t code : Nat) (s : State), pairTimeout s = some (t, code) ∧ s.pair.link.since + t ≤ s.now) ∧
    (∃ (lanes : BitVec 20) (s : State), pairLstate s = 1 ∧ s.pair.link.tsCount = 63) ∧
    (∃ (c : Ts2) (s : State), pairLstate s = 3 ∧ s.pair.link.tsCount = 15 ∧ s.pair.link.tsCaps = some c ∧ pairCapCheck s c =
      0) ∧
    (∃ (s : State), pairLstate s = 5 ∧ isHub1 s ∧ s.pair.txq = []) ∧
    (∃ (path : Path) (v : Word) (s : State), ownCa path R.PAIR_CTL_LRESET.key ∧ accepted path 0x18 0x040 (withField v
      R.PAIR_CTL_LRESET.lo 1 1) s ∧ bitOf v R.PAIR_CTL_EN ∧ pairOn s ∧ isLost s = false ∧ isJoined s ∧ isHalted s = false ∧
      getF s R.GLOBAL_FAIL_CTL_DEAD_POL ≠ 1) :=
  ⟨⟨0, [], sPair, by decide +kernel⟩, ⟨sPair, by decide +kernel⟩, ⟨sPair, by decide +kernel⟩, ⟨9, [],
    ({ sPair with pair := { PairSt.empty with sent := [⟨9, 1, .join⟩, ⟨10, 1, .joined⟩] } }), by decide +kernel⟩, ⟨9, [],
    sPair, by decide +kernel⟩, ⟨sPair, by decide +kernel⟩, ⟨sPair, by decide +kernel⟩,
    ⟨({ sPair with now := 3000, pair := { PairSt.empty with sent := [⟨9, 1, .join⟩] } }), by decide +kernel⟩,
    ⟨({ sPair with now := 5000 }), by decide +kernel⟩,
    ⟨({ sets sPair [(R.PAIR_STAT_LSTATE, 7), (R.PAIR_STAT_JOINED, 0)] with now := 30000 }), by decide +kernel⟩, ⟨(sets sPair
    [(R.PAIR_STAT_LSTATE, 0), (R.PAIR_STAT_JOINED, 0)]), by decide +kernel⟩,
    ⟨({ sets sPair [(R.PAIR_STAT_LSTATE, 0), (R.PAIR_STAT_JOINED, 0)] with now := 1000000, pair := { PairSt.empty with link := { Link.empty with failed := true } } }),
    by decide +kernel⟩,
    ⟨({ sets sPair [(R.PAIR_STAT_LSTATE, 0), (R.PAIR_STAT_JOINED, 0)] with now := 1000000, pair := { PairSt.empty with link := { Link.empty with failed := true } } }),
    by decide +kernel⟩, ⟨20000, 2, ({ sets sPair [(R.PAIR_STAT_LSTATE, 2), (R.PAIR_STAT_JOINED, 0)] with now := 30000 }),
    by decide +kernel⟩, ⟨20000, 2, ({ sets sPair [(R.PAIR_STAT_LSTATE, 2), (R.PAIR_STAT_JOINED, 0)] with now := 30000 }),
    by decide +kernel⟩, ⟨0,
    ({ sets sPair [(R.PAIR_STAT_LSTATE, 1)] with pair := { PairSt.empty with link := { Link.empty with tsCount := 63 } } }),
    by decide +kernel⟩, ⟨(⟨2, true, true, true, false, true, [], true, true, 0x10, 0x123456789#64⟩),
    ({ sets sPair [(R.PAIR_STAT_LSTATE, 3)] with pair := { PairSt.empty with link := { Link.empty with tsCount := 15, tsCaps := some ⟨2, true, true, true, false, true, [], true, true, 0x10, 0x123456789#64⟩ } } }),
    by decide +kernel⟩, ⟨(sets sHub1 [(R.PAIR_STAT_LSTATE, 5), (R.PAIR_STAT_JOINED, 0)]), by decide +kernel⟩, ⟨.spi, 1, (sets
    sPair [(R.GLOBAL_FAIL_CTL_DEAD_POL, 0)]), by decide +kernel⟩⟩

theorem wit_PairJoinAndMirror :
    (∃ (n : Fin 16) (s : State), isHub1 s ∧ pairOn s ∧ inDelay s ∧ n ≠ 15) ∧
    (∃ (s : State), isHub1 s ∧ pairOn s ∧ pairLstate s = 4) ∧
    (∃ (rtt : BitVec 16) (s : State), isMaster s ∧ pairOn s ∧ inDelay s ∧ s.pair.echoes.length < 15) ∧
    (∃ (rtt : BitVec 16) (s : State), isMaster s ∧ pairOn s ∧ inDelay s ∧ s.pair.echoes.length = 15 ∧ (((s.pair.echoes ++
      [rtt.toNat]).map (· - 40)).sum + 31) / 32 ≤ 1000) ∧
    (∃ (s : State), pairRoom s 7 0 ∧ isMirror s ∧ isJoined s = false ∧ isLost s = false) ∧
    (∃ (s : State), pairRoom s 7 0 ∧ isMaster s ∧ pairOn s ∧ s.pair.joining ∧ isJoined s = false ∧ isLost s = false ∧
      s.tick.running = false ∧ stage s = 4) ∧
    (∃ (t : Nat) (s : State), s.pair.loadedAt = some t ∧ pairOn s ∧ isJoined s = false ∧ s.pair.joinTmo = false ∧ t + 1000000
      * getF s R.PAIR_JOIN_TMO_MS ≤ s.now) ∧
    (∃ (ca : BitVec 20) (v : Word) (s : State), pairRoom s 7 0 ∧ isMirror s ∧ isLost s = false ∧ ca.toNat ≠ regionCtlKey ∧
      ca.toNat ≠ pairDlyKey ∧ (isTenantCtl (ca.toNat / 4096) (ca.toNat % 4096) && v.getLsbD 8) = false) ∧
    (∃ (s : State), pairRoom s 7 0 ∧ s.pair.mirrorQ.length ≤ 256) :=
  ⟨⟨3, (sets sHub1 [(R.PAIR_STAT_LSTATE, 4)]), by decide +kernel⟩, ⟨(sets sHub1 [(R.PAIR_STAT_LSTATE, 4)]),
    by decide +kernel⟩, ⟨100, (sets sPair [(R.PAIR_STAT_LSTATE, 4)]), by decide +kernel⟩, ⟨101,
    ({ sets sPair [(R.PAIR_STAT_LSTATE, 4)] with pair := { PairSt.empty with echoes := List.replicate 15 100 } }),
    by decide +kernel⟩, ⟨(sets sHub1 [(R.PAIR_STAT_JOINED, 0)]), by decide +kernel⟩,
    ⟨({ sets sPair [(R.PAIR_STAT_JOINED, 0)] with pair := { PairSt.empty with joining := true, runHeld := true } }),
    by decide +kernel⟩, ⟨0,
    ({ sets sPair [(R.PAIR_STAT_JOINED, 0)] with now := 100000000000, pair := { PairSt.empty with loadedAt := some 0 } }),
    by decide +kernel⟩, ⟨0x01044#20, 30000, sHub1, by decide +kernel⟩,
    ⟨({ sPair with pair := { PairSt.empty with mirrorQ := [5, 6] } }), by decide +kernel⟩⟩

theorem wit_PairForwarding :
    (∃ (p : Fin 16) (tag : Fin 64) (r : Fin 8) (t : TagSt) (s : State), pairRoom s 7 0 ∧ tagOf (portOf s p.val) tag.val =
      some t ∧ t.remote) ∧
    (∃ (a : Fin 32) (tag : Fin 64) (s : State), pairRoom s 7 0 ∧ hasPartner s ∧ forwardedReq s a.val tag.val = none) ∧
    (∃ (a : Fin 32) (tag : Fin 64) (r : Req) (s : State), pairRoom s 7 0 ∧ hasPartner s ∧ forwardedReq s a.val tag.val = some
      r ∧ ((s.arb.waiting.find? fun y => y.id == r.id).any fun w => !awaitsMatch s w)) ∧
    (∃ (p : Fin 16) (tag : Fin 64) (t : TagSt) (s : State), pairRoom s 7 0 ∧ tagOf (portOf s p.val) tag.val = some t ∧
      t.remote ∧ trackerOf s p.val tag.val = none) ∧
    (∃ (p : Fin 16) (tag : Fin 64) (s : State), pairRoom s 7 0) ∧
    (∃ (t b : Fin 32) (s : State), pairRoom s 5 0) ∧
    (∃ (p : Fin 16) (k : SnpKind) (nd : Bool) (ha : BitVec 30) (set : Fin 32768) (s : State), pairRoom s 1 0 ∧ hasPartner s ∧
      isDead s (agentOf s p.val)) ∧
    (∃ (p : Fin 16) (k : SnpKind) (nd : Bool) (ha : BitVec 30) (set : Fin 32768) (i : Nat) (s : State), pairRoom s 1 0 ∧
      hasPartner s ∧ isDead s (agentOf s p.val) = false ∧ portUp s p.val ∧ k ≠ .snpFlushSet ∧ (transHa s p.val (ha.toNat / 64
      * 64)).isSome ∧ freeSid (portOf s p.val) = some i) ∧
    (∃ (p : Fin 16) (tag : Fin 64) (op : BitVec 8) (spec : BitVec 40) (fs : List DFlit) (t : TagSt) (s : State), pairRoom s
      (fwdChan (.completion op spec fs)).1 (fwdChan (.completion op spec fs)).2 ∧ hasPartner s ∧ tagOf (portOf s p.val)
      tag.val = some t ∧ t.remote) ∧
    (∃ (p : Fin 16) (tag : Fin 64) (r : Fin 8) (t : TagSt) (tr : Tracker) (s : State), pairRoom s 4 0 ∧ hasPartner s ∧ tagOf
      (portOf s p.val) tag.val = some t ∧ t.remote ∧ trackerOf s p.val tag.val = some tr ∧ tr.timedOut = false) :=
  ⟨⟨0, 5, 2, ({ tagSt 1 with remote := true }), (withPort sPortPair 0 fun pt =>
    { pt with tags := [(5, some { tagSt 1 with remote := true })] }), by decide +kernel⟩, ⟨17, 5, sPair, by decide +kernel⟩,
    ⟨17, 5, ({ rq .rdS 64 with src := .pair 17, agent := 17 }),
    ({ sPair with arb := { State.reset.arb with waiting := [{ rq .rdS 64 with src := .pair 17, agent := 17 }] } }),
    by decide +kernel⟩, ⟨0, 5, ({ tagSt 1 with remote := true }), (withPort sPortPair 0 fun pt =>
    { pt with tags := [(5, some { tagSt 1 with remote := true })] }), by decide +kernel⟩, ⟨0, 5, sPair, by decide +kernel⟩,
    ⟨3, 7, sPair, by decide +kernel⟩, ⟨0, .snpInv, false, 0x1000, 0, (sets sPortPair [(R.GLOBAL_DEAD_IDS, 1)]),
    by decide +kernel⟩, ⟨0, .snpInv, false, 0x1000, 0, 0, sPortPair, by decide +kernel⟩, ⟨0, 5, 0x35, 0, [],
    ({ tagSt 1 with remote := true }), (withPort sPortPair 0 fun pt =>
    { pt with tags := [(5, some { tagSt 1 with remote := true })] }), by decide +kernel⟩, ⟨0, 5, 0,
    ({ tagSt 1 with remote := true }), (⟨0, 5, true, 0, 0, [], false, 0x30, false⟩),
    ({ (withPort sPortPair 0 fun pt => { pt with tags := [(5, some { tagSt 1 with remote := true })] }) with trackers := [⟨0, 5, true, 0, 0, [], false, 0x30, false⟩] }),
    by decide +kernel⟩⟩

theorem wit_Mailboxes :
    (∃ (h : Hdr) (p : Fin 16) (m : Fin 256) (fs : List DFlit) (s : State), msgReady s h p fs 1 ∧ mboxHub s m.val = .here ∧
      mbEn s m.val ∧ (getReg s.regs (regKey (pgMbox (mbG m.val)) (0x104 + 0x40 * mbK m.val))).getLsbD h.tenant.val ∧ mbOut s
      m.val = false ∧ (mboxOf s m.val).q.length < 16) ∧
    (∃ (h : Hdr) (a : Fin 32) (m : Fin 256) (fs : List DFlit) (s : State), h.src = .partner a ∧ pairRoom s 5 fs.length ∧
      hasPartner s ∧ discards s = false ∧ mboxHub s m.val = .here ∧ mbEn s m.val ∧ (getReg s.regs (regKey (pgMbox (mbG
      m.val)) (0x104 + 0x40 * mbK m.val))).getLsbD h.tenant.val ∧ mbOut s m.val = false ∧ (mboxOf s m.val).q.length < 16 ∧ fs
      ≠ []) ∧
    (∃ (h : Hdr) (p : Fin 16) (m : Fin 256) (fs : List DFlit) (s : State), msgReady s h p fs 1 ∧ mboxHub s m.val = .here ∧
      mbEn s m.val ∧ (getReg s.regs (regKey (pgMbox (mbG m.val)) (0x104 + 0x40 * mbK m.val))).getLsbD h.tenant.val ∧ mbOut s
      m.val = false ∧ 16 ≤ (mboxOf s m.val).q.length ∧ getF s (R.MBOX_CTL_FULL_POL (mbG m.val) (mbK m.val)) = 0) ∧
    (∃ (h : Hdr) (a : Fin 32) (m : Fin 256) (fs : List DFlit) (s : State), h.src = .partner a ∧ pairRoom s 5 fs.length ∧
      hasPartner s ∧ discards s = false ∧ mboxHub s m.val = .here ∧ mbEn s m.val ∧ (getReg s.regs (regKey (pgMbox (mbG
      m.val)) (0x104 + 0x40 * mbK m.val))).getLsbD h.tenant.val ∧ mbOut s m.val = false ∧ 16 ≤ (mboxOf s m.val).q.length ∧
      getF s (R.MBOX_CTL_FULL_POL (mbG m.val) (mbK m.val)) = 0 ∧ fs ≠ []) ∧
    (∃ (h : Hdr) (p : Fin 16) (m : Fin 256) (fs : List DFlit) (s : State), msgReady s h p fs 1 ∧ mboxHub s m.val = .here ∧
      mbEn s m.val ∧ (getReg s.regs (regKey (pgMbox (mbG m.val)) (0x104 + 0x40 * mbK m.val))).getLsbD h.tenant.val ∧ mbOut s
      m.val = false ∧ 16 ≤ (mboxOf s m.val).q.length ∧ getF s (R.MBOX_CTL_FULL_POL (mbG m.val) (mbK m.val)) ≠ 0 ∧ (mboxOf s
      m.val).inFlight = false) ∧
    (∃ (h : Hdr) (a : Fin 32) (m : Fin 256) (fs : List DFlit) (s : State), h.src = .partner a ∧ pairRoom s 5 fs.length ∧
      hasPartner s ∧ discards s = false ∧ mboxHub s m.val = .here ∧ mbEn s m.val ∧ (getReg s.regs (regKey (pgMbox (mbG
      m.val)) (0x104 + 0x40 * mbK m.val))).getLsbD h.tenant.val ∧ mbOut s m.val = false ∧ 16 ≤ (mboxOf s m.val).q.length ∧
      getF s (R.MBOX_CTL_FULL_POL (mbG m.val) (mbK m.val)) ≠ 0 ∧ (mboxOf s m.val).inFlight = false ∧ fs ≠ []) ∧
    (∃ (h : Hdr) (p : Fin 16) (m : Fin 256) (fs : List DFlit) (s : State), msgReady s h p fs 1 ∧ mboxHub s m.val = .here ∧
      mbEn s m.val = false) ∧
    (∃ (h : Hdr) (a : Fin 32) (m : Fin 256) (fs : List DFlit) (s : State), h.src = .partner a ∧ pairRoom s 5 fs.length ∧
      hasPartner s ∧ discards s = false ∧ mboxHub s m.val = .here ∧ mbEn s m.val = false ∧ fs ≠ []) ∧
    (∃ (h : Hdr) (p : Fin 16) (m : Fin 256) (fs : List DFlit) (s : State), msgReady s h p fs 1 ∧ mboxHub s m.val = .here ∧
      mbEn s m.val ∧ ((getReg s.regs (regKey (pgMbox (mbG m.val)) (0x104 + 0x40 * mbK m.val))).getLsbD h.tenant.val) = false) ∧
    (∃ (h : Hdr) (a : Fin 32) (m : Fin 256) (fs : List DFlit) (s : State), h.src = .partner a ∧ pairRoom s 5 fs.length ∧
      hasPartner s ∧ discards s = false ∧ mboxHub s m.val = .here ∧ mbEn s m.val ∧ ((getReg s.regs (regKey (pgMbox (mbG
      m.val)) (0x104 + 0x40 * mbK m.val))).getLsbD h.tenant.val) = false ∧ fs ≠ []) ∧
    (∃ (h : Hdr) (p : Fin 16) (m : Fin 256) (sl : MSlot) (q : List MSlot) (s : State), msgReady s h p [] 0 ∧ mboxHub s m.val
      = .here ∧ mbEn s m.val ∧ getF s (R.MBOX_CTL_RX_TENANT (mbG m.val) (mbK m.val)) = h.tenant.val ∧ mbOut s m.val = false ∧
      getF s (R.MBOX_CTL_EPOCH_FILTER (mbG m.val) (mbK m.val)) = 0 ∧ (mboxOf s m.val).q = sl :: q ∧ sl.bad = false) ∧
    (∃ (h : Hdr) (a : Fin 32) (m : Fin 256) (sl : MSlot) (q : List MSlot) (s : State), h.src = .partner a ∧ pairRoom s 5 0 ∧
      hasPartner s ∧ discards s = false ∧ mboxHub s m.val = .here ∧ mbEn s m.val ∧ getF s (R.MBOX_CTL_RX_TENANT (mbG m.val)
      (mbK m.val)) = h.tenant.val ∧ mbOut s m.val = false ∧ getF s (R.MBOX_CTL_EPOCH_FILTER (mbG m.val) (mbK m.val)) = 0 ∧
      (mboxOf s m.val).q = sl :: q ∧ sl.bad = false) ∧
    (∃ (h : Hdr) (p : Fin 16) (m : Fin 256) (sl : MSlot) (q : List MSlot) (s : State), msgReady s h p [] 0 ∧ mboxHub s m.val
      = .here ∧ mbEn s m.val ∧ getF s (R.MBOX_CTL_RX_TENANT (mbG m.val) (mbK m.val)) = h.tenant.val ∧ mbOut s m.val = false ∧
      getF s (R.MBOX_CTL_EPOCH_FILTER (mbG m.val) (mbK m.val)) = 0 ∧ (mboxOf s m.val).q = sl :: q ∧ sl.bad ∧ getF s (capValid
      (pgMbox (mbG m.val))) = 0) ∧
    (∃ (h : Hdr) (a : Fin 32) (m : Fin 256) (sl : MSlot) (q : List MSlot) (s : State), h.src = .partner a ∧ pairRoom s 5 0 ∧
      hasPartner s ∧ discards s = false ∧ mboxHub s m.val = .here ∧ mbEn s m.val ∧ getF s (R.MBOX_CTL_RX_TENANT (mbG m.val)
      (mbK m.val)) = h.tenant.val ∧ mbOut s m.val = false ∧ getF s (R.MBOX_CTL_EPOCH_FILTER (mbG m.val) (mbK m.val)) = 0 ∧
      (mboxOf s m.val).q = sl :: q ∧ sl.bad ∧ getF s (capValid (pgMbox (mbG m.val))) = 0) ∧
    (∃ (h : Hdr) (p : Fin 16) (m : Fin 256) (s : State), msgReady s h p [] 0 ∧ mboxHub s m.val = .here ∧ mbEn s m.val ∧ getF
      s (R.MBOX_CTL_RX_TENANT (mbG m.val) (mbK m.val)) = h.tenant.val ∧ mbOut s m.val = false ∧ (mboxOf s m.val).q = []) ∧
    (∃ (h : Hdr) (a : Fin 32) (m : Fin 256) (s : State), h.src = .partner a ∧ pairRoom s 5 0 ∧ hasPartner s ∧ discards s =
      false ∧ mboxHub s m.val = .here ∧ mbEn s m.val ∧ getF s (R.MBOX_CTL_RX_TENANT (mbG m.val) (mbK m.val)) = h.tenant.val ∧
      mbOut s m.val = false ∧ (mboxOf s m.val).q = []) ∧
    (∃ (h : Hdr) (p : Fin 16) (m : Fin 256) (s : State), msgReady s h p [] 0 ∧ mboxHub s m.val = .here ∧ mbEn s m.val ∧ getF
      s (R.MBOX_CTL_RX_TENANT (mbG m.val) (mbK m.val)) ≠ h.tenant.val) ∧
    (∃ (h : Hdr) (a : Fin 32) (m : Fin 256) (s : State), h.src = .partner a ∧ pairRoom s 5 0 ∧ hasPartner s ∧ discards s =
      false ∧ mboxHub s m.val = .here ∧ mbEn s m.val ∧ getF s (R.MBOX_CTL_RX_TENANT (mbG m.val) (mbK m.val)) ≠ h.tenant.val) ∧
    (∃ (h : Hdr) (p : Fin 16) (m : Fin 256) (s : State), msgReady s h p [] 0 ∧ mboxHub s m.val = .here ∧ mbEn s m.val ∧ getF
      s (R.MBOX_CTL_RX_TENANT (mbG m.val) (mbK m.val)) = h.tenant.val) ∧
    (∃ (h : Hdr) (a : Fin 32) (m : Fin 256) (s : State), h.src = .partner a ∧ pairRoom s 5 0 ∧ hasPartner s ∧ discards s =
      false ∧ mboxHub s m.val = .here ∧ mbEn s m.val ∧ getF s (R.MBOX_CTL_RX_TENANT (mbG m.val) (mbK m.val)) = h.tenant.val) ∧
    (∃ (h : Hdr) (p : Fin 16) (k : Fin 5) (m : Fin 256) (fs : List DFlit) (s : State), msgReady s h p fs (fs.length)) ∧
    (∃ (h : Hdr) (p : Fin 16) (k : Fin 4) (m : Fin 256) (s : State), msgReady s h p [] (0)) :=
  ⟨⟨(hd 5 5 0), 0, 2, ([⟨7, false, true⟩]), (sets sPort [(R.MBOX_CTL_EN 0 2, 1), (R.MBOX_SEND_MASK_T 0 2, 1)]),
    by decide +kernel⟩, ⟨(⟨.partner 17, 0, 5, 5, 0, 3⟩), 17, 2, ([⟨7, false, true⟩]), (sets sPortPair [(R.MBOX_CTL_EN 0 2,
    1), (R.MBOX_SEND_MASK_T 0 2, 1)]), by decide +kernel⟩, ⟨(hd 5 5 0), 0, 2, ([⟨7, false, true⟩]),
    ({ (sets sPort [(R.MBOX_CTL_EN 0 2, 1), (R.MBOX_SEND_MASK_T 0 2, 1), (R.MBOX_CTL_FULL_POL 0 2, 0)]) with mboxes := [(2, { Mbox.empty with q := (List.replicate 16 ⟨Quad.zero, 0, false⟩) })] }),
    by decide +kernel⟩, ⟨(⟨.partner 17, 0, 5, 5, 0, 3⟩), 17, 2, ([⟨7, false, true⟩]),
    ({ (sets sPortPair [(R.MBOX_CTL_EN 0 2, 1), (R.MBOX_SEND_MASK_T 0 2, 1), (R.MBOX_CTL_FULL_POL 0 2, 0)]) with mboxes := [(2, { Mbox.empty with q := (List.replicate 16 ⟨Quad.zero, 0, false⟩) })] }),
    by decide +kernel⟩, ⟨(hd 5 5 0), 0, 2, ([⟨7, false, true⟩]),
    ({ (sets sPort [(R.MBOX_CTL_EN 0 2, 1), (R.MBOX_SEND_MASK_T 0 2, 1), (R.MBOX_CTL_FULL_POL 0 2, 1)]) with mboxes := [(2, { Mbox.empty with q := (List.replicate 16 ⟨Quad.zero, 0, false⟩) })] }),
    by decide +kernel⟩, ⟨(⟨.partner 17, 0, 5, 5, 0, 3⟩), 17, 2, ([⟨7, false, true⟩]),
    ({ (sets sPortPair [(R.MBOX_CTL_EN 0 2, 1), (R.MBOX_SEND_MASK_T 0 2, 1), (R.MBOX_CTL_FULL_POL 0 2, 1)]) with mboxes := [(2, { Mbox.empty with q := (List.replicate 16 ⟨Quad.zero, 0, false⟩) })] }),
    by decide +kernel⟩, ⟨(hd 5 5 0), 0, 2, ([⟨7, false, true⟩]), sPort, by decide +kernel⟩, ⟨(⟨.partner 17, 0, 5, 5, 0, 3⟩),
    17, 2, ([⟨7, false, true⟩]), sPortPair, by decide +kernel⟩, ⟨(hd 5 5 0), 0, 2, ([⟨7, false, true⟩]), (sets sPort
    [(R.MBOX_CTL_EN 0 2, 1)]), by decide +kernel⟩, ⟨(⟨.partner 17, 0, 5, 5, 0, 3⟩), 17, 2, ([⟨7, false, true⟩]), (sets
    sPortPair [(R.MBOX_CTL_EN 0 2, 1)]), by decide +kernel⟩, ⟨(hd 5 5 0), 0, 2, (⟨⟨9, false⟩, 77, false⟩), ([⟨⟨9, false⟩, 77,
    false⟩]),
    ({ (sets sPort [(R.MBOX_CTL_EN 0 2, 1)]) with mboxes := [(2, { Mbox.empty with q := [⟨⟨9, false⟩, 77, false⟩, ⟨⟨9, false⟩, 77, false⟩] })] }),
    by decide +kernel⟩, ⟨(⟨.partner 17, 0, 5, 5, 0, 3⟩), 17, 2, (⟨⟨9, false⟩, 77, false⟩), ([⟨⟨9, false⟩, 77, false⟩]),
    ({ (sets sPortPair [(R.MBOX_CTL_EN 0 2, 1)]) with mboxes := [(2, { Mbox.empty with q := [⟨⟨9, false⟩, 77, false⟩, ⟨⟨9, false⟩, 77, false⟩] })] }),
    by decide +kernel⟩, ⟨(hd 5 5 0), 0, 2, (⟨⟨9, false⟩, 77, true⟩), ([⟨⟨9, false⟩, 77, false⟩]),
    ({ (sets sPort [(R.MBOX_CTL_EN 0 2, 1)]) with mboxes := [(2, { Mbox.empty with q := [⟨⟨9, false⟩, 77, true⟩, ⟨⟨9, false⟩, 77, false⟩] })] }),
    by decide +kernel⟩, ⟨(⟨.partner 17, 0, 5, 5, 0, 3⟩), 17, 2, (⟨⟨9, false⟩, 77, true⟩), ([⟨⟨9, false⟩, 77, false⟩]),
    ({ (sets sPortPair [(R.MBOX_CTL_EN 0 2, 1)]) with mboxes := [(2, { Mbox.empty with q := [⟨⟨9, false⟩, 77, true⟩, ⟨⟨9, false⟩, 77, false⟩] })] }),
    by decide +kernel⟩, ⟨(hd 5 5 0), 0, 2, (sets sPort [(R.MBOX_CTL_EN 0 2, 1)]), by decide +kernel⟩, ⟨(⟨.partner 17, 0, 5,
    5, 0, 3⟩), 17, 2, (sets sPortPair [(R.MBOX_CTL_EN 0 2, 1)]), by decide +kernel⟩, ⟨(hd 5 5 0), 0, 2, (sets sPort
    [(R.MBOX_CTL_EN 0 2, 1), (R.MBOX_CTL_RX_TENANT 0 2, 3)]), by decide +kernel⟩, ⟨(⟨.partner 17, 0, 5, 5, 0, 3⟩), 17, 2,
    (sets sPortPair [(R.MBOX_CTL_EN 0 2, 1), (R.MBOX_CTL_RX_TENANT 0 2, 3)]), by decide +kernel⟩, ⟨(hd 5 5 0), 0, 2,
    ({ (sets sPort [(R.MBOX_CTL_EN 0 2, 1)]) with mboxes := [(2, { Mbox.empty with q := [⟨⟨9, false⟩, 77, false⟩, ⟨⟨9, false⟩, 77, false⟩] })] }),
    by decide +kernel⟩, ⟨(⟨.partner 17, 0, 5, 5, 0, 3⟩), 17, 2,
    ({ (sets sPortPair [(R.MBOX_CTL_EN 0 2, 1)]) with mboxes := [(2, { Mbox.empty with q := [⟨⟨9, false⟩, 77, false⟩, ⟨⟨9, false⟩, 77, false⟩] })] }),
    by decide +kernel⟩, ⟨(hd 5 5 0), 0, 2, 0, ([⟨7, false, true⟩]), sPort, by decide +kernel⟩, ⟨(hd 5 5 0), 0, 2, 0, sPort,
    by decide +kernel⟩⟩

theorem wit_DoorbellsAndServicePosts :
    (∃ (h : Hdr) (p : Fin 16) (fs : List DFlit) (s : State), msgReady s h p fs 1 ∧ wordHub s h.tenant.val = .here) ∧
    (∃ (h : Hdr) (a : Fin 32) (fs : List DFlit) (s : State), h.src = .partner a ∧ pairRoom s 5 fs.length ∧ hasPartner s ∧
      discards s = false ∧ wordHub s h.tenant.val = .here ∧ fs ≠ []) ∧
    (∃ (h : Hdr) (p : Fin 16)  (s : State), msgReady s h p [] 0 ∧ wordHub s h.tenant.val = .here) ∧
    (∃ (h : Hdr) (a : Fin 32)  (s : State), h.src = .partner a ∧ pairRoom s 5 0 ∧ hasPartner s ∧ discards s = false ∧ wordHub
      s h.tenant.val = .here) ∧
    (∃ (t : Fin 32) (p : Nat) (s : State), portOfAgent s (getF s (R.TENANT_DB_CTL_AGENT t.val)) = some p ∧ isRunning s ∧ getF
      s (R.TENANT_DB_CTL_NOTIFIED t.val) = 0 ∧ tenantOk s p t.val ∧ tenantResetting s t.val = false ∧ lstate s p = 4 ∧
      Nat.land (getF s (R.TENANT_DB_WORD_BITS t.val)) (getF s (R.TENANT_DB_MASK_BITS t.val)) ≠ 0) ∧
    (∃ (path : Path) (m : Fin 128) (v : Word) (s : State), ownCa path (R.MBOX_SVC_CMD_POST (mbG m.val) (mbK m.val)).key ∧
      accepted path (pgMbox (mbG m.val)) (R.MBOX_SVC_CMD_POST (mbG m.val) (mbK m.val)).off (withField v (R.MBOX_SVC_CMD_POST
      (mbG m.val) (mbK m.val)).lo (R.MBOX_SVC_CMD_POST (mbG m.val) (mbK m.val)).w 1) s ∧ bitOf v (R.MBOX_SVC_CMD_TAKE (mbG
      m.val) (mbK m.val)) = false ∧ (mbEn s m.val = false ∨ getF s (R.MBOX_CTL_SVC_OK (mbG m.val) (mbK m.val)) = 0)) ∧
    (∃ (path : Path) (m : Fin 128) (v : Word) (s : State), ownCa path (R.MBOX_SVC_CMD_POST (mbG m.val) (mbK m.val)).key ∧
      accepted path (pgMbox (mbG m.val)) (R.MBOX_SVC_CMD_POST (mbG m.val) (mbK m.val)).off (withField v (R.MBOX_SVC_CMD_POST
      (mbG m.val) (mbK m.val)).lo (R.MBOX_SVC_CMD_POST (mbG m.val) (mbK m.val)).w 1) s ∧ bitOf v (R.MBOX_SVC_CMD_TAKE (mbG
      m.val) (mbK m.val)) = false ∧ mbEn s m.val ∧ mbOut s m.val = false ∧ getF s (R.MBOX_CTL_SVC_OK (mbG m.val) (mbK m.val))
      = 1 ∧ (mboxOf s m.val).q.length < 16) ∧
    (∃ (path : Path) (m : Fin 128) (v : Word) (s : State), ownCa path (R.MBOX_SVC_CMD_TAKE (mbG m.val) (mbK m.val)).key ∧
      accepted path (pgMbox (mbG m.val)) (R.MBOX_SVC_CMD_TAKE (mbG m.val) (mbK m.val)).off (withField v (R.MBOX_SVC_CMD_TAKE
      (mbG m.val) (mbK m.val)).lo (R.MBOX_SVC_CMD_TAKE (mbG m.val) (mbK m.val)).w 1) s ∧ bitOf v (R.MBOX_SVC_CMD_POST (mbG
      m.val) (mbK m.val)) = false ∧ mbEn s m.val ∧ mbOut s m.val = false ∧ (mboxOf s m.val).q = []) ∧
    (∃ (path : Path) (m : Fin 128) (sl : MSlot) (q : List MSlot) (v : Word) (s : State), ownCa path (R.MBOX_SVC_CMD_TAKE (mbG
      m.val) (mbK m.val)).key ∧ accepted path (pgMbox (mbG m.val)) (R.MBOX_SVC_CMD_TAKE (mbG m.val) (mbK m.val)).off
      (withField v (R.MBOX_SVC_CMD_TAKE (mbG m.val) (mbK m.val)).lo (R.MBOX_SVC_CMD_TAKE (mbG m.val) (mbK m.val)).w 1) s ∧
      bitOf v (R.MBOX_SVC_CMD_POST (mbG m.val) (mbK m.val)) = false ∧ mbEn s m.val ∧ mbOut s m.val = false ∧ ((mboxOf s
      m.val).q.drop (if getF s (R.MBOX_CTL_EPOCH_FILTER (mbG m.val) (mbK m.val)) = 1 then staleHead s (mboxOf s m.val).q else
      0) = sl :: q)) :=
  ⟨⟨(hd 5 5 0), 0, ([⟨7, false, true⟩]), sPort, by decide +kernel⟩, ⟨(⟨.partner 17, 0, 5, 5, 0, 3⟩), 17, ([⟨7, false,
    true⟩]), sPortPair, by decide +kernel⟩, ⟨(hd 5 5 0), 0, (sets sPort [(R.TENANT_DB_WORD_BITS 0, 5),
    (R.TENANT_DB_CTL_NOTIFIED 0, 1)]), by decide +kernel⟩, ⟨(⟨.partner 17, 0, 5, 5, 0, 3⟩), 17, (sets sPortPair
    [(R.TENANT_DB_WORD_BITS 0, 5), (R.TENANT_DB_CTL_NOTIFIED 0, 1)]), by decide +kernel⟩, ⟨0, 0, (sets sPort
    [(R.TENANT_DB_WORD_BITS 0, 5), (R.TENANT_DB_MASK_BITS 0, 4)]), by decide +kernel⟩, ⟨.spi, 2, 0, (sets sPort
    [(R.MBOX_CTL_EN 0 2, 1)]), by decide +kernel⟩, ⟨.spi, 2, 0, (sets sPort [(R.MBOX_CTL_EN 0 2, 1), (R.MBOX_CTL_SVC_OK 0 2,
    1), (R.MBOX_SVC_MSG2_MSG 0 2, 5)]), by decide +kernel⟩, ⟨.spi, 2, 0, (sets sPort [(R.MBOX_CTL_EN 0 2, 1)]),
    by decide +kernel⟩, ⟨.spi, 2, (⟨⟨9, false⟩, 77, false⟩), ([⟨⟨9, false⟩, 77, false⟩]), 0,
    ({ (sets sPort [(R.MBOX_CTL_EN 0 2, 1)]) with mboxes := [(2, { Mbox.empty with q := [⟨⟨9, false⟩, 77, false⟩, ⟨⟨9, false⟩, 77, false⟩] })] }),
    by decide +kernel⟩⟩

theorem wit_Cargo :
    (∃ (h : Hdr) (p : Fin 16) (hub : Bool) (s : State), msgReady s h p [] 0 ∧ poolHub s hub = .here ∧ getF s R.CARGO_CTL_EN =
      1 ∧ s.cargo.fresh < 4096 ∧ getF s (R.TENANT_CARGO_HELD_N h.tenant.val) < getF s (R.TENANT_CARGO_LIM_MAX h.tenant.val)) ∧
    (∃ (h : Hdr) (a : Fin 32) (hub : Bool) (s : State), h.src = .partner a ∧ pairRoom s 5 0 ∧ hasPartner s ∧ discards s =
      false ∧ poolHub s hub = .here ∧ getF s R.CARGO_CTL_EN = 1 ∧ s.cargo.fresh < 4096 ∧ getF s (R.TENANT_CARGO_HELD_N
      h.tenant.val) < getF s (R.TENANT_CARGO_LIM_MAX h.tenant.val)) ∧
    (∃ (h : Hdr) (p : Fin 16) (hub : Bool) (s : State), msgReady s h p [] 0 ∧ poolHub s hub = .here ∧ (getF s R.CARGO_CTL_EN
      = 0 ∨ getF s (R.TENANT_CARGO_LIM_MAX h.tenant.val) ≤ getF s (R.TENANT_CARGO_HELD_N h.tenant.val))) ∧
    (∃ (h : Hdr) (a : Fin 32) (hub : Bool) (s : State), h.src = .partner a ∧ pairRoom s 5 0 ∧ hasPartner s ∧ discards s =
      false ∧ poolHub s hub = .here ∧ (getF s R.CARGO_CTL_EN = 0 ∨ getF s (R.TENANT_CARGO_LIM_MAX h.tenant.val) ≤ getF s
      (R.TENANT_CARGO_HELD_N h.tenant.val))) ∧
    (∃ (h : Hdr) (p : Fin 16) (handle : BitVec 16) (hub : Bool) (target : Fin 32) (s : State), msgReady s h p [] 0 ∧ poolHub
      s hub = .here ∧ getF s R.CARGO_CTL_EN = 1 ∧ cargoOwner s (handle.toNat % 4096) = some h.tenant.val ∧ cargoGen s
      (handle.toNat % 4096) = handle.toNat / 4096 ∧ getF s (R.TENANT_CTL_EN target.val) = 1 ∧ tenantResetting s target.val =
      false) ∧
    (∃ (h : Hdr) (a : Fin 32) (handle : BitVec 16) (hub : Bool) (target : Fin 32) (s : State), h.src = .partner a ∧ pairRoom
      s 5 0 ∧ hasPartner s ∧ discards s = false ∧ poolHub s hub = .here ∧ getF s R.CARGO_CTL_EN = 1 ∧ cargoOwner s
      (handle.toNat % 4096) = some h.tenant.val ∧ cargoGen s (handle.toNat % 4096) = handle.toNat / 4096 ∧ getF s
      (R.TENANT_CTL_EN target.val) = 1 ∧ tenantResetting s target.val = false) ∧
    (∃ (h : Hdr) (p : Fin 16) (handle : BitVec 16) (hub : Bool) (s : State), msgReady s h p [] 0 ∧ poolHub s hub = .here ∧
      getF s R.CARGO_CTL_EN = 1 ∧ cargoOwner s (handle.toNat % 4096) = some h.tenant.val ∧ cargoGen s (handle.toNat % 4096) =
      handle.toNat / 4096) ∧
    (∃ (h : Hdr) (a : Fin 32) (handle : BitVec 16) (hub : Bool) (s : State), h.src = .partner a ∧ pairRoom s 5 0 ∧ hasPartner
      s ∧ discards s = false ∧ poolHub s hub = .here ∧ getF s R.CARGO_CTL_EN = 1 ∧ cargoOwner s (handle.toNat % 4096) = some
      h.tenant.val ∧ cargoGen s (handle.toNat % 4096) = handle.toNat / 4096) ∧
    (∃ (h : Hdr) (p : Fin 16) (handle : BitVec 16) (hub : Bool) (target : Fin 32) (s : State), msgReady s h p [] 0 ∧ poolHub
      s hub = .here ∧ (getF s R.CARGO_CTL_EN = 0 ∨ cargoOwner s (handle.toNat % 4096) = none ∨ cargoGen s (handle.toNat %
      4096) ≠ handle.toNat / 4096)) ∧
    (∃ (h : Hdr) (a : Fin 32) (handle : BitVec 16) (hub : Bool) (target : Fin 32) (s : State), h.src = .partner a ∧ pairRoom
      s 5 0 ∧ hasPartner s ∧ discards s = false ∧ poolHub s hub = .here ∧ (getF s R.CARGO_CTL_EN = 0 ∨ cargoOwner s
      (handle.toNat % 4096) = none ∨ cargoGen s (handle.toNat % 4096) ≠ handle.toNat / 4096)) ∧
    (∃ (h : Hdr) (p : Fin 16) (handle : BitVec 16) (hub : Bool) (s : State), msgReady s h p [] 0 ∧ poolHub s hub = .here ∧
      (getF s R.CARGO_CTL_EN = 0 ∨ cargoOwner s (handle.toNat % 4096) = none ∨ cargoGen s (handle.toNat % 4096) ≠
      handle.toNat / 4096)) ∧
    (∃ (h : Hdr) (a : Fin 32) (handle : BitVec 16) (hub : Bool) (s : State), h.src = .partner a ∧ pairRoom s 5 0 ∧ hasPartner
      s ∧ discards s = false ∧ poolHub s hub = .here ∧ (getF s R.CARGO_CTL_EN = 0 ∨ cargoOwner s (handle.toNat % 4096) = none
      ∨ cargoGen s (handle.toNat % 4096) ≠ handle.toNat / 4096)) ∧
    (∃ (h : Hdr) (p : Fin 16) (handle : BitVec 16) (hub : Bool) (word : Fin 16) (nw : Fin 4) (s : State), msgReady s h p [] 0
      ∧ poolHub s hub = .here ∧ (getF s R.CARGO_CTL_EN = 0 ∨ cargoOwner s (handle.toNat % 4096) = none ∨ cargoGen s
      (handle.toNat % 4096) ≠ handle.toNat / 4096) ∧ wordField word nw = none) ∧
    (∃ (h : Hdr) (a : Fin 32) (handle : BitVec 16) (hub : Bool) (word : Fin 16) (nw : Fin 4) (s : State), h.src = .partner a
      ∧ pairRoom s 5 0 ∧ hasPartner s ∧ discards s = false ∧ poolHub s hub = .here ∧ (getF s R.CARGO_CTL_EN = 0 ∨ cargoOwner
      s (handle.toNat % 4096) = none ∨ cargoGen s (handle.toNat % 4096) ≠ handle.toNat / 4096) ∧ wordField word nw = none) ∧
    (∃ (h : Hdr) (p : Fin 16) (handle : BitVec 16) (hub : Bool) (word : Fin 16) (nw : Fin 4) (fs : List DFlit) (s : State),
      msgReady s h p fs (nw.val + 1) ∧ poolHub s hub = .here ∧ (getF s R.CARGO_CTL_EN = 0 ∨ cargoOwner s (handle.toNat %
      4096) = none ∨ cargoGen s (handle.toNat % 4096) ≠ handle.toNat / 4096) ∧ wordField word nw = none) ∧
    (∃ (h : Hdr) (a : Fin 32) (handle : BitVec 16) (hub : Bool) (word : Fin 16) (nw : Fin 4) (fs : List DFlit) (s : State),
      h.src = .partner a ∧ pairRoom s 5 fs.length ∧ hasPartner s ∧ discards s = false ∧ poolHub s hub = .here ∧ (getF s
      R.CARGO_CTL_EN = 0 ∨ cargoOwner s (handle.toNat % 4096) = none ∨ cargoGen s (handle.toNat % 4096) ≠ handle.toNat /
      4096) ∧ wordField word nw = none) ∧
    (∃ (h : Hdr) (p : Fin 16) (handle : BitVec 16) (hub : Bool) (word : Fin 16) (nw : Fin 4) (s : State), msgReady s h p [] 0
      ∧ poolHub s hub = .here ∧ getF s R.CARGO_CTL_EN = 1 ∧ cargoOwner s (handle.toNat % 4096) = some h.tenant.val ∧ cargoGen
      s (handle.toNat % 4096) = handle.toNat / 4096 ∧ wordField word nw = none) ∧
    (∃ (h : Hdr) (p : Fin 16) (handle : BitVec 16) (hub : Bool) (word : Fin 16) (nw : Fin 4) (fs : List DFlit) (s : State),
      msgReady s h p fs (nw.val + 1) ∧ poolHub s hub = .here ∧ getF s R.CARGO_CTL_EN = 1 ∧ cargoOwner s (handle.toNat % 4096)
      = some h.tenant.val ∧ cargoGen s (handle.toNat % 4096) = handle.toNat / 4096 ∧ wordField word nw = none) :=
  ⟨⟨(hd 5 5 0), 0, false, (sets sPort [(R.CARGO_CTL_EN, 1), (R.TENANT_CARGO_LIM_MAX 0, 4), (R.CARGO_FREE_N, 4096)]),
    by decide +kernel⟩, ⟨(⟨.partner 17, 0, 5, 5, 0, 3⟩), 17, false, (sets sPortPair [(R.CARGO_CTL_EN, 1),
    (R.TENANT_CARGO_LIM_MAX 0, 4), (R.CARGO_FREE_N, 4096)]), by decide +kernel⟩, ⟨(hd 5 5 0), 0, false, sPort,
    by decide +kernel⟩, ⟨(⟨.partner 17, 0, 5, 5, 0, 3⟩), 17, false, sPortPair, by decide +kernel⟩, ⟨(hd 5 5 0), 0, 7, false,
    3,
    ({ (sets sPort [(R.CARGO_CTL_EN, 1), (R.TENANT_CTL_EN 3, 1), (R.CARGO_FREE_N, 4000)]) with cargo := { fresh := 9, freed := [], gens := [], owner := [(7, some 0)] } }),
    by decide +kernel⟩, ⟨(⟨.partner 17, 0, 5, 5, 0, 3⟩), 17, 7, false, 3,
    ({ (sets sPortPair [(R.CARGO_CTL_EN, 1), (R.TENANT_CTL_EN 3, 1), (R.CARGO_FREE_N, 4000)]) with cargo := { fresh := 9, freed := [], gens := [], owner := [(7, some 0)] } }),
    by decide +kernel⟩, ⟨(hd 5 5 0), 0, 7, false,
    ({ (sets sPort [(R.CARGO_CTL_EN, 1), (R.TENANT_CTL_EN 3, 1), (R.CARGO_FREE_N, 4000)]) with cargo := { fresh := 9, freed := [], gens := [], owner := [(7, some 0)] } }),
    by decide +kernel⟩, ⟨(⟨.partner 17, 0, 5, 5, 0, 3⟩), 17, 7, false,
    ({ (sets sPortPair [(R.CARGO_CTL_EN, 1), (R.TENANT_CTL_EN 3, 1), (R.CARGO_FREE_N, 4000)]) with cargo := { fresh := 9, freed := [], gens := [], owner := [(7, some 0)] } }),
    by decide +kernel⟩, ⟨(hd 5 5 0), 0, 7, false, 3, sPort, by decide +kernel⟩, ⟨(⟨.partner 17, 0, 5, 5, 0, 3⟩), 17, 7,
    false, 3, sPortPair, by decide +kernel⟩, ⟨(hd 5 5 0), 0, 7, false, sPort, by decide +kernel⟩, ⟨(⟨.partner 17, 0, 5, 5, 0,
    3⟩), 17, 7, false, sPortPair, by decide +kernel⟩, ⟨(hd 5 5 0), 0, 7, false, 3, 1, sPort, by decide +kernel⟩, ⟨(⟨.partner
    17, 0, 5, 5, 0, 3⟩), 17, 7, false, 3, 1, sPortPair, by decide +kernel⟩, ⟨(hd 5 5 0), 0, 7, false, 3, 0, ([⟨7, false,
    true⟩]), sPort, by decide +kernel⟩, ⟨(⟨.partner 17, 0, 5, 5, 0, 3⟩), 17, 7, false, 3, 0, ([⟨7, false, true⟩]), sPortPair,
    by decide +kernel⟩, ⟨(hd 5 5 0), 0, 7, false, 3, 1,
    ({ (sets sPort [(R.CARGO_CTL_EN, 1), (R.TENANT_CTL_EN 3, 1), (R.CARGO_FREE_N, 4000)]) with cargo := { fresh := 9, freed := [], gens := [], owner := [(7, some 0)] } }),
    by decide +kernel⟩, ⟨(hd 5 5 0), 0, 7, false, 3, 0, ([⟨7, false, true⟩]),
    ({ (sets sPort [(R.CARGO_CTL_EN, 1), (R.TENANT_CTL_EN 3, 1), (R.CARGO_FREE_N, 4000)]) with cargo := { fresh := 9, freed := [], gens := [], owner := [(7, some 0)] } }),
    by decide +kernel⟩⟩

theorem wit_MailboxFrames :
    (∃ (p : Fin 4) (f : Frame) (s : State), frameOkAt s p f 2 ∧ forHere s f ∧ pfield f 0 1 = 1 ∧ f.payload.length = 32 ∧
      f.src.toNat ≠ nodeId s ∧ frameRefused s (pfield f 1 1) f.src.toNat ∧ (((kvGet (fun _ => none) s.mbxLast
      f.src.toNat).map fun e => e.1) ≠ some f.seq.toNat)) ∧
    (∃ (p : Fin 4) (f : Frame) (s : State), frameOkAt s p f 2 ∧ forHere s f ∧ pfield f 0 1 = 1 ∧ f.payload.length = 32 ∧
      f.src.toNat ≠ nodeId s ∧ frameRefused s (pfield f 1 1) f.src.toNat = false ∧ (((kvGet (fun _ => none) s.mbxLast
      f.src.toNat).map fun e => e.1) ≠ some f.seq.toNat) ∧ (mboxOf s (pfield f 1 1)).q.length < 16) ∧
    (∃ (p : Fin 4) (f : Frame) (r : Nat) (s : State), frameOkAt s p f 2 ∧ forHere s f ∧ pfield f 0 1 = 1 ∧ f.payload.length =
      32 ∧ f.src.toNat ≠ nodeId s ∧ (kvGet (fun _ => none) s.mbxLast f.src.toNat = some (f.seq.toNat, r))) ∧
    (∃ (p : Fin 4) (f : Frame) (m : Nat) (s : State), frameOkAt s p f 2 ∧ forHere s f ∧ pfield f 0 1 = 2 ∧ f.payload.length =
      8 ∧ f.src.toNat ≠ nodeId s ∧ ackedMbox s f.src.toNat (pfield f 1 1) (pfield f 2 2) = some m ∧ pfield f 4 1 = 0) ∧
    (∃ (m : Fin 128) (s : State), (mboxOf s m.val).inFlight ∧ (mboxOf s m.val).sentAt + 1000 * getF s R.MBOX_FAB_RETRY_US ≤
      s.now ∧ (getF s R.FABRIC_STAT_ID_VALID = 0 ∨ getF s (R.MBOX_REMOTE_NODE (mbG m.val) (mbK m.val)) ≠ nodeId s) ∧ (mboxOf
      s m.val).sends < getF s R.MBOX_FAB_RETRY_LIM) ∧
    (∃ (m : Fin 128) (s : State), (mboxOf s m.val).inFlight ∧ (mboxOf s m.val).sentAt + 1000 * getF s R.MBOX_FAB_RETRY_US ≤
      s.now ∧ (getF s R.FABRIC_STAT_ID_VALID = 0 ∨ getF s (R.MBOX_REMOTE_NODE (mbG m.val) (mbK m.val)) ≠ nodeId s) ∧ getF s
      R.MBOX_FAB_RETRY_LIM ≤ (mboxOf s m.val).sends) :=
  ⟨⟨0, (⟨2, 5, 3, 0, 0, 77, mkPayload ([1, 2, 0, 0, 0, 0, 0, 0] ++ List.replicate 24 9)⟩),
    ({ (sets sRun [(R.FABRIC_STAT_ID_VALID, 1), (R.FABRIC_STAT_NODE_ID, 3), (R.FPORT_STAT_LINK 0, 1), (R.FABRIC_ROUTE_PORT 5, 0), (R.FPORT_CREDIT_VC0 0, 4), (R.MBOX_CTL_EN 0 2, 1)]) with fports := [(0, { FPort.empty with heard := true })] }),
    by decide +kernel⟩, ⟨0, (⟨2, 5, 3, 0, 0, 77, mkPayload ([1, 2, 0, 0, 0, 0, 0, 0] ++ List.replicate 24 9)⟩),
    ({ (sets sRun [(R.FABRIC_STAT_ID_VALID, 1), (R.FABRIC_STAT_NODE_ID, 3), (R.FPORT_STAT_LINK 0, 1), (R.FABRIC_ROUTE_PORT 5, 0), (R.FPORT_CREDIT_VC0 0, 4), (R.MBOX_CTL_EN 0 2, 1), (R.MBOX_CTL_REMOTE_OK 0 2, 1)]) with fports := [(0, { FPort.empty with heard := true })] }),
    by decide +kernel⟩, ⟨0, (⟨2, 5, 3, 0, 0, 77, mkPayload ([1, 2, 0, 0, 0, 0, 0, 0] ++ List.replicate 24 9)⟩), 0,
    ({ { (sets sRun [(R.FABRIC_STAT_ID_VALID, 1), (R.FABRIC_STAT_NODE_ID, 3), (R.FPORT_STAT_LINK 0, 1), (R.FABRIC_ROUTE_PORT 5, 0), (R.FPORT_CREDIT_VC0 0, 4), (R.MBOX_CTL_EN 0 2, 1)]) with fports := [(0, { FPort.empty with heard := true })] } with mbxLast := [(5, some (77, 0))] }),
    by decide +kernel⟩, ⟨0, (⟨2, 5, 3, 0, 0, 1, mkPayload [2, 9, 44, 0, 0, 0, 0, 0]⟩), 2,
    ({ (sets sRun [(R.FABRIC_STAT_ID_VALID, 1), (R.FABRIC_STAT_NODE_ID, 3), (R.FPORT_STAT_LINK 0, 1), (R.FABRIC_ROUTE_PORT 5, 0), (R.FPORT_CREDIT_VC0 0, 4), (R.MBOX_CTL_EN 0 2, 1), (R.MBOX_CTL_DIR 0 2, 1), (R.MBOX_REMOTE_NODE 0 2, 5), (R.MBOX_REMOTE_MBX 0 2, 9)]) with now := 100000000, mboxes := [(2, { Mbox.empty with q := [⟨⟨9, false⟩, 77, false⟩, ⟨⟨8, false⟩, 78, false⟩], inFlight := true, seq := 44, sends := 1, sentAt := 0 })] }),
    by decide +kernel⟩, ⟨2,
    ({ (sets sRun [(R.FABRIC_STAT_ID_VALID, 1), (R.FABRIC_STAT_NODE_ID, 3), (R.FPORT_STAT_LINK 0, 1), (R.FABRIC_ROUTE_PORT 5, 0), (R.FPORT_CREDIT_VC0 0, 4), (R.MBOX_CTL_EN 0 2, 1), (R.MBOX_CTL_DIR 0 2, 1), (R.MBOX_REMOTE_NODE 0 2, 5), (R.MBOX_REMOTE_MBX 0 2, 9), (R.MBOX_FAB_RETRY_LIM, 3)]) with now := 100000000, mboxes := [(2, { Mbox.empty with q := [⟨⟨9, false⟩, 77, false⟩, ⟨⟨8, false⟩, 78, false⟩], inFlight := true, seq := 44, sends := 1, sentAt := 0 })] }),
    by decide +kernel⟩, ⟨2,
    ({ (sets sRun [(R.FABRIC_STAT_ID_VALID, 1), (R.FABRIC_STAT_NODE_ID, 3), (R.FPORT_STAT_LINK 0, 1), (R.FABRIC_ROUTE_PORT 5, 0), (R.FPORT_CREDIT_VC0 0, 4), (R.MBOX_CTL_EN 0 2, 1), (R.MBOX_CTL_DIR 0 2, 1), (R.MBOX_REMOTE_NODE 0 2, 5), (R.MBOX_REMOTE_MBX 0 2, 9), (R.MBOX_FAB_RETRY_LIM, 3)]) with now := 100000000, mboxes := [(2, { Mbox.empty with q := [⟨⟨9, false⟩, 77, false⟩, ⟨⟨8, false⟩, 78, false⟩], inFlight := true, seq := 44, sends := 9, sentAt := 0 })] }),
    by decide +kernel⟩⟩

theorem wit_FabricLinks :
    (∃ (p : Fin 4) (s : State), fabricOn s p.val ∧ fLink s p.val = false ∧ getF s (R.FPORT_CTL_AN_EN p.val) = 1) ∧
    (∃ (p : Fin 4) (s : State), fabricOn s p.val ∧ fLink s p.val = false ∧ getF s (R.FPORT_CTL_AN_EN p.val) = 1) ∧
    (∃ (p : Fin 4) (s : State), fabricOn s p.val ∧ fLink s p.val = false ∧ getF s (R.FPORT_CTL_AN_EN p.val) = 0) ∧
    (∃ (p : Fin 4) (s : State), fLink s p.val) ∧
    (∃ (path : Path) (p : Fin 4) (v : Word) (s : State), ownCa path (R.FPORT_CTL_LRESET p.val).key ∧ accepted path (0x1C +
      p.val) 0x040 (withField v (R.FPORT_CTL_LRESET p.val).lo 1 1) s ∧ higherReset s = false ∧ fLink s p.val) ∧
    (∃ (p : Fin 4) (s : State), fLink s p.val) ∧
    (∃ (p : Fin 4) (why : FrameFault) (s : State), fLink s p.val ∧ why ≠ .crc) ∧
    (∃ (p : Fin 4) (f : Frame) (s : State), discAt s p f 7 ∧ (fportOf s p.val).txq = []) ∧
    (∃ (p : Fin 4) (s : State), fLink s p.val ∧ (2 ≤ (((fportOf s p.val).freed0 + 256 - (fportOf s p.val).sent0) % 256 +
      ((fportOf s p.val).freed1 + 256 - (fportOf s p.val).sent1) % 256) ∨ (fportOf s p.val).creditAt + 10000 ≤ s.now)) :=
  ⟨⟨0, (sWith [(R.FABRIC_CTL_EN, 1), (R.FPORT_CTL_EN 0, 1), (R.FPORT_CTL_AN_EN 0, 1), (R.FABRIC_STAT_DSTATE, 4)]),
    by decide +kernel⟩, ⟨0, (sWith [(R.FABRIC_CTL_EN, 1), (R.FPORT_CTL_EN 0, 1), (R.FPORT_CTL_AN_EN 0, 1)]),
    by decide +kernel⟩, ⟨1, (sWith [(R.FABRIC_CTL_EN, 1), (R.FPORT_CTL_EN 0, 1), (R.FPORT_CTL_AN_EN 0, 1), (R.FPORT_CTL_EN 1,
    1), (R.FPORT_CTL_AN_EN 1, 0)]), by decide +kernel⟩, ⟨0,
    ({ sWith [(R.FABRIC_CTL_EN, 1), (R.FPORT_CTL_EN 0, 1), (R.FPORT_CTL_AN_EN 0, 1), (R.FPORT_STAT_LINK 0, 1), (R.FPORT_CREDIT_VC0 0, 4), (R.FPORT_CREDIT_VC1 0, 4), (R.FABRIC_STAT_DSTATE, 4)] with now := 100000000, fports := [(0, { FPort.empty with heard := true })] }),
    by decide +kernel⟩, ⟨.spi, 0, 3,
    ({ sWith [(R.FABRIC_CTL_EN, 1), (R.FPORT_CTL_EN 0, 1), (R.FPORT_CTL_AN_EN 0, 1), (R.FPORT_STAT_LINK 0, 1), (R.FPORT_CREDIT_VC0 0, 4), (R.FPORT_CREDIT_VC1 0, 4), (R.FABRIC_STAT_DSTATE, 4)] with now := 100000000, fports := [(0, { FPort.empty with heard := true })] }),
    by decide +kernel⟩, ⟨0,
    ({ sWith [(R.FABRIC_CTL_EN, 1), (R.FPORT_CTL_EN 0, 1), (R.FPORT_CTL_AN_EN 0, 1), (R.FPORT_STAT_LINK 0, 1), (R.FPORT_CREDIT_VC0 0, 4), (R.FPORT_CREDIT_VC1 0, 4)] with now := 100000000, fports := [(0, { FPort.empty with heard := true })] }),
    by decide +kernel⟩, ⟨0, .length,
    ({ sWith [(R.FABRIC_CTL_EN, 1), (R.FPORT_CTL_EN 0, 1), (R.FPORT_CTL_AN_EN 0, 1), (R.FPORT_STAT_LINK 0, 1), (R.FPORT_CREDIT_VC0 0, 4), (R.FPORT_CREDIT_VC1 0, 4)] with now := 100000000, fports := [(0, { FPort.empty with heard := true })] }),
    by decide +kernel⟩, ⟨0, (⟨1, 5, 3, 0, 0, 0, mkPayload [7, 0, 2, 1]⟩),
    ({ sWith [(R.FABRIC_CTL_EN, 1), (R.FPORT_CTL_EN 0, 1), (R.FPORT_CTL_AN_EN 0, 1), (R.FPORT_STAT_LINK 0, 1), (R.FPORT_CREDIT_VC0 0, 4), (R.FPORT_CREDIT_VC1 0, 4)] with now := 100000000, fports := [(0, { FPort.empty with heard := true })] }),
    by decide +kernel⟩, ⟨0,
    ({ sWith [(R.FABRIC_CTL_EN, 1), (R.FPORT_CTL_EN 0, 1), (R.FPORT_CTL_AN_EN 0, 1), (R.FPORT_STAT_LINK 0, 1), (R.FPORT_CREDIT_VC0 0, 4), (R.FPORT_CREDIT_VC1 0, 4)] with now := 100000000, fports := [(0, { FPort.empty with heard := true, freed0 := 3 })] }),
    by decide +kernel⟩⟩

theorem wit_FabricDiscovery :
    (∃ (p : Fin 4) (f : Frame) (s : State), discAt s p f 1 ∧ pfield f 1 1 = fabGen s ∧ 2 ≤ pfield f 20 1 ∧ pfield f 20 1 ≤ 64
      ∧ getF s (R.FPORT_STAT_BUF_ERR p.val) = 0) ∧
    (∃ (p : Fin 4) (f : Frame) (s : State), discAt s p f 1 ∧ later 8 (pfield f 1 1) (fabGen s) ∧ dstate s ≠ 0 ∧ getF s
      (R.FPORT_STAT_BUF_ERR p.val) = 0) ∧
    (∃ (p : Fin 4) (f : Frame) (s : State), discAt s p f 1 ∧ (pfield f 20 1 < 2 ∨ 64 < pfield f 20 1)) ∧
    (∃ (p : Fin 4) (s : State), fLink s p.val ∧ dstate s ≠ 0 ∧ ((fportOf s p.val).helloAt + 1000000 ≤ s.now ∨ (dstate s ≠ 4 ∧
      (fportOf s p.val).helloAt + 10000 ≤ s.now))) ∧
    (∃ (s : State), dstate s = 1 ∧ s.fabric.stableAt + 200000 ≤ s.now ∧ s.fabric.dist ≠ 0 ∧ s.fabric.parent < 4) ∧
    (∃ (s : State), dstate s = 1 ∧ s.fabric.stableAt + 200000 ≤ s.now ∧ s.fabric.dist = 0 ∧ s.fabric.links = [] ∧ upPorts s =
      []) ∧
    (∃ (p : Fin 4) (f : Frame) (s : State), discAt s p f 2 ∧ pfield f 1 1 = fabGen s ∧ s.fabric.dist ≠ 0 ∧ s.fabric.parent <
      4 ∧ f.hops ≠ 15) ∧
    (∃ (s : State), dstate s = 2 ∧ isCoord s ∧ s.fabric.stateAt + 500000 ≤ s.now) ∧
    (∃ (p : Fin 4) (f : Frame) (d : Fin 64) (s : State), discAt s p f 3 ∧ pfield f 1 1 = fabGen s ∧ isCoord s = false ∧
      pfield f 2 8 = ownUid s ∧ 1 ≤ dstate s ∧ dstate s ≤ 3) ∧
    (∃ (p : Fin 4) (f : Frame) (s : State), discAt s p f 4 ∧ pfield f 1 1 = fabGen s ∧ isCoord s ∧ dstate s = 3 ∧
      s.fabric.owed = [pfield f 2 8]) ∧
    (∃ (s : State), dstate s = 3 ∧ isCoord s ∧ s.fabric.stateAt + 500000 ≤ s.now) ∧
    (∃ (path : Path) (v : Word) (s : State), ownCa path R.FABRIC_CTL_REDISC.key ∧ accepted path 0x20 0x040 (withField v
      R.FABRIC_CTL_REDISC.lo 1 1) s ∧ v.getLsbD 0 ∧ dstate s ≠ 0) :=
  ⟨⟨0, (⟨1, 0, 0, 0, 0, 0, mkPayload ([1, 4] ++ natToBytes 8 77 ++ [3] ++ natToBytes 8 9 ++ [0, 8])⟩),
    ({ sWith [(R.FABRIC_CTL_EN, 1), (R.FPORT_CTL_EN 0, 1), (R.FPORT_CTL_AN_EN 0, 1), (R.FPORT_STAT_LINK 0, 1), (R.FPORT_CREDIT_VC0 0, 4), (R.FPORT_CREDIT_VC1 0, 4), (R.FABRIC_STAT_DSTATE, 1), (R.FABRIC_STAT_GEN, 4)] with now := 100000000, fports := [(0, { FPort.empty with heard := true })] }),
    by decide +kernel⟩, ⟨0, (⟨1, 0, 0, 0, 0, 0, mkPayload ([1, 4] ++ natToBytes 8 77 ++ [3] ++ natToBytes 8 9 ++ [0, 8])⟩),
    ({ sWith [(R.FABRIC_CTL_EN, 1), (R.FPORT_CTL_EN 0, 1), (R.FPORT_CTL_AN_EN 0, 1), (R.FPORT_STAT_LINK 0, 1), (R.FPORT_CREDIT_VC0 0, 4), (R.FPORT_CREDIT_VC1 0, 4), (R.FABRIC_STAT_DSTATE, 4), (R.FABRIC_STAT_GEN, 3)] with now := 100000000, fports := [(0, { FPort.empty with heard := true })] }),
    by decide +kernel⟩, ⟨0, (⟨1, 0, 0, 0, 0, 0, mkPayload ([1, 4] ++ natToBytes 8 77 ++ [3] ++ natToBytes 8 9 ++ [0, 1])⟩),
    ({ sWith [(R.FABRIC_CTL_EN, 1), (R.FPORT_CTL_EN 0, 1), (R.FPORT_CTL_AN_EN 0, 1), (R.FPORT_STAT_LINK 0, 1), (R.FPORT_CREDIT_VC0 0, 4), (R.FPORT_CREDIT_VC1 0, 4)] with now := 100000000, fports := [(0, { FPort.empty with heard := true })] }),
    by decide +kernel⟩, ⟨0,
    ({ sWith [(R.FABRIC_CTL_EN, 1), (R.FPORT_CTL_EN 0, 1), (R.FPORT_CTL_AN_EN 0, 1), (R.FPORT_STAT_LINK 0, 1), (R.FPORT_CREDIT_VC0 0, 4), (R.FPORT_CREDIT_VC1 0, 4), (R.FABRIC_STAT_DSTATE, 1)] with now := 100000000, fports := [(0, { FPort.empty with heard := true })] }),
    by decide +kernel⟩,
    ⟨({ sWith [(R.FABRIC_CTL_EN, 1), (R.FPORT_CTL_EN 0, 1), (R.FPORT_CTL_AN_EN 0, 1), (R.FPORT_STAT_LINK 0, 1), (R.FPORT_CREDIT_VC0 0, 4), (R.FPORT_CREDIT_VC1 0, 4), (R.FABRIC_STAT_DSTATE, 1)] with now := 100000000, fports := [(0, { FPort.empty with heard := true })], fabric := { State.reset.fabric with cand := 5, dist := 1, parent := 0 } }),
    by decide +kernel⟩,
    ⟨({ sWith [(R.FABRIC_CTL_EN, 1), (R.FABRIC_CTL_COORD_EN, 1), (R.FABRIC_STAT_DSTATE, 1)] with now := 100000000, fabric := { State.reset.fabric with dist := 0 } }),
    by decide +kernel⟩, ⟨0, (⟨1, 0, 0, 0, 0, 0, mkPayload [2, 0]⟩),
    ({ sWith [(R.FABRIC_CTL_EN, 1), (R.FPORT_CTL_EN 0, 1), (R.FPORT_CTL_AN_EN 0, 1), (R.FPORT_STAT_LINK 0, 1), (R.FPORT_CREDIT_VC0 0, 4), (R.FPORT_CREDIT_VC1 0, 4), (R.FABRIC_STAT_DSTATE, 2)] with now := 100000000, fports := [(0, { FPort.empty with heard := true })], fabric := { State.reset.fabric with cand := 5, dist := 1, parent := 0 } }),
    by decide +kernel⟩,
    ⟨({ sWith [(R.FABRIC_CTL_EN, 1), (R.FPORT_CTL_EN 0, 1), (R.FPORT_CTL_AN_EN 0, 1), (R.FPORT_STAT_LINK 0, 1), (R.FPORT_CREDIT_VC0 0, 4), (R.FPORT_CREDIT_VC1 0, 4), (R.FABRIC_STAT_DSTATE, 2), (R.FABRIC_STAT_COORD, 1)] with now := 100000000, fports := [(0, { FPort.empty with heard := true })], fabric := { State.reset.fabric with cand := 5, dist := 0, owed := [7] } }),
    by decide +kernel⟩, ⟨0, (⟨1, 0, 0, 0, 0, 0, mkPayload ([3, 0] ++ natToBytes 8 0 ++ [9] ++ List.replicate 32 0x10 ++ [0,
    0, 1])⟩), 7,
    ({ sWith [(R.FABRIC_CTL_EN, 1), (R.FPORT_CTL_EN 0, 1), (R.FPORT_CTL_AN_EN 0, 1), (R.FPORT_STAT_LINK 0, 1), (R.FPORT_CREDIT_VC0 0, 4), (R.FPORT_CREDIT_VC1 0, 4), (R.FABRIC_STAT_DSTATE, 2)] with now := 100000000, fports := [(0, { FPort.empty with heard := true })], fabric := { State.reset.fabric with cand := 5, dist := 1, parent := 0 } }),
    by decide +kernel⟩, ⟨0, (⟨1, 0, 0, 0, 0, 0, mkPayload ([4, 0] ++ natToBytes 8 7)⟩),
    ({ sWith [(R.FABRIC_CTL_EN, 1), (R.FPORT_CTL_EN 0, 1), (R.FPORT_CTL_AN_EN 0, 1), (R.FPORT_STAT_LINK 0, 1), (R.FPORT_CREDIT_VC0 0, 4), (R.FPORT_CREDIT_VC1 0, 4), (R.FABRIC_STAT_DSTATE, 3), (R.FABRIC_STAT_COORD, 1)] with now := 100000000, fports := [(0, { FPort.empty with heard := true })], fabric := { State.reset.fabric with cand := 5, dist := 0, owed := [7] } }),
    by decide +kernel⟩,
    ⟨({ sWith [(R.FABRIC_CTL_EN, 1), (R.FPORT_CTL_EN 0, 1), (R.FPORT_CTL_AN_EN 0, 1), (R.FPORT_STAT_LINK 0, 1), (R.FPORT_CREDIT_VC0 0, 4), (R.FPORT_CREDIT_VC1 0, 4), (R.FABRIC_STAT_DSTATE, 3), (R.FABRIC_STAT_COORD, 1)] with now := 100000000, fports := [(0, { FPort.empty with heard := true })], fabric := { State.reset.fabric with cand := 5, dist := 0, owed := [7] } }),
    by decide +kernel⟩, ⟨.spi, 1,
    ({ sWith [(R.FABRIC_CTL_EN, 1), (R.FPORT_CTL_EN 0, 1), (R.FPORT_CTL_AN_EN 0, 1), (R.FPORT_STAT_LINK 0, 1), (R.FPORT_CREDIT_VC0 0, 4), (R.FPORT_CREDIT_VC1 0, 4), (R.FABRIC_STAT_DSTATE, 4)] with now := 100000000, fports := [(0, { FPort.empty with heard := true })] }),
    by decide +kernel⟩⟩

theorem wit_FramesDelaysAndFirefly :
    (∃ (p : Fin 4) (f : Frame) (s : State), fLink s p.val ∧ 2 ≤ f.cls.val ∧ f.cls.val < 6 ∧ f.payload.length ≤ 256 ∧ forHere
      s f = false ∧ f.hops ≠ 15) ∧
    (∃ (p : Fin 4) (f : Frame) (s : State), fLink s p.val ∧ 2 ≤ f.cls.val ∧ f.cls.val < 6 ∧ f.payload.length ≤ 256 ∧ forHere
      s f = false ∧ f.hops = 15) ∧
    (∃ (p : Fin 4) (f : Frame) (turn : BitVec 32) (s : State), discAt s p f 5) ∧
    (∃ (p : Fin 4) (f : Frame) (rtt : BitVec 32) (ds : List Nat) (s : State), discAt s p f 6 ∧ pfield f 2 1 = (fportOf s
      p.val).echoNo ∧ ds = ((fportOf s p.val).delays ++ [rtt.toNat - pfield f 3 4]).drop ((fportOf s p.val).delays.length + 1
      - 16) ∧ (ds.sum + 2 * ds.length - 1) / (2 * ds.length) < 65536) ∧
    (∃ (p : Fin 4) (s : State), fLink s p.val ∧ (0 < (fportOf s p.val).echoLeft ∨ 1024 ≤ (tickNum s + 2 ^ 32 - (fportOf s
      p.val).echoTick) % 2 ^ 32)) ∧
    (∃ (p : Fin 4) (f : Frame) (sub : Fin 10) (turn : BitVec 32) (s : State), fLink s p.val ∧ f.cls = 0 ∧ f.payload.length ≤
      256 ∧ s.fabric.syncUp = p.val ∧ isCoord s = false ∧ pfield f 0 1 = 1 ∧ getF s R.TICK_CTL_FOLLOW = 1 ∧ ownEdges s ∧
      pfield f 5 3 % 2 ^ 20 ≠ getF s R.TICK_PERIOD_NS10) ∧
    (∃ (p : Fin 4) (f : Frame) (sub : Fin 10) (turn : BitVec 32) (s : State), fLink s p.val ∧ f.cls = 0 ∧ f.payload.length ≤
      256 ∧ s.fabric.syncUp = p.val ∧ isCoord s = false ∧ pfield f 0 1 = 1 ∧ getF s R.TICK_CTL_FOLLOW = 1 ∧ ownEdges s ∧
      pfield f 5 3 % 2 ^ 20 = getF s R.TICK_PERIOD_NS10 ∧ s.tick.running ∧ ((tickDiff (pfield f 1 4) (tickNum s) * (10 *
      s.tick.period : Nat) + getF s (R.FPORT_DELAY_NS p.val) + pfield f 8 4 - (10 * s.tick.offset + sub.val : Nat)) ≤ -(10 *
      s.tick.period : Nat) ∨ (10 * s.tick.period : Nat) ≤ (tickDiff (pfield f 1 4) (tickNum s) * (10 * s.tick.period : Nat) +
      getF s (R.FPORT_DELAY_NS p.val) + pfield f 8 4 - (10 * s.tick.offset + sub.val : Nat)))) ∧
    (∃ (p : Fin 4) (f : Frame) (sub : Fin 10) (turn : BitVec 32) (s : State), fLink s p.val ∧ f.cls = 0 ∧ f.payload.length ≤
      256 ∧ s.fabric.syncUp = p.val ∧ isCoord s = false ∧ pfield f 0 1 = 1 ∧ getF s R.TICK_CTL_FOLLOW = 1 ∧ ownEdges s ∧
      pfield f 5 3 % 2 ^ 20 = getF s R.TICK_PERIOD_NS10 ∧ s.tick.running ∧ -(10 * s.tick.period : Nat) < (tickDiff (pfield f
      1 4) (tickNum s) * (10 * s.tick.period : Nat) + getF s (R.FPORT_DELAY_NS p.val) + pfield f 8 4 - (10 * s.tick.offset +
      sub.val : Nat)) ∧ (tickDiff (pfield f 1 4) (tickNum s) * (10 * s.tick.period : Nat) + getF s (R.FPORT_DELAY_NS p.val) +
      pfield f 8 4 - (10 * s.tick.offset + sub.val : Nat)) < (10 * s.tick.period : Nat) ∧ pfield f 1 4 = tickNum s ∧
      s.tick.noMark = false ∧ s.fabric.accepted = false ∧ 10 * s.tick.offset + sub.val < 5 * s.tick.period) ∧
    (∃ (p : Fin 4) (f : Frame) (s : State), fLink s p.val ∧ f.cls = 0 ∧ f.payload.length ≤ 256 ∧ s.fabric.syncUp = p.val ∧
      isCoord s = false ∧ pfield f 0 1 = 2 ∧ follows s ∧ s.tick.running ∧ tickDiff (pfield f 1 4) (tickNum s) = 0) ∧
    (∃ (p : Fin 4) (f : Frame) (s : State), fLink s p.val ∧ f.cls = 0 ∧ f.payload.length ≤ 256 ∧ s.fabric.syncUp = p.val ∧
      isCoord s = false ∧ pfield f 0 1 = 2 ∧ follows s ∧ s.tick.running ∧ 0 < tickDiff (pfield f 1 4) (tickNum s)) ∧
    (∃ (p : Fin 4) (f : Frame) (s : State), fLink s p.val ∧ f.cls = 0 ∧ f.payload.length ≤ 256 ∧ s.fabric.syncUp = p.val ∧
      isCoord s = false ∧ pfield f 0 1 = 2 ∧ follows s ∧ s.tick.running ∧ tickDiff (pfield f 1 4) (tickNum s) < 0) :=
  ⟨⟨0, (⟨2, 5, 7, 3, 0, 1, []⟩),
    ({ sWith [(R.FABRIC_CTL_EN, 1), (R.FPORT_CTL_EN 0, 1), (R.FPORT_CTL_AN_EN 0, 1), (R.FPORT_STAT_LINK 0, 1), (R.FPORT_CREDIT_VC0 0, 4), (R.FPORT_CREDIT_VC1 0, 4), (R.FABRIC_ROUTE_PORT 7, 0)] with now := 100000000, fports := [(0, { FPort.empty with heard := true })] }),
    by decide +kernel⟩, ⟨0, (⟨2, 5, 7, 15, 0, 1, []⟩),
    ({ sWith [(R.FABRIC_CTL_EN, 1), (R.FPORT_CTL_EN 0, 1), (R.FPORT_CTL_AN_EN 0, 1), (R.FPORT_STAT_LINK 0, 1), (R.FPORT_CREDIT_VC0 0, 4), (R.FPORT_CREDIT_VC1 0, 4), (R.FABRIC_ROUTE_PORT 7, 0)] with now := 100000000, fports := [(0, { FPort.empty with heard := true })] }),
    by decide +kernel⟩, ⟨0, (⟨1, 0, 0, 0, 0, 0, mkPayload [5, 0, 9]⟩), 40,
    ({ sWith [(R.FABRIC_CTL_EN, 1), (R.FPORT_CTL_EN 0, 1), (R.FPORT_CTL_AN_EN 0, 1), (R.FPORT_STAT_LINK 0, 1), (R.FPORT_CREDIT_VC0 0, 4), (R.FPORT_CREDIT_VC1 0, 4)] with now := 100000000, fports := [(0, { FPort.empty with heard := true })] }),
    by decide +kernel⟩, ⟨0, (⟨1, 0, 0, 0, 0, 0, mkPayload ([6, 0, 0] ++ natToBytes 4 40)⟩), 101, [61],
    ({ sWith [(R.FABRIC_CTL_EN, 1), (R.FPORT_CTL_EN 0, 1), (R.FPORT_CTL_AN_EN 0, 1), (R.FPORT_STAT_LINK 0, 1), (R.FPORT_CREDIT_VC0 0, 4), (R.FPORT_CREDIT_VC1 0, 4)] with now := 100000000, fports := [(0, { FPort.empty with heard := true })] }),
    by decide +kernel⟩, ⟨0,
    ({ sWith [(R.FABRIC_CTL_EN, 1), (R.FPORT_CTL_EN 0, 1), (R.FPORT_CTL_AN_EN 0, 1), (R.FPORT_STAT_LINK 0, 1), (R.FPORT_CREDIT_VC0 0, 4), (R.FPORT_CREDIT_VC1 0, 4)] with now := 100000000, fports := [(0, { FPort.empty with heard := true, echoLeft := 3 })] }),
    by decide +kernel⟩, ⟨0, (⟨0, 0, 0, 0, 0, 9, mkPayload ([1] ++ natToBytes 4 9 ++ natToBytes 3 24000 ++ natToBytes 4
    100)⟩), 3, 7,
    ({ sTick (sWith [(R.FABRIC_CTL_EN, 1), (R.FPORT_CTL_EN 0, 1), (R.FPORT_CTL_AN_EN 0, 1), (R.FPORT_STAT_LINK 0, 1), (R.FPORT_CREDIT_VC0 0, 4), (R.FPORT_CREDIT_VC1 0, 4), (R.TICK_CTL_FOLLOW, 1), (R.TICK_CTL_RUN, 1), (R.TICK_PERIOD_NS10, 25000), (R.TICK_NUM_NUM, 9), (R.FABRIC_FF_CTL_STEP_MAX, 100), (R.FPORT_DELAY_NS 0, 30)]) 50 with fports := [(0, { FPort.empty with heard := true })], fabric := { State.reset.fabric with syncUp := 0 } }),
    by decide +kernel⟩, ⟨0, (⟨0, 0, 0, 0, 0, 9, mkPayload ([1] ++ natToBytes 4 12 ++ natToBytes 3 25000 ++ natToBytes 4
    100)⟩), 3, 7,
    ({ sTick (sWith [(R.FABRIC_CTL_EN, 1), (R.FPORT_CTL_EN 0, 1), (R.FPORT_CTL_AN_EN 0, 1), (R.FPORT_STAT_LINK 0, 1), (R.FPORT_CREDIT_VC0 0, 4), (R.FPORT_CREDIT_VC1 0, 4), (R.TICK_CTL_FOLLOW, 1), (R.TICK_CTL_RUN, 1), (R.TICK_PERIOD_NS10, 25000), (R.TICK_NUM_NUM, 9), (R.FABRIC_FF_CTL_STEP_MAX, 100), (R.FPORT_DELAY_NS 0, 30)]) 50 with fports := [(0, { FPort.empty with heard := true })], fabric := { State.reset.fabric with syncUp := 0 } }),
    by decide +kernel⟩, ⟨0, (⟨0, 0, 0, 0, 0, 9, mkPayload ([1] ++ natToBytes 4 9 ++ natToBytes 3 25000 ++ natToBytes 4
    100)⟩), 3, 7,
    ({ sTick (sWith [(R.FABRIC_CTL_EN, 1), (R.FPORT_CTL_EN 0, 1), (R.FPORT_CTL_AN_EN 0, 1), (R.FPORT_STAT_LINK 0, 1), (R.FPORT_CREDIT_VC0 0, 4), (R.FPORT_CREDIT_VC1 0, 4), (R.TICK_CTL_FOLLOW, 1), (R.TICK_CTL_RUN, 1), (R.TICK_PERIOD_NS10, 25000), (R.TICK_NUM_NUM, 9), (R.FABRIC_FF_CTL_STEP_MAX, 100), (R.FPORT_DELAY_NS 0, 30)]) 50 with fports := [(0, { FPort.empty with heard := true })], fabric := { State.reset.fabric with syncUp := 0 } }),
    by decide +kernel⟩, ⟨0, (⟨0, 0, 0, 0, 0, 9, mkPayload ([2] ++ natToBytes 4 9 ++ natToBytes 3 100)⟩),
    ({ sTick (sWith [(R.FABRIC_CTL_EN, 1), (R.FPORT_CTL_EN 0, 1), (R.FPORT_CTL_AN_EN 0, 1), (R.FPORT_STAT_LINK 0, 1), (R.FPORT_CREDIT_VC0 0, 4), (R.FPORT_CREDIT_VC1 0, 4), (R.TICK_CTL_FOLLOW, 1), (R.TICK_CTL_RUN, 1), (R.TICK_PERIOD_NS10, 25000), (R.TICK_NUM_NUM, 9), (R.FABRIC_FF_CTL_STEP_MAX, 100), (R.FPORT_DELAY_NS 0, 30)]) 50 with fports := [(0, { FPort.empty with heard := true })], fabric := { State.reset.fabric with syncUp := 0 } }),
    by decide +kernel⟩, ⟨0, (⟨0, 0, 0, 0, 0, 9, mkPayload ([2] ++ natToBytes 4 10 ++ natToBytes 3 100)⟩),
    ({ sTick (sWith [(R.FABRIC_CTL_EN, 1), (R.FPORT_CTL_EN 0, 1), (R.FPORT_CTL_AN_EN 0, 1), (R.FPORT_STAT_LINK 0, 1), (R.FPORT_CREDIT_VC0 0, 4), (R.FPORT_CREDIT_VC1 0, 4), (R.TICK_CTL_FOLLOW, 1), (R.TICK_CTL_RUN, 1), (R.TICK_PERIOD_NS10, 25000), (R.TICK_NUM_NUM, 9), (R.FABRIC_FF_CTL_STEP_MAX, 100), (R.FPORT_DELAY_NS 0, 30)]) 50 with fports := [(0, { FPort.empty with heard := true })], fabric := { State.reset.fabric with syncUp := 0 } }),
    by decide +kernel⟩, ⟨0, (⟨0, 0, 0, 0, 0, 9, mkPayload ([2] ++ natToBytes 4 8 ++ natToBytes 3 100)⟩),
    ({ sTick (sWith [(R.FABRIC_CTL_EN, 1), (R.FPORT_CTL_EN 0, 1), (R.FPORT_CTL_AN_EN 0, 1), (R.FPORT_STAT_LINK 0, 1), (R.FPORT_CREDIT_VC0 0, 4), (R.FPORT_CREDIT_VC1 0, 4), (R.TICK_CTL_FOLLOW, 1), (R.TICK_CTL_RUN, 1), (R.TICK_PERIOD_NS10, 25000), (R.TICK_NUM_NUM, 9), (R.FABRIC_FF_CTL_STEP_MAX, 100), (R.FPORT_DELAY_NS 0, 30)]) 50 with fports := [(0, { FPort.empty with heard := true })], fabric := { State.reset.fabric with syncUp := 0 } }),
    by decide +kernel⟩⟩

theorem wit_Stations :
    (∃ (p : Fin 4) (f : Frame) (e : Nat) (s : State), frameOkAt s p f 3 ∧ forHere s f ∧ stationOn s ∧ ((entries.find? fun e
      => stnState s e != 0 && entryNode s e == some f.src.toNat) = some e) ∧ pfield f 0 4 = tickNum s ∧ (stnOf s e).got =
      false ∧ s.tick.running ∧ s.tick.offset ≤ s.tick.cutoff + s.tick.stretch ∧ s.tick.cutDone = false) ∧
    (∃ (p : Fin 4) (f : Frame) (e : Nat) (s : State), frameOkAt s p f 3 ∧ forHere s f ∧ stationOn s ∧ ((entries.find? fun e
      => stnState s e != 0 && entryNode s e == some f.src.toNat) = some e) ∧ (pfield f 0 4 ≠ tickNum s ∨ s.tick.running =
      false)) ∧
    (∃ (p : Fin 4) (f : Frame) (e : Nat) (s : State), frameOkAt s p f 3 ∧ forHere s f ∧ stationOn s ∧ ((entries.find? fun e
      => stnState s e != 0 && entryNode s e == some f.src.toNat) = some e) ∧ pfield f 0 4 = tickNum s ∧ s.tick.running ∧
      (stnOf s e).got = false ∧ ((s.tick.cutoff + s.tick.stretch < s.tick.offset ∧ stretchOpen s = false) ∨ s.tick.cutDone)) ∧
    (∃ (e : Fin 48) (d : Nat) (s : State), (stnOf s e.val).waiting ∧ getF s (R.STATION_ENTRY_CTL_EN e.val) = 1 ∧ (stnOf s
      e.val).bindAt + 1000000 ≤ s.now ∧ (stnOf s e.val).sends ≠ 16 ∧ entryNode s e.val = some d ∧ reachable s d) ∧
    (∃ (e : Fin 48) (s : State), (stnOf s e.val).waiting ∧ getF s (R.STATION_ENTRY_CTL_EN e.val) = 1 ∧ (stnOf s e.val).bindAt
      + 1000000 ≤ s.now ∧ (stnOf s e.val).sends = 16) ∧
    (∃ (p : Fin 4) (f : Frame) (e : Fin 48) (s : State), frameOkAt s p f 5 ∧ forHere s f ∧ pfield f 0 1 = 2 ∧ (stnOf s
      e.val).waiting ∧ entryNode s e.val = some f.src.toNat) ∧
    (∃ (path : Path) (e : Fin 48) (v : Word) (s : State), ownCa path (R.STATION_ENTRY_CTL_EN e.val).key ∧ accepted path 0x21
      (R.STATION_ENTRY_CTL_EN e.val).off (withField v (R.STATION_ENTRY_CTL_EN e.val).lo 1 1) s ∧ entryUsable
      ({ s with regs := setReg s.regs (R.STATION_ENTRY_CTL_EN e.val).key (writeResult path s 0x21 (R.STATION_ENTRY_CTL_EN e.val).off (withField v (R.STATION_ENTRY_CTL_EN e.val).lo 1 1)).1 })
      e.val = false) ∧
    (∃ (path : Path) (e : Fin 48) (v : Word) (s : State), ownCa path (R.STATION_ENTRY_CTL_EN e.val).key ∧ accepted path 0x21
      (R.STATION_ENTRY_CTL_EN e.val).off (withField v (R.STATION_ENTRY_CTL_EN e.val).lo 1 1) s ∧ entryUsable
      ({ s with regs := setReg s.regs (R.STATION_ENTRY_CTL_EN e.val).key (writeResult path s 0x21 (R.STATION_ENTRY_CTL_EN e.val).off (withField v (R.STATION_ENTRY_CTL_EN e.val).lo 1 1)).1 })
      e.val) ∧
    (∃ (path : Path) (v : Word) (s : State), ownCa path R.STATION_QUAL_HA_LINE.key ∧ accepted path 0x21
      R.STATION_QUAL_HA_LINE.off v s ∧ getF s R.STATION_CTL_EN = 1 ∧ fvHolds s ((fieldOf v 0 24) * 64) 64 false = false) ∧
    (∃ (path : Path) (v : Word) (s : State), ownCa path R.STATION_QUAL_HA_LINE.key ∧ accepted path 0x21
      R.STATION_QUAL_HA_LINE.off v s ∧ getF s R.STATION_CTL_EN = 1 ∧ fvHolds s ((fieldOf v 0 24) * 64) 64 false) ∧
    (∃ (path : Path) (v : Word) (s : State), ownCa path R.STATION_CTL_EN.key ∧ accepted path 0x21 R.STATION_CTL_EN.off
      (withField v R.STATION_CTL_EN.lo 1 1) s ∧ fvHolds s ((getF s R.STATION_QUAL_HA_LINE) * 64) 64 false = false) ∧
    (∃ (path : Path) (v : Word) (s : State), ownCa path R.STATION_CTL_EN.key ∧ accepted path 0x21 R.STATION_CTL_EN.off
      (withField v R.STATION_CTL_EN.lo 1 1) s ∧ fvHolds s ((getF s R.STATION_QUAL_HA_LINE) * 64) 64 false) :=
  ⟨⟨0, (⟨3, 5, 3, 0, 0, 9, mkPayload (natToBytes 4 9 ++ [4] ++ List.replicate 15 7)⟩), 2,
    ({ sTick (sWith [(R.FABRIC_CTL_EN, 1), (R.FPORT_CTL_EN 0, 1), (R.FPORT_CTL_AN_EN 0, 1), (R.FPORT_STAT_LINK 0, 1), (R.FPORT_CREDIT_VC0 0, 4), (R.FPORT_CREDIT_VC1 0, 4), (R.FABRIC_STAT_ID_VALID, 1), (R.FABRIC_STAT_NODE_ID, 3), (R.FABRIC_ROUTE_PORT 5, 0), (R.STATION_CTL_EN, 1), (R.STATION_STATUS_STATE 2, 1), (R.STATION_ENTRY_UID_LO_UID 2, 7), (R.STATION_ENTRY_CTL_EN 2, 1), (R.TICK_NUM_NUM, 9)]) 50 with now := 100000000, fports := [(0, { FPort.empty with heard := true })], fabric := { State.reset.fabric with nodes := [(7, 5)] }, stns := [(2, { Stn.empty with waiting := true, sends := 0 })] }),
    by decide +kernel⟩, ⟨0, (⟨3, 5, 3, 0, 0, 9, mkPayload (natToBytes 4 8 ++ [4] ++ List.replicate 15 7)⟩), 2,
    ({ sTick (sWith [(R.FABRIC_CTL_EN, 1), (R.FPORT_CTL_EN 0, 1), (R.FPORT_CTL_AN_EN 0, 1), (R.FPORT_STAT_LINK 0, 1), (R.FPORT_CREDIT_VC0 0, 4), (R.FPORT_CREDIT_VC1 0, 4), (R.FABRIC_STAT_ID_VALID, 1), (R.FABRIC_STAT_NODE_ID, 3), (R.FABRIC_ROUTE_PORT 5, 0), (R.STATION_CTL_EN, 1), (R.STATION_STATUS_STATE 2, 1), (R.STATION_ENTRY_UID_LO_UID 2, 7), (R.STATION_ENTRY_CTL_EN 2, 1), (R.TICK_NUM_NUM, 9)]) 50 with now := 100000000, fports := [(0, { FPort.empty with heard := true })], fabric := { State.reset.fabric with nodes := [(7, 5)] }, stns := [(2, { Stn.empty with waiting := true, sends := 0 })] }),
    by decide +kernel⟩, ⟨0, (⟨3, 5, 3, 0, 0, 9, mkPayload (natToBytes 4 9 ++ [4] ++ List.replicate 15 7)⟩), 2,
    ({ sTick (sWith [(R.FABRIC_CTL_EN, 1), (R.FPORT_CTL_EN 0, 1), (R.FPORT_CTL_AN_EN 0, 1), (R.FPORT_STAT_LINK 0, 1), (R.FPORT_CREDIT_VC0 0, 4), (R.FPORT_CREDIT_VC1 0, 4), (R.FABRIC_STAT_ID_VALID, 1), (R.FABRIC_STAT_NODE_ID, 3), (R.FABRIC_ROUTE_PORT 5, 0), (R.STATION_CTL_EN, 1), (R.STATION_STATUS_STATE 2, 1), (R.STATION_ENTRY_UID_LO_UID 2, 7), (R.STATION_ENTRY_CTL_EN 2, 1), (R.TICK_NUM_NUM, 9)]) 5000 with now := 100000000, fports := [(0, { FPort.empty with heard := true })], fabric := { State.reset.fabric with nodes := [(7, 5)] }, stns := [(2, { Stn.empty with waiting := true, sends := 0 })] }),
    by decide +kernel⟩, ⟨2, 5,
    ({ sTick (sWith [(R.FABRIC_CTL_EN, 1), (R.FPORT_CTL_EN 0, 1), (R.FPORT_CTL_AN_EN 0, 1), (R.FPORT_STAT_LINK 0, 1), (R.FPORT_CREDIT_VC0 0, 4), (R.FPORT_CREDIT_VC1 0, 4), (R.FABRIC_STAT_ID_VALID, 1), (R.FABRIC_STAT_NODE_ID, 3), (R.FABRIC_ROUTE_PORT 5, 0), (R.STATION_CTL_EN, 1), (R.STATION_STATUS_STATE 2, 1), (R.STATION_ENTRY_UID_LO_UID 2, 7), (R.STATION_ENTRY_CTL_EN 2, 1), (R.TICK_NUM_NUM, 9)]) 50 with now := 100000000, fports := [(0, { FPort.empty with heard := true })], fabric := { State.reset.fabric with nodes := [(7, 5)] }, stns := [(2, { Stn.empty with waiting := true, sends := 1 })] }),
    by decide +kernel⟩, ⟨2,
    ({ sTick (sWith [(R.FABRIC_CTL_EN, 1), (R.FPORT_CTL_EN 0, 1), (R.FPORT_CTL_AN_EN 0, 1), (R.FPORT_STAT_LINK 0, 1), (R.FPORT_CREDIT_VC0 0, 4), (R.FPORT_CREDIT_VC1 0, 4), (R.FABRIC_STAT_ID_VALID, 1), (R.FABRIC_STAT_NODE_ID, 3), (R.FABRIC_ROUTE_PORT 5, 0), (R.STATION_CTL_EN, 1), (R.STATION_STATUS_STATE 2, 1), (R.STATION_ENTRY_UID_LO_UID 2, 7), (R.STATION_ENTRY_CTL_EN 2, 1), (R.TICK_NUM_NUM, 9)]) 50 with now := 100000000, fports := [(0, { FPort.empty with heard := true })], fabric := { State.reset.fabric with nodes := [(7, 5)] }, stns := [(2, { Stn.empty with waiting := true, sends := 16 })] }),
    by decide +kernel⟩, ⟨0, (⟨5, 5, 3, 0, 0, 9, mkPayload [2]⟩), 2,
    ({ sTick (sWith [(R.FABRIC_CTL_EN, 1), (R.FPORT_CTL_EN 0, 1), (R.FPORT_CTL_AN_EN 0, 1), (R.FPORT_STAT_LINK 0, 1), (R.FPORT_CREDIT_VC0 0, 4), (R.FPORT_CREDIT_VC1 0, 4), (R.FABRIC_STAT_ID_VALID, 1), (R.FABRIC_STAT_NODE_ID, 3), (R.FABRIC_ROUTE_PORT 5, 0), (R.STATION_CTL_EN, 1), (R.STATION_STATUS_STATE 2, 1), (R.STATION_ENTRY_UID_LO_UID 2, 7), (R.STATION_ENTRY_CTL_EN 2, 1), (R.TICK_NUM_NUM, 9)]) 50 with now := 100000000, fports := [(0, { FPort.empty with heard := true })], fabric := { State.reset.fabric with nodes := [(7, 5)] }, stns := [(2, { Stn.empty with waiting := true, sends := 1 })] }),
    by decide +kernel⟩, ⟨.spi, 2, 0x05000000, sRun, by decide +kernel⟩, ⟨.spi, 2, 0x05000000, (withActive (sWith
    [(R.STATION_ENTRY_IN_HA_LINE 2, 0), (R.STATION_ENTRY_OUT_HA_LINE 2, 0x8000)]) [(0, rgn 0 4 false), (1, rgn 0x200000 4
    true)]), by decide +kernel⟩, ⟨.spi, 8, (sWith [(R.STATION_CTL_EN, 1)]), by decide +kernel⟩, ⟨.spi, 8, (withActive (sWith
    [(R.STATION_CTL_EN, 1)]) [(0, rgn 0 4 false)]), by decide +kernel⟩, ⟨.spi, 8, sRun, by decide +kernel⟩, ⟨.spi, 8,
    (withActive (sRun) [(0, rgn 0 4 false)]), by decide +kernel⟩⟩

theorem wit_PageHeader :
    (∃ (path : Path) (page : Fin 256) (v : Word) (s : State), ownCa path (regKey page.val 0x020) ∧ (pageInfo page.val).isSome
      ∧ bareHeader page.val = false ∧ served path page.val s) ∧
    (∃ (path : Path) (page : Fin 256) (v : Word) (s : State), ownCa path (regKey page.val 0x018) ∧ (pageInfo page.val).isSome
      ∧ bareHeader page.val = false ∧ served path page.val s) ∧
    (∃ (path : Path) (page : Fin 256) (v : Word) (b : Fin 32) (s : State), ownCa path (regKey page.val 0x01C) ∧ (pageInfo
      page.val).isSome ∧ bareHeader page.val = false ∧ served path page.val s ∧ (irqMask page.val).testBit b.val ∧ v.getLsbD
      b.val) ∧
    (∃ (path : Path) (page : Fin 256) (v : Word) (s : State), ownCa path (regKey page.val 0x014) ∧ (pageInfo page.val).isSome
      ∧ bareHeader page.val = false ∧ served path page.val s) ∧
    (∃ (path : Path) (page : Fin 256) (v : Word) (k : Nat) (s : State), ownCa path (regKey page.val 0x004) ∧ (pageInfo
      page.val).isSome ∧ served path page.val s ∧ stage s ≠ 0 ∧ (pageInfo page.val).bind (·.2.2) = none ∧ v.getLsbD 1 ∧
      v.getLsbD 2 = false ∧ k / 4096 = page.val ∧ k ≠ R.GLOBAL_SVC_STAT_REFUSED.key ∧ (s.regs.Pairwise (fun a b => a.1 <
      b.1))) ∧
    (∃ (path : Path) (page : Fin 256) (v : Word) (s : State), ownCa path (regKey page.val 0x004) ∧ (pageInfo page.val).isSome
      ∧ served path page.val s ∧ stage s ≠ 0 ∧ (pageInfo page.val).bind (·.2.2) = none ∧ v.getLsbD 1 = false ∧ v.getLsbD 2 =
      false ∧ getF s (pageFreeze page.val) = 1) ∧
    (∃ (path : Path) (page : Fin 256) (v : Word) (s : State), ownCa path (regKey page.val 0x004) ∧ (pageInfo page.val).isSome
      ∧ served path page.val s ∧ stage s ≠ 0 ∧ (pageInfo page.val).bind (·.2.2) = none ∧ v.getLsbD 1 = false ∧ getF s
      (pageFreeze page.val) = 0) ∧
    (∃ (path : Path) (page : Fin 256) (v : Word) (en : Fld) (s : State), ownCa path (regKey page.val 0x004) ∧ (pageInfo
      page.val).isSome ∧ served path page.val s ∧ stage s ≠ 0 ∧ (pageInfo page.val).bind (·.2.2) = some en ∧ quietReg en.page
      en.off ∧ accepted path en.page en.off (withField (getReg s.regs en.key) en.lo en.w (fieldOf v 0 1)) s ∧ v.getLsbD 1 =
      false ∧ v.getLsbD 2 = false ∧ getF s (pageFreeze page.val) = 0) ∧
    (∃ (path : Path) (page : Fin 256) (v : Word) (s : State), ownCa path (regKey page.val 0x004) ∧ (pageInfo page.val).isSome
      ∧ served path page.val s ∧ stage s ≠ 0 ∧ (pageInfo page.val).bind (·.2.2) = none ∧ v.getLsbD 1 = false ∧ v.getLsbD 2 =
      false ∧ getF s (pageFreeze page.val) = 0) ∧
    (∃ (s : State), pathOk .i2c s ∧ s.alertLow) :=
  ⟨⟨.spi, 0x20, 0, (sWith [(capValid 0x20, 1), (capCode 0x20, 5)]), by decide +kernel⟩, ⟨.spi, 0x20, 3, (raised 0x20 1 sRun),
    by decide +kernel⟩, ⟨.spi, 0x20, 3, 1, sRun, by decide +kernel⟩, ⟨.spi, 0x20, 0xFF, sRun, by decide +kernel⟩, ⟨.spi,
    0x28, 2, 0x28044, (sWith [(R.ARB_STARVE_FLAG, 7)]), by decide +kernel⟩, ⟨.spi, 0x28, 0, (sWith [(pageFreeze 0x28, 1)]),
    by decide +kernel⟩, ⟨.spi, 0x28, 0, sRun, by decide +kernel⟩, ⟨.spi, 0x68, 1, R.CARGO_CTL_EN, sRun, by decide +kernel⟩,
    ⟨.spi, 0x28, 1, sRun, by decide +kernel⟩, ⟨({ sWith [(R.INTAGG_LEVEL_ALERT, 1)] with alertLow := true }),
    by decide +kernel⟩⟩

theorem wit_CountersDebugAndOldAddresses :
    (∃ (path : Path) (k : Fin 8) (v : Word) (s : State), ownCa path (R.LEDGER_PERF_SEL_EVENT k.val).key ∧ accepted path 0x78
      (R.LEDGER_PERF_SEL_EVENT k.val).off v s) ∧
    (∃ (path : Path) (v : Word) (s : State), ownCa path R.DEBUG_PEEK_CTL_GO.key ∧ accepted path 0xF0 0x044 (withField v
      R.DEBUG_PEEK_CTL_GO.lo 1 1) s ∧ getF s R.GLOBAL_SVC_CTL_DBG_EN = 1 ∧ v.toNat % 4 ≠ 3 ∧ s.svc.peek = none ∧ (v.toNat % 4
      = 0 → backedSa (getF s R.DEBUG_PEEK_ADDR_ADDR * 16))) ∧
    (∃ (path : Path) (v : Word) (s : State), ownCa path R.DEBUG_PEEK_CTL_GO.key ∧ accepted path 0xF0 0x044 (withField v
      R.DEBUG_PEEK_CTL_GO.lo 1 1) s ∧ getF s R.GLOBAL_SVC_CTL_DBG_EN = 1 ∧ v.toNat % 4 ≠ 3 ∧ (s.svc.peek.isSome ∨ (v.toNat %
      4 = 0 ∧ backedSa (getF s R.DEBUG_PEEK_ADDR_ADDR * 16) = false))) ∧
    (∃ (i : Fin 4) (word a : Nat) (s : State), s.svc.peek = some (0, word, a)) ∧
    (∃ (s : State), s.svc.peek = none) ∧
    (∃ (path : Path) (i : Fin 64) (v : Word) (s : State), ownCa path R.DEBUG_TRACE_CTL_EN.key ∧ accepted path 0xF0 0x080 v s
      ∧ getF s R.GLOBAL_SVC_CTL_DBG_EN = 1) ∧
    (∃ (path : Path) (ca : BitVec 24) (pg off : Nat) (v : Word) (s : State), ownCa path ca.toNat ∧ served path (caPage
      ca.toNat) s ∧ aliasPage s (caPage ca.toNat) ∧ aliasTarget s (caPage ca.toNat) (caOff ca.toNat) = .reg pg off ∧ accepted
      path pg off v s ∧ (quietReg pg off ∨ (8 ≤ pg ∧ pg < 0x18 ∧ off = (R.APORT_TEN_MASK_T 0).off))) ∧
    (∃ (path : Path) (ca : BitVec 24) (v : Word) (s : State), ownCa path ca.toNat ∧ served path (caPage ca.toNat) s ∧
      aliasPage s (caPage ca.toNat) ∧ aliasTarget s (caPage ca.toNat) (caOff ca.toNat) = .removed ∧ getF s (capValid (caPage
      ca.toNat)) = 0) ∧
    (∃ (path : Path) (ca : BitVec 24) (s : State), ownCa path ca.toNat ∧ reads path s ∧ aliasPage s (caPage ca.toNat) ∧
      aliasTarget s (caPage ca.toNat) (caOff ca.toNat) = .removed ∧ pathNo path < 19) ∧
    (∃ (path : Path) (ca : BitVec 24) (pg off : Nat) (s : State), ownCa path ca.toNat ∧ reads path s ∧ aliasPage s (caPage
      ca.toNat) ∧ aliasTarget s (caPage ca.toNat) (caOff ca.toNat) = .reg pg off ∧ pathNo path < 19 ∧ quietReg pg off) :=
  ⟨⟨.spi, 2, 3, sRun, by decide +kernel⟩, ⟨.spi, 1, (sWith [(R.GLOBAL_SVC_CTL_DBG_EN, 1)]), by decide +kernel⟩, ⟨.spi, 0,
    (sWith [(R.GLOBAL_SVC_CTL_DBG_EN, 1), (R.DEBUG_PEEK_ADDR_ADDR, 0x1080000)]), by decide +kernel⟩, ⟨1, 0, 5,
    ({ sRun with svc := { State.reset.svc with peek := some (0, 0, 5) } }), by decide +kernel⟩, ⟨sRun, by decide +kernel⟩,
    ⟨.spi, 3, 1, (sWith [(R.GLOBAL_SVC_CTL_DBG_EN, 1), (R.DEBUG_TRACE_VALID 3, 1)]), by decide +kernel⟩, ⟨.spi, 0x085880#24,
    0x0E, 0x100, 5, (sWith [(R.GLOBAL_SVC_CTL_ALIAS_EN, 1)]), by decide +kernel⟩, ⟨.spi, 0x080150#24, 5, (sWith
    [(R.GLOBAL_SVC_CTL_ALIAS_EN, 1)]), by decide +kernel⟩, ⟨.spi, 0x080150#24, (sWith [(R.GLOBAL_SVC_CTL_ALIAS_EN, 1)]),
    by decide +kernel⟩, ⟨.spi, 0x089204#24, 0x29, 0x044, (sWith [(R.GLOBAL_SVC_CTL_ALIAS_EN, 1)]), by decide +kernel⟩⟩

theorem wit_AgentConfiguration :
    (∃ (h : Hdr) (p : Fin 16) (ca : BitVec 24) (s : State), msgReady s h p [] 0 ∧ burstCodes s h.tenant.val ca.toNat (1) = []
      ∧ caHub ca.toNat = 0 ∧ quietReg (caPage ca.toNat) (caOff ca.toNat)) ∧
    (∃ (h : Hdr) (p : Fin 16) (ca : BitVec 24) (nreg : Fin 4) (s : State), msgReady s h p [] 0 ∧ burstCodes s h.tenant.val
      ca.toNat (nreg.val + 1) = [] ∧ caHub ca.toNat = 0) ∧
    (∃ (h : Hdr) (p : Fin 16) (ca : BitVec 24) (nreg : Fin 4) (s : State), msgReady s h p [] 0 ∧ burstCodes s h.tenant.val
      ca.toNat (nreg.val + 1) = [] ∧ caHub ca.toNat = 1 ∧ hasPartner s) ∧
    (∃ (h : Hdr) (p : Fin 16) (ca : BitVec 24) (fs : List DFlit) (s : State), msgReady s h p fs 1 ∧ burstCodes s h.tenant.val
      ca.toNat (1) = [] ∧ caHub ca.toNat = 0 ∧ quietReg (caPage ca.toNat) (caOff ca.toNat) ∧ accepted (.msg p) (caPage
      ca.toNat) (caOff ca.toNat) (BitVec.ofNat 32 ((quadsOf fs).headD Quad.zero).bits.toNat) s) ∧
    (∃ (h : Hdr) (p : Fin 16) (ca : BitVec 24) (fs : List DFlit) (s : State), msgReady s h p fs 1 ∧ burstCodes s h.tenant.val
      ca.toNat (1) = [] ∧ caHub ca.toNat = 0 ∧ quietReg (caPage ca.toNat) (caOff ca.toNat) ∧ served (.msg p) (caPage
      ca.toNat) s ∧ (writeResult (.msg p) s (caPage ca.toNat) (caOff ca.toNat) (BitVec.ofNat 32 ((quadsOf fs).headD
      Quad.zero).bits.toNat)).2 ≠ []) ∧
    (∃ (h : Hdr) (p : Fin 16) (ca : BitVec 24) (nreg : Fin 4) (s : State), msgReady s h p [] 0 ∧ burstCodes s h.tenant.val
      ca.toNat (nreg.val + 1) = [0x07]) ∧
    (∃ (h : Hdr) (p : Fin 16) (ca : BitVec 24) (nreg : Fin 4) (s : State), msgReady s h p [] 0 ∧ burstCodes s h.tenant.val
      ca.toNat (nreg.val + 1) = [0x34]) ∧
    (∃ (h : Hdr) (p : Fin 16) (ca : BitVec 24) (nreg : Fin 4) (fs : List DFlit) (s : State), msgReady s h p fs 1 ∧ burstCodes
      s h.tenant.val ca.toNat (nreg.val + 1) = [0x07]) ∧
    (∃ (h : Hdr) (p : Fin 16) (ca : BitVec 24) (nreg : Fin 4) (fs : List DFlit) (s : State), msgReady s h p fs 1 ∧ burstCodes
      s h.tenant.val ca.toNat (nreg.val + 1) = [0x34]) ∧
    (∃ (h : Hdr) (a : Fin 32) (ca : BitVec 24) (nreg : Fin 4) (s : State), h.src = .partner a ∧ pairRoom s 5 0 ∧ hasPartner s
      ∧ caHub ca.toNat = 0) :=
  ⟨⟨(hd 5 5 0), 0, 0x029044#24, (sets sPort [(R.TENANT_CTL_CFG_PRIV 0, 1)]), by decide +kernel⟩, ⟨(hd 5 5 0), 0, 0x029044#24,
    3, (sets sPort [(R.TENANT_CTL_CFG_PRIV 0, 1)]), by decide +kernel⟩, ⟨(hd 5 5 0), 0, 0x128044#24, 3, (sets sPortPair
    [(R.TENANT_CTL_CFG_PRIV 0, 1)]), by decide +kernel⟩, ⟨(hd 5 5 0), 0, 0x029044#24, ([⟨7, false, true⟩]), (sets sPort
    [(R.TENANT_CTL_CFG_PRIV 0, 1)]), by decide +kernel⟩, ⟨(hd 5 5 0), 0, 0x033044#24, ([⟨9000, false, true⟩]), (sets sPort
    [(R.TENANT_CTL_CFG_PRIV 0, 1)]), by decide +kernel⟩, ⟨(hd 5 5 0), 0, 0x029044#24, 3, (sets sPort [(R.TENANT_CTL_CFG_PRIV
    0, 0)]), by decide +kernel⟩, ⟨(hd 5 5 0), 0, 0x028FFC#24, 3, (sets sPort [(R.TENANT_CTL_CFG_PRIV 0, 1)]),
    by decide +kernel⟩, ⟨(hd 5 5 0), 0, 0x029044#24, 3, ([⟨7, false, true⟩]), (sets sPort [(R.TENANT_CTL_CFG_PRIV 0, 0)]),
    by decide +kernel⟩, ⟨(hd 5 5 0), 0, 0x028FFC#24, 3, ([⟨7, false, true⟩]), (sets sPort [(R.TENANT_CTL_CFG_PRIV 0, 1)]),
    by decide +kernel⟩, ⟨(⟨.partner 17, 0, 5, 5, 0, 3⟩), 17, 0x029044#24, 3, sPortPair, by decide +kernel⟩⟩

theorem wit_ServicePortSpi :
    (∃ (addr : BitVec 24) (count : BitVec 8) (remote : List Word) (s : State), pathOk .spi s ∧ addr.toNat % 4 = 0 ∧
      addr.toNat < 0x100000) ∧
    (∃ (addr : BitVec 24) (count : BitVec 8) (remote : List Word) (s : State), pathOk .spi s ∧ count.toNat % 4 = 0 ∧
      addr.toNat < 0x100000 ∧ quietReg (caPage addr.toNat) (caOff addr.toNat) ∧ addr.toNat % 4 = 0) ∧
    (∃ (addr : BitVec 24) (count : BitVec 8) (remote : List Word) (s : State), pathOk .spi s ∧ addr.toNat % 4 ≠ 0) ∧
    (∃ (addr : BitVec 24) (bytes : List Byte) (v : Word) (s : State), pathOk .spi s ∧ bytes.length = 4 ∧ dataWords bytes =
      [v] ∧ ownCa .spi addr.toNat ∧ quietReg (caPage addr.toNat) (caOff addr.toNat) ∧ accepted .spi (caPage addr.toNat)
      (caOff addr.toNat) v s) ∧
    (∃ (addr : BitVec 24) (bytes : List Byte) (s : State), pathOk .spi s ∧ addr.toNat % 4 ≠ 0 ∧ 4 ≤ bytes.length) ∧
    (∃ (s : State), pathOk .spi s) ∧
    (∃ (cmd : Byte) (s : State), pathOk .spi s ∧ cmd ≠ 0x0B ∧ cmd ≠ 0x02 ∧ cmd ≠ 0x05) ∧
    (∃ (s : State), pairRoom s 5 0 ∧ 0 < s.svc.posted) :=
  ⟨⟨0x029044#24, 3, [], sRun, by decide +kernel⟩, ⟨0x029044#24, 0, [], sRun, by decide +kernel⟩, ⟨0x028045#24, 1, [], sRun,
    by decide +kernel⟩, ⟨0x029044#24, ([0, 0, 0, 5]), 5, sRun, by decide +kernel⟩, ⟨0x029045#24, ([0, 0, 0, 5, 1]), sRun,
    by decide +kernel⟩, ⟨sRun, by decide +kernel⟩, ⟨0x9F, sRun, by decide +kernel⟩,
    ⟨({ sPair with svc := { State.reset.svc with posted := 3 } }), by decide +kernel⟩⟩

theorem wit_ServicePortI2cAndTestPort :
    (∃ (addr : BitVec 24) (bytes : List Byte) (s : State), pathOk .i2c s ∧ getF s R.GLOBAL_SVC_CTL_PEC_EN = 1 ∧ bytes.length
      ≤ 29) ∧
    (∃ (addr : BitVec 24) (bytes : List Byte) (v : Word) (s : State), pathOk .i2c s ∧ getF s R.GLOBAL_SVC_CTL_PEC_EN = 0 ∧
      bytes.length = 4 ∧ dataWords bytes = [v] ∧ ownCa .i2c addr.toNat ∧ quietReg (caPage addr.toNat) (caOff addr.toNat) ∧
      accepted .i2c (caPage addr.toNat) (caOff addr.toNat) v s) ∧
    (∃ (addr : BitVec 24) (nbytes : BitVec 12) (remote : List Word) (s : State), pathOk .i2c s ∧ addr.toNat % 4 = 0 ∧
      addr.toNat + 4096 ≤ 0x100000) ∧
    (∃ (addr : BitVec 24) (nbytes : BitVec 12) (remote : List Word) (s : State), pathOk .i2c s ∧ addr.toNat % 4 ≠ 0) ∧
    (∃ (addr : BitVec 24) (bytes : List Byte) (s : State), pathOk .i2c s ∧ s.svc.i2c = some (addr.toNat, bytes) ∧ pecOk s
      addr.toNat bytes = false) ∧
    (∃ (addr : BitVec 24) (bytes : List Byte) (v : Word) (s : State), pathOk .i2c s ∧ s.svc.i2c = some (addr.toNat, bytes) ∧
      pecOk s addr.toNat bytes ∧ dataWords bytes = [v] ∧ ownCa .i2c addr.toNat ∧ quietReg (caPage addr.toNat) (caOff
      addr.toNat) ∧ accepted .i2c (caPage addr.toNat) (caOff addr.toNat) v s) ∧
    (∃ (cells lands : BitVec 71) (s : State), jtagOk s) ∧
    (∃ (cells lands : BitVec 71) (s : State), jtagOk s ∧ landsOff s = false) ∧
    (∃ (s : State), jtagOk s) ∧
    (∃ (code : Fin 16) (tdi : Bool) (s : State), jtagOk s ∧ 3 ≤ code.val ∧ landsOff s = false) ∧
    (∃ (cells lands : BitVec 71) (s : State), jtagOk s = false) ∧
    (∃ (cells lands : BitVec 71) (s : State), jtagOk s = false) ∧
    (∃ (s : State), jtagOk s = false) ∧
    (∃ (code : Fin 16) (tdi : Bool) (s : State), jtagOk s = false) :=
  ⟨⟨0x029044#24, ([0, 0, 0, 5, 9]), (sWith [(R.GLOBAL_SVC_CTL_PEC_EN, 1)]), by decide +kernel⟩, ⟨0x029044#24, ([0, 0, 0, 5]),
    5, (sWith [(R.GLOBAL_SVC_CTL_PEC_EN, 0)]), by decide +kernel⟩, ⟨0x029044#24, 7, [], sRun, by decide +kernel⟩,
    ⟨0x028045#24, 7, [], sRun, by decide +kernel⟩, ⟨0x029044#24, ([0, 0, 0, 5, 9]),
    ({ sRun with svc := { State.reset.svc with i2c := some (0x029044, [0, 0, 0, 5, 9]) } }), by decide +kernel⟩,
    ⟨0x029044#24, ([0, 0, 0, 5, BitVec.ofNat 8 (crc8 [2 * 0x58, 2, 0x90, 0x44, 0, 0, 0, 5])]), 5,
    ({ sRun with svc := { State.reset.svc with i2c := some (0x029044, [0, 0, 0, 5, BitVec.ofNat 8 (crc8 [2 * 0x58, 2, 0x90, 0x44, 0, 0, 0, 5])]) } }),
    by decide +kernel⟩, ⟨5, 9, sRun, by decide +kernel⟩, ⟨5, 9, sRun, by decide +kernel⟩, ⟨sRun, by decide +kernel⟩, ⟨15,
    true, sRun, by decide +kernel⟩, ⟨5, 9, (sets sRun [(R.BOOT_STAT_STAGE, 0)]), by decide +kernel⟩, ⟨5, 9, (sets sRun
    [(R.BOOT_STAT_STAGE, 0)]), by decide +kernel⟩, ⟨(sets sRun [(R.BOOT_STAT_STAGE, 0)]), by decide +kernel⟩, ⟨15, true,
    (sets sRun [(R.BOOT_STAT_STAGE, 0)]), by decide +kernel⟩⟩

theorem wit_ResetStarts :
    (∃ (s : State), s.power.hold = false) ∧
    (∃ (s : State), powered s) ∧
    (∃ (s : State), s.power.hold = false) ∧
    (∃ (s : State), s.power.otOff) ∧
    (∃ (s : State), s.power.hold = false ∧ s.power.otOff = false) ∧
    (∃ (s : State), s.power.hold) ∧
    (∃ (s : State), powered s ∧ stage s ≠ 0 ∧ landsOff s = false) ∧
    (∃ (path : Path) (v : Word) (s : State), ownCa path R.GLOBAL_CTL_SOFT_RESET.key ∧ accepted path 0x00 0x040 (withField v
      R.GLOBAL_CTL_SOFT_RESET.lo R.GLOBAL_CTL_SOFT_RESET.w 1) s ∧ powered s ∧ stage s ≠ 0 ∧ (∀ k, path ≠ .partner k)) ∧
    (∃ (path : Path) (v : Word) (s : State), ownCa path R.GLOBAL_CTL_DRESET.key ∧ accepted path 0x00 0x040 (withField v
      R.GLOBAL_CTL_DRESET.lo R.GLOBAL_CTL_DRESET.w 1) s ∧ bitOf v R.GLOBAL_CTL_SOFT_RESET = false ∧ isMirror s = false ∧
      starting s = false ∧ s.dreset = false ∧ inStandby s = false) :=
  ⟨⟨sPort, by decide +kernel⟩, ⟨sPort, by decide +kernel⟩, ⟨sPort, by decide +kernel⟩,
    ⟨({ sPort with power := { State.reset.power with otOff := true } }), by decide +kernel⟩,
    ⟨({ sPort with power := { State.reset.power with held := true, cause := 2 } }), by decide +kernel⟩,
    ⟨({ sPort with power := { State.reset.power with hold := true } }), by decide +kernel⟩, ⟨(sets sPort
    [(R.GLOBAL_SCRATCH_DATA, 9)]), by decide +kernel⟩, ⟨.spi, 0, (sets sPort [(R.GLOBAL_SCRATCH_DATA, 9)]),
    by decide +kernel⟩, ⟨.spi, 0, sPort, by decide +kernel⟩⟩

theorem wit_StartUp :
    (∃ (s : State), powered s ∧ stage s = 0) ∧
    (∃ (s : State), powered s ∧ stage s = 1 ∧ getF s R.BOOT_STAT_BOOTSEL ≠ 0 ∧ getF s R.BOOT_STAT_BOOTSEL ≠ 2) ∧
    (∃ (s : State), powered s ∧ stage s = 1 ∧ (getF s R.BOOT_STAT_BOOTSEL = 0 ∨ getF s R.BOOT_STAT_BOOTSEL = 2) ∧ headerErr s
      (.slot 0) ≠ 0 ∧ headerErr s (.slot 1) ≠ 0 ∧ cutShort s = false) ∧
    (∃ (path : Path) (v : Word) (s : State), ownCa path R.BOOT_CTL_GO.key ∧ accepted path 0x03 0x040 (withField v
      R.BOOT_CTL_GO.lo R.BOOT_CTL_GO.w 1) s ∧ (stage s = 2 ∨ (stage s = 5 ∧ getF s R.BOOT_STAT_LOADED = 1)) ∧ (s.otp.authReq
      = false ∨ getF s R.BOOT_STAT_LOADED = 1)) ∧
    (∃ (path : Path) (v : Word) (s : State), ownCa path R.BOOT_CTL_GO.key ∧ accepted path 0x03 0x040 (withField v
      R.BOOT_CTL_GO.lo R.BOOT_CTL_GO.w 1) s ∧ stage s ≠ 2 ∧ stage s ≠ 5 ∧ getF s (capValid 3) = 0) ∧
    (∃ (s : State), powered s ∧ stage s = 3 ∧ retainValid s 0 = false ∧ retainValid s 1 = false) ∧
    (∃ (path : Path) (v : Word) (s : State), ownCa path R.BOOT_LOAD_DATA.key ∧ accepted path 0x03 0x05C v s ∧
      s.loadBuf.length + 4 ≤ 0x400000) ∧
    (∃ (path : Path) (v : Word) (s : State), ownCa path R.BOOT_LOAD_CTL_START.key ∧ accepted path 0x03 0x060 (withField v
      R.BOOT_LOAD_CTL_START.lo R.BOOT_LOAD_CTL_START.w 1) s ∧ bitOf v R.BOOT_LOAD_CTL_CHECK = false) ∧
    (∃ (path : Path) (v : Word) (s : State), ownCa path R.BOOT_LOAD_CTL_CHECK.key ∧ accepted path 0x03 0x060 (withField v
      R.BOOT_LOAD_CTL_CHECK.lo R.BOOT_LOAD_CTL_CHECK.w 1) s ∧ bitOf v R.BOOT_LOAD_CTL_START = false ∧ cutShort s = false ∧
      headerErr s (.buffer (s.loadBuf.map (·.toNat))) ≠ 0) ∧
    (∃ (path : Path) (v : Word) (s : State), ownCa path R.BOOT_LOAD_CTL_CHECK.key ∧ accepted path 0x03 0x060 (withField v
      R.BOOT_LOAD_CTL_CHECK.lo R.BOOT_LOAD_CTL_CHECK.w 1) s ∧ bitOf v R.BOOT_LOAD_CTL_START = false ∧ imageGood
      { s with regs := setReg s.regs R.BOOT_LOAD_CTL_CHECK.key (writeResult path s 0x03 0x060 (withField v R.BOOT_LOAD_CTL_CHECK.lo R.BOOT_LOAD_CTL_CHECK.w 1)).1 }
      (.buffer (s.loadBuf.map (·.toNat)))) ∧
    (∃ (path : Path) (v : Word) (s : State), ownCa path R.SECURE_PROG_CTL_GO.key ∧ accepted path 0x7C 0x0A0 (withField v
      R.SECURE_PROG_CTL_GO.lo R.SECURE_PROG_CTL_GO.w 1) s ∧ isService path ∧ (stage s = 2 ∨ stage s = 5) ∧ s.otp.lock = false
      ∧ v.toNat % 8 ≠ 0 ∧ (v.getLsbD 0 = false ∨ s.otp.keyValid = false)) ∧
    (∃ (path : Path) (v : Word) (s : State), ownCa path R.SECURE_PROG_CTL_GO.key ∧ accepted path 0x7C 0x0A0 (withField v
      R.SECURE_PROG_CTL_GO.lo R.SECURE_PROG_CTL_GO.w 1) s ∧ (s.otp.lock ∨ isService path = false ∨ (stage s ≠ 2 ∧ stage s ≠
      5))) :=
  ⟨⟨State.reset, by decide +kernel⟩, ⟨(sets State.reset [(R.BOOT_STAT_STAGE, 1), (R.BOOT_STAT_BOOTSEL, 1)]),
    by decide +kernel⟩, ⟨(sets State.reset [(R.BOOT_STAT_STAGE, 1)]), by decide +kernel⟩, ⟨.spi, 0, (sets State.reset
    [(R.BOOT_STAT_STAGE, 2)]), by decide +kernel⟩, ⟨.spi, 0, sRun, by decide +kernel⟩, ⟨(sets State.reset
    [(R.BOOT_STAT_STAGE, 3)]), by decide +kernel⟩, ⟨.spi, 0x12345678, sRun, by decide +kernel⟩, ⟨.spi, 0,
    ({ sRun with loadBuf := [1, 2] }), by decide +kernel⟩, ⟨.spi, 0, ({ sRun with loadBuf := [1, 2] }), by decide +kernel⟩,
    ⟨.spi, 0, ({ sets State.reset [(R.BOOT_STAT_STAGE, 2)] with loadBuf := goodImage }), by decide +kernel⟩, ⟨.spi, 6, (sets
    State.reset [(R.BOOT_STAT_STAGE, 2)]), by decide +kernel⟩, ⟨.spi, 6, sRun, by decide +kernel⟩⟩

theorem wit_Flash :
    (∃ (path : Path) (v : Word) (s : State), ownCa path R.BOOT_FLASH_CMD_GO.key ∧ accepted path 0x03 0x054 (withField
      (withField v 0 2 0) R.BOOT_FLASH_CMD_GO.lo R.BOOT_FLASH_CMD_GO.w 1) s ∧ s.flashOp = none) ∧
    (∃ (path : Path) (v : Word) (s : State), ownCa path R.BOOT_FLASH_CMD_GO.key ∧ accepted path 0x03 0x054 (withField
      (withField v 0 2 1) R.BOOT_FLASH_CMD_GO.lo R.BOOT_FLASH_CMD_GO.w 1) s ∧ s.flashOp = none ∧ flashProtected s (pageStart
      (getF s R.BOOT_FLASH_ADDR_ADDR)) 256 = false) ∧
    (∃ (path : Path) (v : Word) (s : State), ownCa path R.BOOT_FLASH_CMD_GO.key ∧ accepted path 0x03 0x054 (withField
      (withField v 0 2 1) R.BOOT_FLASH_CMD_GO.lo R.BOOT_FLASH_CMD_GO.w 1) s ∧ s.flashOp = none ∧ flashProtected s (pageStart
      (getF s R.BOOT_FLASH_ADDR_ADDR)) 256) ∧
    (∃ (path : Path) (v : Word) (s : State), ownCa path R.BOOT_FLASH_CMD_GO.key ∧ accepted path 0x03 0x054 (withField
      (withField v 0 2 2) R.BOOT_FLASH_CMD_GO.lo R.BOOT_FLASH_CMD_GO.w 1) s ∧ s.flashOp = none ∧ flashProtected s
      (sectorStart (getF s R.BOOT_FLASH_ADDR_ADDR)) 4096 = false) ∧
    (∃ (path : Path) (v : Word) (s : State), ownCa path R.BOOT_FLASH_CMD_GO.key ∧ accepted path 0x03 0x054 (withField
      (withField v 0 2 2) R.BOOT_FLASH_CMD_GO.lo R.BOOT_FLASH_CMD_GO.w 1) s ∧ s.flashOp = none ∧ flashProtected s
      (sectorStart (getF s R.BOOT_FLASH_ADDR_ADDR)) 4096) ∧
    (∃ (f : FlashOp) (i : Nat) (s : State), s.flashOp = some f ∧ f.op = 0 ∧ i < 256) ∧
    (∃ (f : FlashOp) (i : Nat) (s : State), s.flashOp = some f ∧ 2 ≤ f.op ∧ i < 4096 ∧ (s.flash.Pairwise (fun a b => a.1 <
      b.1))) ∧
    (∃ (f : FlashOp) (i : Nat) (s : State), s.flashOp = some f ∧ f.op = 1 ∧ i < 256 ∧ flashAt s (pageStart f.addr + i) =
      0xFF#8 ∧ (s.flash.Pairwise (fun a b => a.1 < b.1))) ∧
    (∃ (s : State), s.flashOp = none) :=
  ⟨⟨.spi, 0, (sets State.reset [(R.BOOT_STAT_STAGE, 2), (R.BOOT_FLASH_ADDR_ADDR, 0x801000)]), by decide +kernel⟩, ⟨.spi, 0,
    (sets State.reset [(R.BOOT_STAT_STAGE, 2), (R.BOOT_FLASH_ADDR_ADDR, 0x801000)]), by decide +kernel⟩, ⟨.spi, 0, (sets
    State.reset [(R.BOOT_STAT_STAGE, 2)]), by decide +kernel⟩, ⟨.spi, 0, (sets State.reset [(R.BOOT_STAT_STAGE, 2),
    (R.BOOT_FLASH_ADDR_ADDR, 0x801000)]), by decide +kernel⟩, ⟨.spi, 0, (sets State.reset [(R.BOOT_STAT_STAGE, 2)]),
    by decide +kernel⟩, ⟨(⟨0, 300⟩), 5, ({ sRun with flashOp := some ⟨0, 300⟩ }), by decide +kernel⟩, ⟨(⟨2, 5000⟩), 5,
    ({ sRun with flashOp := some ⟨2, 5000⟩, flash := [(4100, 7#8)] }), by decide +kernel⟩, ⟨(⟨1, 300⟩), 5,
    ({ sRun with flashOp := some ⟨1, 300⟩, pageBuf := [(5, 9#8)] }), by decide +kernel⟩, ⟨sRun, by decide +kernel⟩⟩

theorem wit_LowPowerAndPowerFail :
    (∃ (path : Path) (v : Word) (s : State), ownCa path R.POWER_CTL_REQ.key ∧ accepted path 0x02 0x040 (withField v
      R.POWER_CTL_REQ.lo R.POWER_CTL_REQ.w 0) s ∧ bitOf v R.POWER_CTL_SHUTDOWN = false ∧ inStandby s = false ∧ getF s
      R.POWER_CTL_REQ ≠ 0) ∧
    (∃ (path : Path) (v : Word) (s : State), ownCa path R.POWER_CTL_REQ.key ∧ accepted path 0x02 0x040 (withField v
      R.POWER_CTL_REQ.lo R.POWER_CTL_REQ.w 1) s ∧ bitOf v R.POWER_CTL_SHUTDOWN = false ∧ inStandby s = false ∧ getF s
      R.POWER_CTL_REQ ≠ 1) ∧
    (∃ (path : Path) (v : Word) (s : State), ownCa path R.POWER_CTL_REQ.key ∧ accepted path 0x02 0x040 (withField v
      R.POWER_CTL_REQ.lo R.POWER_CTL_REQ.w 0) s ∧ bitOf v R.POWER_CTL_SHUTDOWN = false ∧ inStandby s ∧ getF s R.POWER_CTL_REQ
      ≠ 0) ∧
    (∃ (path : Path) (p : Fin 16) (v : Word) (s : State), ownCa path R.POWER_CTL_REQ.key ∧ accepted path 0x02 0x040
      (withField v R.POWER_CTL_REQ.lo R.POWER_CTL_REQ.w 2) s ∧ bitOf v R.POWER_CTL_SHUTDOWN = false ∧ inStandby s = false ∧
      standbyOk s ∧ getF s R.POWER_CTL_REQ ≠ 2) ∧
    (∃ (path : Path) (v : Word) (s : State), ownCa path R.POWER_CTL_REQ.key ∧ accepted path 0x02 0x040 (withField v
      R.POWER_CTL_REQ.lo R.POWER_CTL_REQ.w 0) s ∧ bitOf v R.POWER_CTL_SHUTDOWN = false ∧ getF s R.POWER_CTL_REQ = 0) ∧
    (∃ (path : Path) (v : Word) (s : State), ownCa path R.POWER_CTL_REQ.key ∧ accepted path 0x02 0x040 (withField v
      R.POWER_CTL_REQ.lo R.POWER_CTL_REQ.w 1) s ∧ bitOf v R.POWER_CTL_SHUTDOWN = false ∧ getF s R.POWER_CTL_REQ = 1) ∧
    (∃ (path : Path) (v : Word) (s : State), ownCa path R.POWER_CTL_REQ.key ∧ accepted path 0x02 0x040 (withField v
      R.POWER_CTL_REQ.lo R.POWER_CTL_REQ.w 2) s ∧ bitOf v R.POWER_CTL_SHUTDOWN = false ∧ getF s R.POWER_CTL_REQ = 2) ∧
    (∃ (p : Fin 16) (s : State), inStandby s ∧ getF s R.POWER_CTL_LANE_WAKE = 1) ∧
    (∃ (s : State), s.power.exiting ∧ inStandby s) ∧
    (∃ (s : State), (getF s R.POWER_PF_CTL_CMP_EN = 1 ∨ (getF s R.POWER_PF_CTL_PFI_EN = 1 ∧ landsOff s = false)) ∧ powered s
      ∧ s.power.save = false ∧ stage s = 4 ∧ getF s R.POWER_RET_STAT_ARMED = 1 ∧ getF s R.POWER_RET_CTL_EN = 1) ∧
    (∃ (s : State), (getF s R.POWER_PF_CTL_CMP_EN = 1 ∨ (getF s R.POWER_PF_CTL_PFI_EN = 1 ∧ landsOff s = false)) ∧ powered s
      ∧ s.power.save = false ∧ (stage s ≠ 4 ∨ getF s R.POWER_RET_STAT_ARMED ≠ 1 ∨ getF s R.POWER_RET_CTL_EN ≠ 1)) ∧
    (∃ (path : Path) (v : Word) (s : State), ownCa path R.POWER_CTL_SHUTDOWN.key ∧ accepted path 0x02 0x040 (withField v
      R.POWER_CTL_SHUTDOWN.lo 1 1) s ∧ fieldOf v 0 2 = getF s R.POWER_STAT_STATE ∧ fieldOf v 0 2 < 2 ∧ powered s ∧
      s.power.save = false ∧ stage s = 4 ∧ getF s R.POWER_RET_STAT_ARMED = 1 ∧ getF s R.POWER_RET_CTL_EN = 1) ∧
    (∃ (path : Path) (v : Word) (s : State), ownCa path R.POWER_CTL_SHUTDOWN.key ∧ accepted path 0x02 0x040 (withField v
      R.POWER_CTL_SHUTDOWN.lo 1 1) s ∧ fieldOf v 0 2 = getF s R.POWER_STAT_STATE ∧ fieldOf v 0 2 < 2 ∧ powered s ∧
      s.power.save = false ∧ (stage s ≠ 4 ∨ getF s R.POWER_RET_STAT_ARMED ≠ 1 ∨ getF s R.POWER_RET_CTL_EN ≠ 1) ∧ (∀ k, path ≠
      .partner k)) ∧
    (∃ (s : State), s.power.save) ∧
    (∃ (b i : Nat) (s : State), s.power.eraseBuf = some b ∧ b < 2 ∧ i < 0x40000 ∧ (s.flash.Pairwise (fun a b => a.1 < b.1))) :=
  ⟨⟨.spi, 0, (sets sPort [(R.POWER_CTL_REQ, 1)]), by decide +kernel⟩, ⟨.spi, 0, (sets sPort [(R.POWER_CTL_REQ, 0)]),
    by decide +kernel⟩, ⟨.spi, 0,
    ({ sets sPort [(R.POWER_STAT_STATE, 2), (R.POWER_CTL_REQ, 2), (R.POWER_CTL_LANE_WAKE, 1)] with power := { State.reset.power with exiting := false } }),
    by decide +kernel⟩, ⟨.spi, 3, 0, sRun, by decide +kernel⟩, ⟨.spi, 0, (sets sPort [(R.POWER_CTL_REQ, 0),
    (R.POWER_STAT_STATE, 2)]), by decide +kernel⟩, ⟨.spi, 0, (sets sPort [(R.POWER_CTL_REQ, 1), (R.POWER_STAT_STATE, 2)]),
    by decide +kernel⟩, ⟨.spi, 0, (sets sPort [(R.POWER_CTL_REQ, 2), (R.POWER_STAT_STATE, 2)]), by decide +kernel⟩, ⟨3,
    ({ sets sPort [(R.POWER_STAT_STATE, 2), (R.POWER_CTL_REQ, 2), (R.POWER_CTL_LANE_WAKE, 1)] with power := { State.reset.power with exiting := false } }),
    by decide +kernel⟩,
    ⟨({ sets sPort [(R.POWER_STAT_STATE, 2), (R.POWER_CTL_REQ, 2), (R.POWER_CTL_LANE_WAKE, 1)] with power := { State.reset.power with exiting := true } }),
    by decide +kernel⟩, ⟨(sets sPort [(R.POWER_RET_STAT_ARMED, 1), (R.POWER_RET_CTL_EN, 1), (R.POWER_PF_CTL_CMP_EN, 1)]),
    by decide +kernel⟩, ⟨(sets sPort [(R.POWER_PF_CTL_CMP_EN, 1)]), by decide +kernel⟩, ⟨.spi, 0, (sets sPort
    [(R.POWER_RET_STAT_ARMED, 1), (R.POWER_RET_CTL_EN, 1), (R.POWER_PF_CTL_CMP_EN, 1)]), by decide +kernel⟩, ⟨.spi, 0, (sets
    sPort [(R.POWER_PF_CTL_CMP_EN, 1)]), by decide +kernel⟩,
    ⟨({ sPort with power := { State.reset.power with save := true } }), by decide +kernel⟩, ⟨1, 5,
    ({ sRun with power := { State.reset.power with eraseBuf := some 1 } }), by decide +kernel⟩⟩

theorem wit_CoherentOperationsOnAnIdleLine :
    (∃ (q : Nat) (r : Req) (p : Fin 16) (s : State), isRunning s ∧ s.ebuf.length < 32 ∧ discards s = false ∧ nextGrant s =
      some q ∧ offer s q = some r ∧ needsSearch s (slotIx (curLoc s r.line)) = false ∧ r.src = .port p.val ∧ r.gone = false ∧
      r.agent < 32 ∧ r.line < 2 ^ 24 ∧ s.dir = [] ∧ s.flows = [] ∧ s.chain = [] ∧ s.recov = none ∧ s.recovWait = [] ∧
      s.inject = [] ∧ s.locks = [] ∧ s.fv.commit = none ∧ s.fv.release = none ∧ r.op = .rdS ∧ r.flag = false ∧ eligible s r =
      false) ∧
    (∃ (q : Nat) (r : Req) (p : Fin 16) (s : State), isRunning s ∧ s.ebuf.length < 32 ∧ discards s = false ∧ nextGrant s =
      some q ∧ offer s q = some r ∧ needsSearch s (slotIx (curLoc s r.line)) = false ∧ r.src = .port p.val ∧ r.gone = false ∧
      r.agent < 32 ∧ r.line < 2 ^ 24 ∧ s.dir = [] ∧ s.flows = [] ∧ s.chain = [] ∧ s.recov = none ∧ s.recovWait = [] ∧
      s.inject = [] ∧ s.locks = [] ∧ s.fv.commit = none ∧ s.fv.release = none ∧ r.op = .rdS ∧ r.flag ∧ fvRegion s r.line =
      none) ∧
    (∃ (q : Nat) (r : Req) (p : Fin 16) (s : State), isRunning s ∧ s.ebuf.length < 32 ∧ discards s = false ∧ nextGrant s =
      some q ∧ offer s q = some r ∧ needsSearch s (slotIx (curLoc s r.line)) = false ∧ r.src = .port p.val ∧ r.gone = false ∧
      r.agent < 32 ∧ r.line < 2 ^ 24 ∧ s.dir = [] ∧ s.flows = [] ∧ s.chain = [] ∧ s.recov = none ∧ s.recovWait = [] ∧
      s.inject = [] ∧ s.locks = [] ∧ s.fv.commit = none ∧ s.fv.release = none ∧ r.op = .rdU) ∧
    (∃ (q : Nat) (r : Req) (p : Fin 16) (s : State), isRunning s ∧ s.ebuf.length < 32 ∧ discards s = false ∧ nextGrant s =
      some q ∧ offer s q = some r ∧ needsSearch s (slotIx (curLoc s r.line)) = false ∧ r.src = .port p.val ∧ r.gone = false ∧
      r.agent < 32 ∧ r.line < 2 ^ 24 ∧ s.dir = [] ∧ s.flows = [] ∧ s.chain = [] ∧ s.recov = none ∧ s.recovWait = [] ∧
      s.inject = [] ∧ s.locks = [] ∧ s.fv.commit = none ∧ s.fv.release = none ∧ r.op = .upg) ∧
    (∃ (q : Nat) (r : Req) (p : Fin 16) (s : State), isRunning s ∧ s.ebuf.length < 32 ∧ discards s = false ∧ nextGrant s =
      some q ∧ offer s q = some r ∧ needsSearch s (slotIx (curLoc s r.line)) = false ∧ r.src = .port p.val ∧ r.gone = false ∧
      r.agent < 32 ∧ r.line < 2 ^ 24 ∧ s.dir = [] ∧ s.flows = [] ∧ s.chain = [] ∧ s.recov = none ∧ s.recovWait = [] ∧
      s.inject = [] ∧ s.locks = [] ∧ s.fv.commit = none ∧ s.fv.release = none ∧ r.op = .rdOnce) ∧
    (∃ (q : Nat) (r : Req) (p : Fin 16) (s : State), isRunning s ∧ s.ebuf.length < 32 ∧ discards s = false ∧ nextGrant s =
      some q ∧ offer s q = some r ∧ needsSearch s (slotIx (curLoc s r.line)) = false ∧ r.src = .port p.val ∧ r.gone = false ∧
      r.agent < 32 ∧ r.line < 2 ^ 24 ∧ s.dir = [] ∧ s.flows = [] ∧ s.chain = [] ∧ s.recov = none ∧ s.recovWait = [] ∧
      s.inject = [] ∧ s.locks = [] ∧ s.fv.commit = none ∧ s.fv.release = none ∧ r.op = .wrFull ∧ fvRegion s r.line = none) ∧
    (∃ (q : Nat) (r : Req) (p : Fin 16) (s : State), isRunning s ∧ s.ebuf.length < 32 ∧ discards s = false ∧ nextGrant s =
      some q ∧ offer s q = some r ∧ needsSearch s (slotIx (curLoc s r.line)) = false ∧ r.src = .port p.val ∧ r.gone = false ∧
      r.agent < 32 ∧ r.line < 2 ^ 24 ∧ s.dir = [] ∧ s.flows = [] ∧ s.chain = [] ∧ s.recov = none ∧ s.recovWait = [] ∧
      s.inject = [] ∧ s.locks = [] ∧ s.fv.commit = none ∧ s.fv.release = none ∧ r.op = .wrPartial ∧ fvRegion s r.line = none) ∧
    (∃ (q : Nat) (r : Req) (p : Fin 16) (s : State), isRunning s ∧ s.ebuf.length < 32 ∧ discards s = false ∧ nextGrant s =
      some q ∧ offer s q = some r ∧ needsSearch s (slotIx (curLoc s r.line)) = false ∧ r.src = .port p.val ∧ r.gone = false ∧
      r.agent < 32 ∧ r.line < 2 ^ 24 ∧ s.dir = [] ∧ s.flows = [] ∧ s.chain = [] ∧ s.recov = none ∧ s.recovWait = [] ∧
      s.inject = [] ∧ s.locks = [] ∧ s.fv.commit = none ∧ s.fv.release = none ∧ r.op = .fetchAdd ∧ fvRegion s r.line = none) ∧
    (∃ (q : Nat) (r : Req) (p : Fin 16) (s : State), isRunning s ∧ s.ebuf.length < 32 ∧ discards s = false ∧ nextGrant s =
      some q ∧ offer s q = some r ∧ needsSearch s (slotIx (curLoc s r.line)) = false ∧ r.src = .port p.val ∧ r.gone = false ∧
      r.agent < 32 ∧ r.line < 2 ^ 24 ∧ s.dir = [] ∧ s.flows = [] ∧ s.chain = [] ∧ s.recov = none ∧ s.recovWait = [] ∧
      s.inject = [] ∧ s.locks = [] ∧ s.fv.commit = none ∧ s.fv.release = none ∧ r.op = .swap ∧ fvRegion s r.line = none) ∧
    (∃ (q : Nat) (r : Req) (p : Fin 16) (s : State), isRunning s ∧ s.ebuf.length < 32 ∧ discards s = false ∧ nextGrant s =
      some q ∧ offer s q = some r ∧ needsSearch s (slotIx (curLoc s r.line)) = false ∧ r.src = .port p.val ∧ r.gone = false ∧
      r.agent < 32 ∧ r.line < 2 ^ 24 ∧ s.dir = [] ∧ s.flows = [] ∧ s.chain = [] ∧ s.recov = none ∧ s.recovWait = [] ∧
      s.inject = [] ∧ s.locks = [] ∧ s.fv.commit = none ∧ s.fv.release = none ∧ r.op = .lkRd ∧ r.flag = false ∧ fvRegion s
      r.line = none ∧ 0 < getF s R.DIR_CTL_LOCK_WAYS ∧ 0 < getF s (R.TENANT_LOCK_LIM_MAX r.tenant)) ∧
    (∃ (q : Nat) (r : Req) (p : Fin 16) (s : State), isRunning s ∧ s.ebuf.length < 32 ∧ discards s = false ∧ nextGrant s =
      some q ∧ offer s q = some r ∧ needsSearch s (slotIx (curLoc s r.line)) = false ∧ r.src = .port p.val ∧ r.gone = false ∧
      r.agent < 32 ∧ r.line < 2 ^ 24 ∧ s.dir = [] ∧ s.flows = [] ∧ s.chain = [] ∧ s.recov = none ∧ s.recovWait = [] ∧
      s.inject = [] ∧ s.locks = [] ∧ s.fv.commit = none ∧ s.fv.release = none ∧ r.op = .ulWr) ∧
    (∃ (q : Nat) (r : Req) (p : Fin 16) (s : State), isRunning s ∧ s.ebuf.length < 32 ∧ discards s = false ∧ nextGrant s =
      some q ∧ offer s q = some r ∧ needsSearch s (slotIx (curLoc s r.line)) = false ∧ r.src = .port p.val ∧ r.gone = false ∧
      r.agent < 32 ∧ r.line < 2 ^ 24 ∧ s.dir = [] ∧ s.flows = [] ∧ s.chain = [] ∧ s.recov = none ∧ s.recovWait = [] ∧
      s.inject = [] ∧ s.locks = [] ∧ s.fv.commit = none ∧ s.fv.release = none ∧ r.op = .wrBack ∧ lstate s p.val = 4 ∧
      s.trackers = []) :=
  ⟨⟨0, ({ rq .rdS 64 with data := [Quad.zero, Quad.zero, Quad.zero, Quad.zero] }), 0,
    ({ sPort with arb := { State.reset.arb with waiting := [{ rq .rdS 64 with data := [Quad.zero, Quad.zero, Quad.zero, Quad.zero] }] } }),
    by decide +kernel⟩, ⟨0, ({ rq .rdS 64 with data := [Quad.zero, Quad.zero, Quad.zero, Quad.zero], flag := true }), 0,
    ({ sPort with arb := { State.reset.arb with waiting := [{ rq .rdS 64 with data := [Quad.zero, Quad.zero, Quad.zero, Quad.zero], flag := true }] } }),
    by decide +kernel⟩, ⟨0, ({ rq .rdU 64 with data := [Quad.zero, Quad.zero, Quad.zero, Quad.zero] }), 0,
    ({ sPort with arb := { State.reset.arb with waiting := [{ rq .rdU 64 with data := [Quad.zero, Quad.zero, Quad.zero, Quad.zero] }] } }),
    by decide +kernel⟩, ⟨0, ({ rq .upg 64 with data := [Quad.zero, Quad.zero, Quad.zero, Quad.zero] }), 0,
    ({ sPort with arb := { State.reset.arb with waiting := [{ rq .upg 64 with data := [Quad.zero, Quad.zero, Quad.zero, Quad.zero] }] } }),
    by decide +kernel⟩, ⟨0, ({ rq .rdOnce 64 with data := [Quad.zero, Quad.zero, Quad.zero, Quad.zero] }), 0,
    ({ sPort with arb := { State.reset.arb with waiting := [{ rq .rdOnce 64 with data := [Quad.zero, Quad.zero, Quad.zero, Quad.zero] }] } }),
    by decide +kernel⟩, ⟨0, ({ rq .wrFull 64 with data := [Quad.zero, Quad.zero, Quad.zero, Quad.zero] }), 0,
    ({ sPort with arb := { State.reset.arb with waiting := [{ rq .wrFull 64 with data := [Quad.zero, Quad.zero, Quad.zero, Quad.zero] }] } }),
    by decide +kernel⟩, ⟨0, ({ rq .wrPartial 64 with data := [Quad.zero, Quad.zero, Quad.zero, Quad.zero] }), 0,
    ({ sPort with arb := { State.reset.arb with waiting := [{ rq .wrPartial 64 with data := [Quad.zero, Quad.zero, Quad.zero, Quad.zero] }] } }),
    by decide +kernel⟩, ⟨0, ({ rq .fetchAdd 64 with data := [Quad.zero, Quad.zero, Quad.zero, Quad.zero] }), 0,
    ({ sPort with arb := { State.reset.arb with waiting := [{ rq .fetchAdd 64 with data := [Quad.zero, Quad.zero, Quad.zero, Quad.zero] }] } }),
    by decide +kernel⟩, ⟨0, ({ rq .swap 64 with data := [Quad.zero, Quad.zero, Quad.zero, Quad.zero] }), 0,
    ({ sPort with arb := { State.reset.arb with waiting := [{ rq .swap 64 with data := [Quad.zero, Quad.zero, Quad.zero, Quad.zero] }] } }),
    by decide +kernel⟩, ⟨0, ({ rq .lkRd 64 with data := [Quad.zero, Quad.zero, Quad.zero, Quad.zero] }), 0,
    ({ sPort with arb := { State.reset.arb with waiting := [{ rq .lkRd 64 with data := [Quad.zero, Quad.zero, Quad.zero, Quad.zero] }] } }),
    by decide +kernel⟩, ⟨0, ({ rq .ulWr 64 with data := [Quad.zero, Quad.zero, Quad.zero, Quad.zero] }), 0,
    ({ sPort with arb := { State.reset.arb with waiting := [{ rq .ulWr 64 with data := [Quad.zero, Quad.zero, Quad.zero, Quad.zero] }] } }),
    by decide +kernel⟩, ⟨0, ({ rq .wrBack 64 with data := [Quad.zero, Quad.zero, Quad.zero, Quad.zero] }), 0,
    ({ sPort with arb := { State.reset.arb with waiting := [{ rq .wrBack 64 with data := [Quad.zero, Quad.zero, Quad.zero, Quad.zero] }] } }),
    by decide +kernel⟩⟩

theorem wit_EmptyOffsetsAndPages :
    (∃ (path : Path) (ca : BitVec 24) (v : Word) (s : State), ownCa path ca.toNat ∧ served path (caPage ca.toNat) s ∧
      aliasPage s (caPage ca.toNat) = false ∧ pageInfo (caPage ca.toNat) ≠ none ∧ ((0x040 ≤ caOff ca.toNat ∧ rowsAt (caPage
      ca.toNat) (caOff ca.toNat) = []) ∨ caOff ca.toNat = 0x00C ∨ (0x030 ≤ caOff ca.toNat ∧ caOff ca.toNat < 0x040))) ∧
    (∃ (path : Path) (ca : BitVec 24) (s : State), ownCa path ca.toNat ∧ reads path s ∧ pathNo path < 19 ∧ aliasPage s
      (caPage ca.toNat) = false ∧ pageInfo (caPage ca.toNat) ≠ none ∧ ((0x040 ≤ caOff ca.toNat ∧ rowsAt (caPage ca.toNat)
      (caOff ca.toNat) = []) ∨ caOff ca.toNat = 0x00C ∨ (0x030 ≤ caOff ca.toNat ∧ caOff ca.toNat < 0x040))) ∧
    (∃ (k : Fin 18) (ca : BitVec 24) (s : State), reads (.partner k) s ∧ aliasPage s (caPage ca.toNat) = false ∧ pageInfo
      (caPage ca.toNat) ≠ none ∧ ((0x040 ≤ caOff ca.toNat ∧ rowsAt (caPage ca.toNat) (caOff ca.toNat) = []) ∨ caOff ca.toNat
      = 0x00C ∨ (0x030 ≤ caOff ca.toNat ∧ caOff ca.toNat < 0x040))) ∧
    (∃ (path : Path) (ca : BitVec 24) (v : Word) (s : State), ownCa path ca.toNat ∧ served path (caPage ca.toNat) s ∧
      aliasPage s (caPage ca.toNat) = false ∧ pageInfo (caPage ca.toNat) = none) ∧
    (∃ (path : Path) (ca : BitVec 24) (s : State), ownCa path ca.toNat ∧ reads path s ∧ pathNo path < 19 ∧ aliasPage s
      (caPage ca.toNat) = false ∧ pageInfo (caPage ca.toNat) = none) ∧
    (∃ (k : Fin 18) (ca : BitVec 24) (s : State), reads (.partner k) s ∧ aliasPage s (caPage ca.toNat) = false ∧ pageInfo
      (caPage ca.toNat) = none) ∧
    (∃ (path : Path) (ca : BitVec 24) (v : Word) (s : State), 0x200000 ≤ ca.toNat ∧ (∀ k, path ≠ .partner k) ∧ pathOk path s) ∧
    (∃ (path : Path) (ca : BitVec 24) (s : State), 0x200000 ≤ ca.toNat ∧ (∀ k, path ≠ .partner k) ∧ pathOk path s) ∧
    (∃ (addr : BitVec 24) (count : BitVec 8) (remote : List Word) (s : State), 0x200000 ≤ addr.toNat ∧ addr.toNat % 4 = 0 ∧
      pathOk .spi s ∧ count.toNat % 4 = 0) :=
  ⟨⟨.spi, 0x028FF0#24, 7, sRun, by decide +kernel⟩, ⟨.spi, 0x028FF0#24, sRun, by decide +kernel⟩, ⟨3, 0x028FF0#24, sPair,
    by decide +kernel⟩, ⟨.spi, 0x085880#24, 7, sRun, by decide +kernel⟩, ⟨.spi, 0x085880#24, sRun, by decide +kernel⟩, ⟨3,
    0x085880#24, sPair, by decide +kernel⟩, ⟨.spi, 0x229044#24, 7, sRun, by decide +kernel⟩, ⟨.spi, 0x229044#24, sRun,
    by decide +kernel⟩, ⟨0x229044#24, 0, [], sRun, by decide +kernel⟩⟩

theorem wit_InterruptEnableActsOnPendingAlone :
    ∃ (path : Path) (page : Fin 256) (v : Word) (s : State), ownCa path (regKey page.val 0x014) ∧ (pageInfo page.val).isSome
      ∧ bareHeader page.val = false ∧ served path page.val s :=
  ⟨.spi, 0x20, 3, (raised 0x20 1 sRun), by decide +kernel⟩

theorem wit_HomeHubOfALine :
    ∃ (s : State) (ha : Nat), pairOn s :=
  ⟨sPair, 64, by decide +kernel⟩

theorem wit_LaneCoding :
    (∃ (o : Octet), o ∈ octets) ∧
    (∃ (hdr payload : Nat), hdr < 2 ^ 16 ∧ payload < 2 ^ 128) ∧
    (∃ (payload : Nat), payload < 2 ^ 128) ∧
    (∃ (g : BitVec 10), (∀ d, decodeGroup d g = none)) ∧
    (∃ (n : Nat) (os : List Out), n ≤ 1024 ∧ (∀ o ∈ os, outFlits o ≤ 1024)) :=
  ⟨⟨comma, by decide +kernel⟩, ⟨0xFFFF, 2 ^ 128 - 1, by decide +kernel⟩, ⟨2 ^ 128 - 1, by decide +kernel⟩, ⟨0#10,
    by decide +kernel⟩, ⟨1024, [.ctl .pair .retrain], by decide +kernel⟩⟩

end Sys2Proof.Tests
end

section
/-! SUPPORT. Actions as functions of the state, and the frames of a configuration access: what sending to the partner and
writing registers can change. -/

namespace Sys2Proof.Machine

variable {α β : Type}

/-! ### Running an action -/

@[simp] theorem run_pure (a : α) (s : State) : (pure a : M α) s = (a, s) := rfl
@[simp] theorem run_bind (m : M α) (f : α → M β) (s : State) : (m >>= f) s = f (m s).1 (m s).2 := rfl
@[simp] theorem run_get_bind (f : State → M β) (s : State) : ((get : M State) >>= f) s = f s s := rfl
theorem run_rdB_bind (g : Fld) (f : Bool → M β) (s : State) : (rdB g >>= f) s = f (getF s g != 0) s := rfl
@[simp] theorem run_get (s : State) : (get : M State) s = (s, s) := rfl
@[simp] theorem run_map (f : α → β) (m : M α) (s : State) : (f <$> m) s = (f (m s).1, (m s).2) := rfl
theorem run_onlyIf (c : Bool) (m : M Unit) (s : State) : onlyIf c m s = if c then m s else ((), s) := by
  cases c <;> rfl
@[simp] theorem run_modify (f : State → State) (s : State) : (modify f : M Unit) s = ((), f s) := rfl
@[simp] theorem run_ite (c : Prop) [Decidable c] (a b : M α) (s : State) :
    (if c then a else b) s = if c then a s else b s := by split <;> rfl

/-! ### The frame of sending -/

/-- What a message to the partner or an answer to a path of this hub changes: the partner's queue and the outputs. -/
def sendFrame : Keeps where
  rel s t := t = { s with pair := t.pair, outs := t.outs }
  refl _ := rfl
  trans a b c h k := by
    rw [h] at k
    exact k

theorem sendFrame_regs {s t : State} (h : sendFrame.rel s t) : t.regs = s.regs := by rw [h]
theorem sendFrame_pathSt {s t : State} (h : sendFrame.rel s t) (pn : Nat) : pathSt t pn = pathSt s pn := by rw [h]; rfl
theorem sendFrame_dataKept {s t : State} (h : sendFrame.rel s t) : DataKept s t := by
  rw [h]; exact ⟨rfl, rfl, rfl, rfl, rfl, rfl⟩

theorem sendFrame_emit (o : Out) : Within sendFrame (emit o) := fun _ => rfl

theorem sendFrame_setPair (f : PairSt → PairSt) : Within sendFrame (setPair f) := fun _ => rfl

theorem sendFrame_sendFlits (os : List Out) : Within sendFrame (sendFlits .pair os) := fun _ => rfl

theorem sendFrame_pumpPairList (l : List PairMsg) : ∀ b, Within sendFrame (pumpPairList l b) := by
  induction l with
  | nil => exact fun _ => Within.pure _ _
  | cons m t ih =>
    intro b
    refine Within.bind (Within.get _) fun s => Within.ite ?_ ?_
    · exact Within.bind (sendFrame_setPair _) fun _ => Within.bind (sendFrame_sendFlits _) fun _ => ih _
    · exact Within.bind (sendFrame_setPair _) fun _ => ih _

theorem sendFrame_sendPair (m : PairMsg) : Within sendFrame (sendPair m) :=
  Within.bind (sendFrame_setPair _) fun _ => Within.bind (Within.get _) fun _ =>
    Within.bind (sendFrame_setPair _) fun _ => sendFrame_pumpPairList _ _

theorem sendFrame_toPartner (m : PairMsg) : Within sendFrame (toPartner m) :=
  Within.bind (Within.get _) fun _ => Within.ite (sendFrame_sendPair m) (Within.pure _ _)

/-! ### The frame of a configuration access -/

theorem regsKept_trans {ks : List Nat} {a b c : State} (h : RegsKept ks a b) (k : RegsKept ks b c) : RegsKept ks a c :=
  fun i hi => (k i hi).trans (h i hi)

theorem dataKept_trans {a b c : State} (h : DataKept a b) (k : DataKept b c) : DataKept a c := by
  obtain ⟨h1, h2, h3, h4, h5, h6⟩ := h
  obtain ⟨k1, k2, k3, k4, k5, k6⟩ := k
  exact ⟨k1.trans h1, k2.trans h2, k3.trans h3, k4.trans h4, k5.trans h5, k6.trans h6⟩

/-- What a configuration access with no action of its own changes: the registers of the keys, the partner's queue and the
outputs, the service ports' status, the free counter and, for SCRUB, the revisit list. -/
def cfgFrame (ks : List Nat) : Keeps where
  rel s t := t = { s with regs := t.regs, pair := t.pair, outs := t.outs, svc := t.svc, free := t.free, weevil := t.weevil } ∧
    RegsKept ks s t
  refl s := ⟨rfl, fun _ _ => rfl⟩
  trans a b c h k := by
    obtain ⟨h, hr⟩ := h
    obtain ⟨k, kr⟩ := k
    rw [h] at k
    exact ⟨k, regsKept_trans hr kr⟩

theorem cfgFrame_mono {ks js : List Nat} (hs : ks ⊆ js) {s t : State} (h : (cfgFrame ks).rel s t) : (cfgFrame js).rel s t :=
  ⟨h.1, fun k hk => h.2 k fun m => hk (hs m)⟩

theorem cfgFrame_dataKept {ks : List Nat} {s t : State} (h : (cfgFrame ks).rel s t) : DataKept s t := by
  rw [h.1]; exact ⟨rfl, rfl, rfl, rfl, rfl, rfl⟩

theorem cfgFrame_tick {ks : List Nat} {s t : State} (h : (cfgFrame ks).rel s t) : t.tick = s.tick := by rw [h.1]
theorem cfgFrame_active {ks : List Nat} {s t : State} (h : (cfgFrame ks).rel s t) : t.active = s.active := by rw [h.1]
theorem cfgFrame_pathSt {ks : List Nat} {s t : State} (h : (cfgFrame ks).rel s t) (pn : Nat) : pathSt t pn = pathSt s pn := by
  rw [h.1]; rfl

/-- A field whose register is not among the keys. -/
theorem regsKept_getF {ks : List Nat} {s t : State} (h : RegsKept ks s t) (f : Fld) (hf : f.key ∉ ks) :
    getF t f = getF s f := by
  unfold getF
  rw [h _ hf]

variable {ks : List Nat}

theorem cfgFrame_setReg (s : State) (k : Nat) (v : Word) (h : k ∈ ks) :
    (cfgFrame ks).rel s { s with regs := setReg s.regs k v } :=
  ⟨rfl, fun _ hj => getReg_setReg_ne _ _ fun e => hj (e ▸ h)⟩

theorem cfgFrame_wrReg (p o : Nat) (v : Word) (h : regKey p o ∈ ks) : Within (cfgFrame ks) (wrReg p o v) :=
  fun s => cfgFrame_setReg s _ v h

theorem cfgFrame_wrF (f : Fld) (v : Nat) (h : f.key ∈ ks) : Within (cfgFrame ks) (wrF f v) :=
  fun s => cfgFrame_setReg s _ _ h

theorem cfgFrame_incF (f : Fld) (h : f.key ∈ ks) : Within (cfgFrame ks) (incF f) :=
  fun s => cfgFrame_setReg s _ _ h

theorem cfgFrame_of_send {s t : State} (h : sendFrame.rel s t) : (cfgFrame ks).rel s t :=
  ⟨by rw [h], fun k _ => by rw [sendFrame_regs h]⟩

theorem cfgFrame_drawWord : Within (cfgFrame ks) drawWord := fun _ => ⟨rfl, fun _ _ => rfl⟩

/-- The mirror record of a register shows in PAIR.MIRROR_PEND alone. -/
theorem cfgFrame_mirrorWrite (key : Nat) (v : Word) (h : R.PAIR_MIRROR_PEND_N.key ∈ ks) :
    Within (cfgFrame ks) (mirrorWrite key v) := by
  have shown : Within (cfgFrame ks) showMirrorPend :=
    Within.bind (Within.get _) fun _ => Within.ite (cfgFrame_wrF _ _ h)
      (Within.bind cfgFrame_drawWord fun _ => cfgFrame_wrF _ _ h)
  have noted : ∀ f, Within (cfgFrame ks) (setPair f) := fun f s => cfgFrame_of_send (sendFrame_setPair f s)
  have sent : ∀ m, Within (cfgFrame ks) (sendPair m) := fun m s => cfgFrame_of_send (sendFrame_sendPair m s)
  exact Within.bind (Within.get _) fun _ => Within.ite
    (Within.bind (noted _) fun _ => Within.bind shown fun _ => sent _) (Within.pure _ _)

/-- The path's own status is REFUSED in GLOBAL.SVC_STAT and the STATUS byte of SPI. -/
theorem cfgFrame_showRefused (path : Path) (r : Bool) (h : R.GLOBAL_SVC_STAT_REFUSED.key ∈ ks) :
    Within (cfgFrame ks) (showRefused path r) :=
  Within.bind (Within.get _) fun _ => Within.ite
    (Within.bind (cfgFrame_wrF _ _ h) fun _ => Within.onlyIf fun _ => ⟨rfl, fun _ _ => rfl⟩) (Within.pure _ _)

end Sys2Proof.Machine
end

section
/-! SUPPORT. Where a configuration access runs (17 R766-R769): on a path of this hub, or for the partner over the pair
link, to which its answer is handed. -/

namespace Sys2Proof.Machine

/-! ### Where a configuration access runs -/

theorem takePairFlits_run (c n : Nat) (s : State) : ∃ p : PairSt, takePairFlits c n s =
      (decide (kvGet (fun _ => 0) s.pair.link.rxCount c + n - kvGet (fun _ => 0) s.pair.link.rxReported c ≤
        pairAdvertised.getD c 0), { s with pair := p }) ∧
    p.link.rxReported = s.pair.link.rxReported ∧
    ∀ d, d ≠ c → kvGet (fun _ => 0) p.link.rxCount d = kvGet (fun _ => 0) s.pair.link.rxCount d :=
  ⟨_, rfl, rfl, fun _ hd => kvGet_kvSet_ne _ _ _ hd⟩

/-- A message of the partner for which there is room is served in the state with its flits noted on the pair link. -/
theorem ran_fromPair {s : State} {n : Nat} (h : pairRoom s 5 n = true) :
    ∃ p : PairSt, ∀ m : M Unit, ran (fromPair 5 n m) s = ran m { s with pair := p } := by
  simp only [pairRoom, Bool.and_eq_true, beq_iff_eq, decide_eq_true_eq] at h
  obtain ⟨⟨hl, h5⟩, h3⟩ := h
  obtain ⟨p, hp, hrep, hcnt⟩ := takePairFlits_run 5 1 s
  obtain ⟨q, hq, -⟩ := takePairFlits_run 3 n { s with pair := p }
  refine ⟨q, fun m => ?_⟩
  have room3 : kvGet (fun _ => 0) p.link.rxCount 3 + n - kvGet (fun _ => 0) p.link.rxReported 3 ≤ pairAdvertised.getD 3 0 := by
    rw [hrep, hcnt 3 (by decide)]
    simpa using h3
  simp only [ran, fromPair, run_bind, run_get, run_ite, hl, if_true, hp, hq, decide_eq_true h5, decide_eq_true room3,
    Bool.and_self]

theorem ne_partner_of_pathNo {path : Path} (h : pathNo path < 19) : ∀ k, path ≠ .partner k := by
  rintro k rfl
  simp only [pathNo] at h
  omega

/-! ### Paths of this hub -/

theorem ownCa_own {path : Path} (hp : ∀ k, path ≠ .partner k) (ca : Nat) :
    ownCa path ca = (decide (ca < 0x200000) && caHub ca == 0 && (!isService path || ca % 4 == 0)) := by
  cases path with
  | partner k => exact absurd rfl (hp k)
  | _ => rfl

theorem served_own {path : Path} (hp : ∀ k, path ≠ .partner k) (page : Nat) (s : State) :
    served path page s = (pathOk path s && !authGated s path page) := by
  cases path with
  | partner k => exact absurd rfl (hp k)
  | _ => rfl

theorem reads_own {path : Path} (hp : ∀ k, path ≠ .partner k) (s : State) : reads path s = pathOk path s := by
  cases path with
  | partner k => exact absurd rfl (hp k)
  | _ => rfl

/-- A path that may write a page now meets no AUTH_REQ there (16 R731). -/
theorem served_ungated {path : Path} {page : Nat} {s : State} (h : served path page s = true) :
    authGated s path page = false := by
  cases path with
  | partner k => rfl
  | _ => simpa using (Bool.and_eq_true_iff.1 h).2

theorem ran_cfgWriteBy_own {path : Path} {s : State} (hp : ∀ k, path ≠ .partner k) (ok : pathOk path s = true) (ca : Nat)
    (v : Word) : ran (cfgWriteBy path ca v) s = ran (accessWrite path ca v) s := by
  cases path with
  | partner k => exact absurd rfl (hp k)
  | _ => simp only [cfgWriteBy, ran, run_bind, run_get, run_ite, ok, if_true, run_pure]

theorem ran_cfgReadBy_own {path : Path} {s : State} (hp : ∀ k, path ≠ .partner k) (ok : pathOk path s = true) (ca : Nat) :
    ran (cfgReadBy path ca) s = ran (emit (.word (pathNo path) (cfgRead (pathNo path) ca none s).1))
      (ran (cfgRead (pathNo path) ca none) s) := by
  cases path with
  | partner k => exact absurd rfl (hp k)
  | _ => simp only [cfgReadBy, ran, run_bind, run_get, run_ite, ok, if_true]

/-- A write to an address of this hub writes the register there and shows whether it was refused. -/
theorem ran_accessWrite_here {path : Path} {ca : Nat} (hp : ∀ k, path ≠ .partner k) (ho : ownCa path ca = true) (v : Word)
    (s : State) : ran (accessWrite path ca v) s =
      ran (showRefused path ((writeHere checkNow path (caPage ca) (caOff ca) v s).1 != []))
        (ran (writeHere checkNow path (caPage ca) (caOff ca) v) s) := by
  simp only [ownCa_own hp, Bool.and_eq_true, decide_eq_true_eq, beq_iff_eq, Bool.or_eq_true, Bool.not_eq_true'] at ho
  obtain ⟨⟨hlt, hhub⟩, hal⟩ := ho
  have aligned : (isService path && ca % 4 != 0) = false := by
    rcases hal with h | h <;> simp [h]
  simp only [accessWrite, ran, run_ite, aligned, Bool.false_eq_true, if_false, if_neg (Nat.not_le.2 hlt), hhub,
    Nat.zero_ne_one, run_bind, run_pure]

/-- A read of an address of this hub. -/
theorem cfgRead_here {path : Path} {ca : Nat} (hp : ∀ k, path ≠ .partner k) (ho : ownCa path ca = true) (pn : Nat)
    (s : State) : cfgRead pn ca none s = readHere pn (caPage ca) (caOff ca) none s := by
  simp only [ownCa_own hp, Bool.and_eq_true, decide_eq_true_eq, beq_iff_eq] at ho
  obtain ⟨⟨hlt, hhub⟩, -⟩ := ho
  simp only [cfgRead, run_ite, if_neg (Nat.not_le.2 hlt), hhub, Nat.zero_ne_one, decide_false, Bool.false_and,
    Bool.false_eq_true, if_false]

/-! ### Every path -/

/-- A write that is served writes the register, for the partner in the state with its message noted; what follows tells
the path alone. -/
theorem ran_cfgWriteBy {path : Path} {ca : Nat} {s : State} (v : Word) (ho : ownCa path ca = true)
    (hs : served path (caPage ca) s = true) : ∃ p : PairSt,
    (cfgFrame [R.GLOBAL_SVC_STAT_REFUSED.key]).rel (ran (writeHere checkNow path (caPage ca) (caOff ca) v) { s with pair := p })
      (ran (cfgWriteBy path ca v) s) := by
  by_cases hp : ∀ k, path ≠ .partner k
  · rw [served_own hp, Bool.and_eq_true] at hs
    refine ⟨s.pair, ?_⟩
    rw [ran_cfgWriteBy_own hp hs.1, ran_accessWrite_here hp ho]
    exact cfgFrame_showRefused _ _ (List.mem_singleton_self _) _
  · obtain ⟨k, rfl⟩ : ∃ k, path = .partner k := by simpa using hp
    obtain ⟨hh, hroom⟩ := Bool.and_eq_true_iff.1 hs
    obtain ⟨p, hrun⟩ := ran_fromPair hroom
    have hh' : hasPartner { s with pair := p } = true := hh
    refine ⟨p, ?_⟩
    rw [cfgWriteBy, hrun]
    simp only [ran, run_bind, run_get, run_ite, hh', if_true]
    exact cfgFrame_of_send (sendFrame_toPartner _ _)

/-- A read of the partner's that is served reads the register and answers its word. -/
theorem ran_cfgReadBy_partner {k : Fin 18} {s : State} (hs : reads (.partner k) s = true) (ca : Nat) : ∃ p : PairSt,
    ran (cfgReadBy (.partner k) ca) s =
      ran (toPartner (.cfgAnswer k.val false
          [(readHere (pathNo (.partner k)) (caPage ca) (caOff ca) none { s with pair := p }).1]))
        (ran (readHere (pathNo (.partner k)) (caPage ca) (caOff ca) none) { s with pair := p }) := by
  obtain ⟨hh, hroom⟩ := Bool.and_eq_true_iff.1 hs
  obtain ⟨p, hrun⟩ := ran_fromPair hroom
  have hh' : hasPartner { s with pair := p } = true := hh
  refine ⟨p, ?_⟩
  rw [cfgReadBy, hrun]
  simp only [ran, run_bind, run_get, run_ite, hh', if_true]

/-- A read that is served reads the register, for the partner in the state with its message noted; what follows answers
the path alone. -/
theorem ran_cfgReadBy {path : Path} {ca : Nat} {s : State} (ho : ownCa path ca = true) (hs : reads path s = true) :
    ∃ p : PairSt, sendFrame.rel (ran (readHere (pathNo path) (caPage ca) (caOff ca) none) { s with pair := p })
      (ran (cfgReadBy path ca) s) := by
  by_cases hp : ∀ k, path ≠ .partner k
  · rw [reads_own hp] at hs
    refine ⟨s.pair, ?_⟩
    have here : ran (cfgRead (pathNo path) ca none) s = ran (readHere (pathNo path) (caPage ca) (caOff ca) none) s :=
      congrArg Prod.snd (cfgRead_here hp ho _ s)
    rw [ran_cfgReadBy_own hp hs, here]
    exact sendFrame_emit _ _
  · obtain ⟨k, rfl⟩ : ∃ k, path = .partner k := by simpa using hp
    obtain ⟨p, hrun⟩ := ran_cfgReadBy_partner hs ca
    exact ⟨p, hrun ▸ sendFrame_toPartner _ _⟩

/-- A command ends in the state of its action. -/
theorem endsIn_ran {c : Instr} {s x : State} {m : M Unit} (hc : exec c s = finish m s) (h : ran m s = x) : EndsIn c s x :=
  h ▸ hc

theorem leaves_ran {c : Instr} {s : State} {m : M Unit} {P : State → Prop} (hc : exec c s = finish m s) (h : P (ran m s)) :
    Leaves c s P := ⟨_, hc, h⟩

/-! ### What the partner is told -/

/-- What was handed over stays so while messages wait on and outputs are added. -/
theorem ToldPartner.later {a s t : State} {m : PairMsg} (h : ToldPartner a s m) (hq : s.pair.txq ⊆ t.pair.txq)
    (ho : s.outs <+: t.outs) : ToldPartner a t m := by
  obtain ⟨os, ho⟩ := ho
  rcases h with h | ⟨q, l, r, h⟩
  · exact .inl (hq h)
  · exact .inr ⟨q, l, r ++ os, by simp [← ho, h]⟩

/-- A flit goes out with the SKIP unit that may be due before it. -/
theorem spaced_single (lk : LinkSel) (w : Out → Nat) (n : Nat) (o : Out) : ∃ l, (spaced lk w n [o]).1 = l ++ [o] := by
  simp only [spaced]
  split
  · exact ⟨[_], rfl⟩
  · exact ⟨[], rfl⟩

/-- The first message of the queue goes out, or it waits on at the end. -/
theorem ran_pumpPairList_cons (x : PairMsg) (t b : List PairMsg) (s : State) :
    (∃ q l s', ran (pumpPairList (x :: t) b) s = ran (pumpPairList t b) s' ∧ s'.pair.txq = s.pair.txq ∧
      s'.outs = s.outs ++ (l ++ [.pair q x])) ∨
    ∃ s', ran (pumpPairList (x :: t) b) s = ran (pumpPairList t (x :: b)) s' ∧ s'.pair.txq = s.pair.txq ++ [x] ∧
      s'.outs = s.outs := by
  by_cases hc : (!pairHeld b x && pairCanSend s x) = true
  · obtain ⟨l, hl⟩ := spaced_single .pair outFlits s.pair.link.sinceSkip (.pair s.pair.link.nextSeq x)
    left
    simp only [pumpPairList, ran, run_get_bind, if_pos hc]
    exact ⟨_, l, _, rfl, rfl, congrArg (s.outs ++ ·) hl⟩
  · right
    simp only [pumpPairList, ran, run_get_bind, if_neg hc]
    exact ⟨_, rfl, rfl, rfl⟩

/-- Every message of the queue is handed over, and what was handed over before stays so. -/
theorem pumpPairList_tells (a : State) (m : PairMsg) (q : List PairMsg) : ∀ (b : List PairMsg) (s : State),
    a.outs <+: s.outs → m ∈ q ∨ ToldPartner a s m → ToldPartner a (ran (pumpPairList q b) s) m := by
  induction q with
  | nil => exact fun b s _ h => h.resolve_left List.not_mem_nil
  | cons x t ih =>
    intro b s ha h
    rcases ran_pumpPairList_cons x t b s with ⟨q, l, s', hrun, hq, ho⟩ | ⟨s', hrun, hq, ho⟩ <;> rw [hrun]
    · refine ih _ _ (ha.trans (ho ▸ List.prefix_append _ _)) ?_
      rcases h with h | h
      · rcases List.mem_cons.1 h with rfl | h
        · obtain ⟨os, ha⟩ := ha
          exact .inr (.inr ⟨q, os ++ l, [], by simp [ho, ← ha]⟩)
        · exact .inl h
      · exact .inr (h.later (hq ▸ List.Subset.refl _) (ho ▸ List.prefix_append _ _))
    · refine ih _ _ (ho ▸ ha) ?_
      rcases h with h | h
      · rcases List.mem_cons.1 h with rfl | h
        · exact .inr (.inl (hq ▸ List.mem_append_right _ (List.mem_singleton_self _)))
        · exact .inl h
      · exact .inr (h.later (hq ▸ List.subset_append_left _ _) (ho ▸ List.prefix_refl _))

/-- A hub with a partner hands it the message. -/
theorem toPartner_tells {s : State} (h : hasPartner s = true) (m : PairMsg) : ToldPartner s (ran (toPartner m) s) m := by
  simp only [toPartner, sendPair, pumpPair, ran, run_bind, run_get, run_ite, h, if_true]
  exact pumpPairList_tells s m _ [] _ (List.prefix_refl _) (.inl (List.mem_append_right _ (List.mem_singleton_self _)))

/-! ### A register of a page of this hub -/

theorem aliasPage_of_lt {page : Nat} (h : page < 0x80) (s : State) : aliasPage s page = false := by
  have hout : ¬ (0x80 ≤ page ∧ page ≤ 0x8F) := by omega
  simp [aliasPage, hout]

theorem readHere_native {page : Nat} {s : State} (ha : aliasPage s page = false) (pn off : Nat) (remote : Option Word) :
    readHere pn page off remote s = readNative pn page off s := by
  simp [readHere, ha]

theorem writeHere_native {page : Nat} {s : State} (ha : aliasPage s page = false) (check : M Unit) (path : Path) (off : Nat)
    (v : Word) : writeHere check path page off v s = writeNative check path page off v s := by
  simp [writeHere, ha]

theorem recordRefusal_none (page : Nat) (s : State) : recordRefusal page [] s = ((), s) := rfl

/-- Beyond the header a page takes the write by its registers and records the refusal. -/
theorem writeNative_body {page off : Nat} (hi : pageInfo page ≠ none) (hoff : 0x040 ≤ off) (check : M Unit) (path : Path)
    (v : Word) (s : State) : writeNative check path page off v s =
      ((bodyWrite check path page off v s).1,
        ran (recordRefusal page (bodyWrite check path page off v s).1) (ran (bodyWrite check path page off v) s)) := by
  obtain ⟨info, hi⟩ := Option.ne_none_iff_exists'.1 hi
  simp only [writeNative, hi, if_neg (Nat.not_lt.2 hoff), run_bind, run_pure, ran]

end Sys2Proof.Machine
end

section
/-! SUPPORT. What holds no register (00 R15, R18; 17 R767). -/

namespace Sys2Proof.Machine

/-! ### Offsets and pages without registers -/

/-- An offset of a page at which no register stands (R15, R786). -/
def emptyOffset (page off : Nat) : Prop :=
  (0x040 ≤ off ∧ rowsAt page off = []) ∨ off = 0x00C ∨ (0x030 ≤ off ∧ off < 0x040)

/-- No register stands there: an unassigned page, or such an offset of an assigned one. -/
def noRegister (page off : Nat) : Prop := pageInfo page = none ∨ emptyOffset page off

theorem headerWord_empty {off : Nat} (h : off = 0x00C ∨ (0x030 ≤ off ∧ off < 0x040)) (s : State) (page : Nat)
    (info : Nat × Nat × Option Fld) : headerWord s page off info = 0 := by
  have h0 : off ≠ 0x000 := by omega
  have h4 : off ≠ 0x004 := by omega
  have h8 : off ≠ 0x008 := by omega
  have hr : ¬ (off = 0x010 ∨ off = 0x014 ∨ off = 0x018 ∨ (0x020 ≤ off ∧ off < 0x030)) := by omega
  simp only [headerWord, if_neg h0, if_neg h4, if_neg h8, if_neg hr, ite_self]

/-- Where no register stands a read answers 0 and changes nothing. -/
theorem readNative_noRegister {page off : Nat} (h : noRegister page off) (pn : Nat) (s : State) :
    readNative pn page off s = (0, s) := by
  cases hi : pageInfo page with
  | none => simp only [readNative, run_get_bind, hi, run_pure]
  | some info =>
    rcases h with h | ⟨hoff, hrows⟩ | h
    · rw [hi] at h; cases h
    · simp only [readNative, run_get_bind, hi, if_neg (Nat.not_lt.2 hoff), hrows, if_true, run_pure]
    · have hoff : off < 0x040 := by omega
      simp only [readNative, run_get_bind, hi, if_pos hoff, headerWord_empty h, run_pure]

theorem readHere_noRegister {page off : Nat} {s : State} (ha : aliasPage s page = false) (h : noRegister page off) (pn : Nat)
    (remote : Option Word) : readHere pn page off remote s = (0, s) := by
  rw [readHere_native ha, readNative_noRegister h]

theorem headerWrite_empty {off : Nat} (h : off = 0x00C ∨ (0x030 ≤ off ∧ off < 0x040)) (check : M Unit) (path : Path)
    (page : Nat) (en : Option Fld) (v : Word) (s : State) : headerWrite check path page off en v s = ([], s) := by
  have h4 : off ≠ 0x004 := by omega
  have h14 : off ≠ 0x014 := by omega
  have h18 : off ≠ 0x018 := by omega
  have h1C : off ≠ 0x01C := by omega
  have h20 : off ≠ 0x020 := by omega
  simp [headerWrite, headerActs, h4, h14, h18, h1C, h20]

/-- Where no register stands a write changes nothing (R15, R18). -/
theorem ran_writeNative_noRegister {page off : Nat} (h : noRegister page off) (check : M Unit) (path : Path) (v : Word)
    (s : State) : ran (writeNative check path page off v) s = s := by
  cases hi : pageInfo page with
  | none => simp only [ran, writeNative, hi, run_pure]
  | some info =>
    rcases h with h | ⟨hoff, hrows⟩ | h
    · rw [hi] at h; cases h
    · have hbody : bodyWrite check path page off v s = ([], s) := by simp [bodyWrite, hrows]
      rw [ran, writeNative_body (by simp [hi]) hoff, hbody]
      simp only [ran, recordRefusal_none, hbody]
    · have hoff : off < 0x040 := by omega
      simp [ran, writeNative, hi, if_pos hoff, headerWrite_empty h, recordRefusal]

theorem ran_writeHere_noRegister {page off : Nat} {s : State} (ha : aliasPage s page = false) (h : noRegister page off)
    (check : M Unit) (path : Path) (v : Word) : ran (writeHere check path page off v) s = s := by
  rw [ran, writeHere_native ha]
  exact ran_writeNative_noRegister h check path v s

/-! ### What holds no register -/

theorem registerWrite_noRegister {path : Path} {ca : BitVec 24} {s : State} (v : Word) (ho : ownCa path ca.toNat = true)
    (hs : served path (caPage ca.toNat) s = true) (ha : aliasPage s (caPage ca.toNat) = false)
    (h : noRegister (caPage ca.toNat) (caOff ca.toNat)) : Leaves (.registerWrite path ca v) s fun x =>
      RegsKept [R.GLOBAL_SVC_STAT_REFUSED.key] s x ∧ x.active = s.active ∧ x.tick = s.tick ∧ DataKept s x := by
  obtain ⟨p, hf⟩ := ran_cfgWriteBy v ho hs
  have ha' : aliasPage { s with pair := p } (caPage ca.toNat) = false := ha
  rw [ran_writeHere_noRegister ha' h] at hf
  exact leaves_ran rfl ⟨hf.2, cfgFrame_active hf, cfgFrame_tick hf, cfgFrame_dataKept hf⟩

theorem multiWordLowRead_noRegister {path : Path} {ca : BitVec 24} {s : State} (hp : pathNo path < 19)
    (ho : ownCa path ca.toNat = true) (hs : reads path s = true) (ha : aliasPage s (caPage ca.toNat) = false)
    (h : noRegister (caPage ca.toNat) (caOff ca.toNat)) :
    EndsIn (.multiWordLowRead path ca) s { s with outs := s.outs ++ [.word (pathNo path) 0] } := by
  have hp := ne_partner_of_pathNo hp
  rw [reads_own hp] at hs
  have hr : cfgRead (pathNo path) ca.toNat none s = (0, s) := (cfgRead_here hp ho _ s).trans (readHere_noRegister ha h _ _)
  refine endsIn_ran rfl ?_
  rw [ran_cfgReadBy_own hp hs]
  simp only [ran, hr, emit]

theorem multiWordLowRead_noRegister_partner {k : Fin 18} {ca : BitVec 24} {s : State} (hs : reads (.partner k) s = true)
    (ha : aliasPage s (caPage ca.toNat) = false) (h : noRegister (caPage ca.toNat) (caOff ca.toNat)) :
    Leaves (.multiWordLowRead (.partner k) ca) s fun x =>
      ToldPartner s x (.cfgAnswer k.val false [0]) ∧ x.regs = s.regs ∧ DataKept s x := by
  obtain ⟨p, hrun⟩ := ran_cfgReadBy_partner hs ca.toNat
  have ha' : aliasPage { s with pair := p } (caPage ca.toNat) = false := ha
  simp only [readHere_noRegister ha' h, ran] at hrun
  have hh : hasPartner { s with pair := p } = true := (Bool.and_eq_true_iff.1 hs).1
  have hf := sendFrame_toPartner (.cfgAnswer k.val false [0]) { s with pair := p }
  refine leaves_ran rfl ⟨?_, ?_, ?_⟩ <;> rw [ran, hrun]
  · exact toPartner_tells hh _
  · exact sendFrame_regs hf
  · exact sendFrame_dataKept hf

/-! ### Addresses beyond the configuration space (R767) -/

theorem registerWrite_beyond {path : Path} {ca : BitVec 24} {s : State} (v : Word) (hca : 0x200000 ≤ ca.toNat)
    (hp : ∀ k, path ≠ .partner k) (ok : pathOk path s = true) : Leaves (.registerWrite path ca v) s fun x =>
      RegsKept [R.GLOBAL_SVC_STAT_ALIGN_ERR.key] s x ∧ x.active = s.active ∧ x.tick = s.tick ∧ DataKept s x := by
  have hf : (cfgFrame [R.GLOBAL_SVC_STAT_ALIGN_ERR.key]).rel s (ran (accessWrite path ca.toNat v) s) := by
    simp only [accessWrite, if_pos hca]
    exact Within.ite (Within.bind (cfgFrame_wrF _ _ (List.mem_singleton_self _)) fun _ => Within.pure _ _) (Within.pure _ _) s
  refine leaves_ran rfl ?_
  rw [ran_cfgWriteBy_own hp ok]
  exact ⟨hf.2, cfgFrame_active hf, cfgFrame_tick hf, cfgFrame_dataKept hf⟩

theorem multiWordLowRead_beyond {path : Path} {ca : BitVec 24} {s : State} (hca : 0x200000 ≤ ca.toNat)
    (hp : ∀ k, path ≠ .partner k) (ok : pathOk path s = true) :
    EndsIn (.multiWordLowRead path ca) s { s with outs := s.outs ++ [.word (pathNo path) 0] } := by
  refine endsIn_ran rfl ?_
  rw [ran_cfgReadBy_own hp ok, cfgRead, if_pos hca]
  rfl

theorem read_beyond {addr : BitVec 24} {count : BitVec 8} {s : State} (remote : List Word) (hca : 0x200000 ≤ addr.toNat)
    (hal : addr.toNat % 4 = 0) (ok : pathOk .spi s = true) (hc : count.toNat % 4 = 0) :
    EndsIn (.read addr count remote) s
      { s with svc := { s.svc with driveFF := false }, outs := s.outs ++ [.spi (0xA5 :: wordBytes 0)] } := by
  have hrest : min 1 (pageRest addr.toNat) = 1 := by unfold pageRest; omega
  refine endsIn_ran rfl ?_
  simp [onService, doSpiRead, fetchWords, ran, ok, hca, hal, hc, hrest, emit]

/-- Settles O50: where no register stands the model's read and write answer and change nothing, whatever the path. -/
theorem emptyOffsetsAndPages : Obligations.EmptyOffsetsAndPages :=
  ⟨fun _ _ v _ ho hs ha _ h => registerWrite_noRegister v ho hs ha (.inr h),
    fun _ _ _ ho hs hp ha _ h => multiWordLowRead_noRegister hp ho hs ha (.inr h),
    fun _ _ _ hs ha _ h => multiWordLowRead_noRegister_partner hs ha (.inr h),
    fun _ _ v _ ho hs ha h => registerWrite_noRegister v ho hs ha (.inl h),
    fun _ _ _ ho hs hp ha h => multiWordLowRead_noRegister hp ho hs ha (.inl h),
    fun _ _ _ hs ha h => multiWordLowRead_noRegister_partner hs ha (.inl h),
    fun _ _ v _ hca hp ok => registerWrite_beyond v hca hp ok,
    fun _ _ _ hca hp ok => multiWordLowRead_beyond hca hp ok,
    fun _ _ remote _ hca hal ok hc => read_beyond remote hca hal ok hc⟩

end Sys2Proof.Machine
end

section
/-! SUPPORT. One field of a write (00 R7, R876, R877). -/

namespace Sys2Proof.Machine

/-! ### One field of a write -/

/-- A field's value after a write fits the field. -/
theorem fieldWrite_lt (s : State) (img : Bool) (page off : Nat) (old v : Word) (r : FieldRow) :
    (fieldWrite s img page off old v r).1 < 2 ^ r.w := by
  have hcur : fieldOf old r.lo r.w < 2 ^ r.w := fieldOf_lt ..
  have hx : fieldOf v r.lo r.w < 2 ^ r.w := fieldOf_lt ..
  have hand : Nat.land (fieldOf old r.lo r.w) (2 ^ r.w - 1 - fieldOf v r.lo r.w) < 2 ^ r.w :=
    Nat.lt_of_le_of_lt Nat.and_le_left hcur
  have hor : Nat.lor (fieldOf old r.lo r.w) (fieldOf v r.lo r.w) < 2 ^ r.w := Nat.or_lt_two_pow hcur hx
  unfold fieldWrite
  cases r.acc
  case ro | wo => exact hcur
  case w1c => exact hand
  case w1s => exact hor
  all_goals
    dsimp only
    split
    · exact hcur
    · split
      · exact hx
      · exact hcur

/-- The fields that a write sets to the value written. -/
def FieldRow.settable (r : FieldRow) : Prop := r.acc = .rw ∨ r.acc = .rwl ∨ r.acc = .rws

/-- A settable field takes the value written, unless the value is the present one, the loader passes over the field, or a
check refuses it. -/
theorem fieldWrite_settable {r : FieldRow} (h : r.settable) (s : State) (img : Bool) (page off : Nat) (old v : Word) :
    fieldWrite s img page off old v r =
      if fieldOf v r.lo r.w = fieldOf old r.lo r.w || (img && r.mir && isHub1 s) then (fieldOf old r.lo r.w, [])
      else if refusals s img page off r (fieldOf v r.lo r.w) = [] then (fieldOf v r.lo r.w, [])
      else (fieldOf old r.lo r.w, refusals s img page off r (fieldOf v r.lo r.w)) := by
  rcases h with h | h | h <;> cases hl : refusals s img page off r (fieldOf v r.lo r.w) <;>
    simp only [fieldWrite, h, hl, reduceCtorEq, if_true, if_false]

theorem fieldWrite_ro {r : FieldRow} (h : r.acc = .ro) (s : State) (img : Bool) (page off : Nat) (old v : Word) :
    fieldWrite s img page off old v r = (fieldOf old r.lo r.w, []) := by
  unfold fieldWrite; rw [h]

theorem fieldWrite_w1c {r : FieldRow} (h : r.acc = .w1c) (s : State) (img : Bool) (page off : Nat) (old v : Word) :
    fieldWrite s img page off old v r = (Nat.land (fieldOf old r.lo r.w) (2 ^ r.w - 1 - fieldOf v r.lo r.w), []) := by
  unfold fieldWrite; rw [h]

/-- Fields of a word that share no bit keep their value when the other one is written. -/
theorem fieldOf_withField_apart (w : Word) {lo n lo' n' : Nat} (v : Nat) (h : lo + n ≤ 32)
    (hd : lo + n ≤ lo' ∨ lo' + n' ≤ lo) : fieldOf (withField w lo n v) lo' n' = fieldOf w lo' n' := by
  rcases hd with hd | hd
  · exact fieldOf_withField_above _ _ _ _ _ _ h hd
  · exact fieldOf_withField_below _ _ _ _ _ _ h hd

theorem wordWrite_cons (s : State) (img : Bool) (page off : Nat) (old v : Word) (r : FieldRow) (rows : List FieldRow) :
    (wordWrite s img page off old v (r :: rows)).1 =
      withField (wordWrite s img page off old v rows).1 r.lo r.w (fieldWrite s img page off old v r).1 := rfl

/-- Among rows that share no bit, each field of the word written holds what the write makes of that field alone. -/
theorem fieldOf_wordWrite (s : State) (img : Bool) (page off : Nat) (old v : Word) (rows : List FieldRow)
    (hp : rows.Pairwise fun a b => a.lo + a.w ≤ b.lo ∨ b.lo + b.w ≤ a.lo) (hw : ∀ r ∈ rows, r.lo + r.w ≤ 32)
    {r : FieldRow} (hr : r ∈ rows) :
    fieldOf (wordWrite s img page off old v rows).1 r.lo r.w = (fieldWrite s img page off old v r).1 := by
  induction rows with
  | nil => cases hr
  | cons a t ih =>
    obtain ⟨ha, ht⟩ := List.pairwise_cons.1 hp
    have haw : a.lo + a.w ≤ 32 := hw a List.mem_cons_self
    rw [wordWrite_cons]
    rcases List.mem_cons.1 hr with rfl | hr
    · rw [fieldOf_withField _ _ _ _ haw, Nat.mod_eq_of_lt (fieldWrite_lt ..)]
    · rw [fieldOf_withField_apart _ _ haw (ha r hr)]
      exact ih ht (fun x hx => hw x (List.mem_cons_of_mem _ hx)) hr

/-- Settles O9: the rows are taken one by one, and each access code has its own equation. -/
theorem fieldsAreWrittenOneByOne : Obligations.FieldsAreWrittenOneByOne := by
  refine ⟨fun s img page off old v rows hp hw r hr => fieldOf_wordWrite s img page off old v rows hp hw hr,
    fun s img page off old v r => ⟨fun h => ?_, fun h hx => ?_, fun h hi hn => ?_, fun h hn => ?_, fun hx h => ?_⟩⟩
  · rw [fieldWrite_ro h]
  · rw [fieldWrite_w1c h, hx, Nat.sub_self]
    exact Nat.and_zero _
  · rw [fieldWrite_settable h, hn, hi]
    simp only [Bool.false_and, Bool.or_false, decide_eq_true_eq, if_true]
    split
    · rename_i e; rw [e]
    · rfl
  · rw [fieldWrite_settable h, if_neg hn]
    split <;> rfl
  · rw [fieldWrite_settable h, hx]
    simp

end Sys2Proof.Machine
end

section
/-! SUPPORT. Registers whose write only sets fields, and the record of a refusal (00 R7, R876; 15 R700). -/

namespace Sys2Proof.Machine

/-! ### Registers whose write sets their fields -/

/-- A register of which no check looks at the whole word, outside the phase layout of R40, and whose write starts nothing
but the end of the revisit list (09 R432). -/
structure PlainReg (page off : Nat) : Prop where
  check : ∀ s img old v r, checkWord s img page off old v r = r
  layout : regKey page off ∉ phaseKeys
  starts : ∀ check path old new v s, ∃ w, written check path page off old new v s = ([], { s with weevil := w })

/-- The pages of the registers of `quietReg`. -/
def quietPages : List Nat := [0x00, 0x28, 0x29, 0x30, 0x31, 0x33, 0x68, 0x70]

theorem quietReg_facts {page off : Nat} (h : quietReg page off = true) : page ∈ quietPages ∧ rowsAt page off ≠ [] ∧
    groupOf page off = none ∧ (0x040 ≤ off ∧ off < 0x1000) ∧ regKey page off ≠ R.GLOBAL_SVC_STAT_REFUSED.key ∧
    (page = 0x00 → off ≠ 0x040 ∧ off ≠ 0x0C0) ∧ (page = 0x28 → off ≠ 0x040 ∧ off ≠ 0x044) ∧ (page = 0x29 → off ≠ 0x078) ∧
    (page = 0x30 → off ≠ 0x08C) ∧ (page = 0x31 → off ≠ 0x040 ∧ off ≠ 0x080) := by
  simp only [quietReg, Bool.and_eq_true, bne_iff_ne, ne_eq, Option.isNone_iff_eq_none, decide_eq_true_eq, Bool.or_eq_true,
    beq_iff_eq] at h
  obtain ⟨⟨⟨⟨hrows, hgroup⟩, hoff⟩, hkey⟩, hpage⟩ := h
  refine ⟨?_, hrows, hgroup, hoff, hkey, ?_⟩
  · simp only [quietPages, List.mem_cons, List.not_mem_nil, or_false]
    rcases hpage with ((((((h | h) | h) | h) | h) | h) | h) | h <;> simp [h]
  · refine ⟨?_, ?_, ?_, ?_, ?_⟩ <;> rintro rfl <;> simpa using hpage

theorem plainReg_of_quiet {page off : Nat} (h : quietReg page off = true) : PlainReg page off := by
  obtain ⟨hpage, -, -, hoff, -, h00, h28, h29, h30, h31⟩ := quietReg_facts h
  have hlayout : regKey page off ∉ phaseKeys := by
    have hp : page ≠ 1 := by rintro rfl; exact absurd hpage (by decide)
    simp only [phaseKeys, pgTick, List.map_cons, List.map_nil, List.mem_cons, List.not_mem_nil, regKey, or_false, not_or]
    omega
  simp only [quietPages, List.mem_cons, List.not_mem_nil, or_false] at hpage
  refine ⟨fun s img old v r => ?_, hlayout, fun check path old new v s => ?_⟩
  · rcases hpage with rfl | rfl | rfl | rfl | rfl | rfl | rfl | rfl <;> simp [checkWord]
  · rcases hpage with rfl | rfl | rfl | rfl | rfl | rfl | rfl | rfl
    · exact ⟨s.weevil, by simp [written, h00]⟩
    · exact ⟨s.weevil, by simp [written, h28]⟩
    · exact ⟨s.weevil, by simp [written, h29]⟩
    · exact ⟨s.weevil, by simp [written, h30]⟩
    · exact ⟨s.weevil, by simp [written, h31]⟩
    · by_cases hen : getF s R.SCRUB_CTL_EN = 0
      · exact ⟨{ s.weevil with revisit := [] }, by simp [written, hen]⟩
      · exact ⟨s.weevil, by simp [written, run_onlyIf, hen]⟩
    · exact ⟨s.weevil, by simp [written]⟩
    · exact ⟨s.weevil, by simp [written]⟩

/-- The registers in which a register write stores: the register itself and, where it holds mirrored fields,
PAIR.MIRROR_PEND. -/
def storeKeys (page off : Nat) : List Nat :=
  if (rowsAt page off).any (·.mir) then [regKey page off, R.PAIR_MIRROR_PEND_N.key] else [regKey page off]

theorem storeKeys_subset (page off : Nat) : storeKeys page off ⊆ [regKey page off, R.PAIR_MIRROR_PEND_N.key] := by
  unfold storeKeys
  split <;> simp

theorem mirrorsDiffer_unmirrored {rows : List FieldRow} (h : rows.any (·.mir) = false) (a b : Word) :
    mirrorsDiffer a b rows = false := by
  simp only [mirrorsDiffer, List.any_eq_false, Bool.and_eq_true, not_and] at h ⊢
  exact fun r hr hm => absurd hm (h r hr)

/-- The mirror record that a register write may send (12 R533). -/
def mirrorStored (page off : Nat) (old w : Word) : M Unit :=
  onlyIf (mirrorsDiffer old w (rowsAt page off)) (mirrorWrite (regKey page off) w)

theorem cfgFrame_mirrorStored (page off : Nat) (old w : Word) :
    Within (cfgFrame [R.PAIR_MIRROR_PEND_N.key]) (mirrorStored page off old w) :=
  Within.onlyIf (cfgFrame_mirrorWrite _ _ (List.mem_singleton_self _))

theorem cfgFrame_mirrorStored_storeKeys (page off : Nat) (old w : Word) :
    Within (cfgFrame (storeKeys page off)) (mirrorStored page off old w) := by
  by_cases hm : (rowsAt page off).any (·.mir) = true
  · exact fun s => cfgFrame_mono (by simp [storeKeys, hm]) (cfgFrame_mirrorStored page off old w s)
  · rw [mirrorStored, mirrorsDiffer_unmirrored (Bool.eq_false_iff.2 hm)]
    exact Within.pure _ _

/-- A write of a plain register stores the word that its fields give, and answers the codes of the fields refused. -/
theorem writeWord_plain {path : Path} {page off : Nat} {s : State} (hp : PlainReg page off)
    (hg : authGated s path page = false) (hk : regKey page off ≠ R.PAIR_MIRROR_PEND_N.key) (check : M Unit) (v : Word) :
    ∃ t, writeWord check path page off v s = ((writeResult path s page off v).2, t) ∧
      getReg t.regs (regKey page off) = (writeResult path s page off v).1 ∧ (cfgFrame (storeKeys page off)).rel s t := by
  rcases hr : writeResult path s page off v with ⟨w, codes⟩
  have hfields : wordWrite s (isImage path) page off (getReg s.regs (regKey page off)) v (rowsAt page off) = (w, codes) := hr
  have hlayout : ∀ x, breaksLayout s (regKey page off) x = false := fun x => by
    simp [breaksLayout, hp.layout]
  generalize hs1 : ({ s with regs := setReg s.regs (regKey page off) w } : State) = s1
  generalize hs2 : ran (mirrorStored page off (getReg s.regs (regKey page off)) w) s1 = s2
  obtain ⟨wv, hw⟩ := hp.starts check path (getReg s.regs (regKey page off)) w v s2
  have hstored : (cfgFrame (storeKeys page off)).rel s s1 :=
    hs1 ▸ cfgFrame_setReg s _ w (by unfold storeKeys; split <;> simp)
  have hsent : (cfgFrame (storeKeys page off)).rel s1 s2 := hs2 ▸ cfgFrame_mirrorStored_storeKeys _ _ _ _ s1
  have hpend : (cfgFrame [R.PAIR_MIRROR_PEND_N.key]).rel s1 s2 := hs2 ▸ cfgFrame_mirrorStored _ _ _ _ s1
  have hended : (cfgFrame (storeKeys page off)).rel s2 { s2 with weevil := wv } := ⟨rfl, fun _ _ => rfl⟩
  refine ⟨{ s2 with weevil := wv }, ?_, ?_, Keeps.trans _ _ _ _ (Keeps.trans _ _ _ _ hstored hsent) hended⟩
  · rw [ran, mirrorStored] at hs2
    simp [writeWord, hfields, hg, hp.check, hlayout, wrReg, hs1, hs2, hw]
  · rw [hpend.2 _ (by simpa using hk), ← hs1, getReg_setReg_same]

/-! ### The record of a refusal (15 R700, R876) -/

/-- The keys of the error capture of a page (15 R700). -/
def capKeys (page : Nat) : List Nat := [0x020, 0x024, 0x028, 0x02C].map (regKey page)

/-- No key of the error capture is that of a register beyond the header. -/
theorem regKey_not_mem_capKeys {page off : Nat} (h : 0x040 ≤ off ∧ off < 0x1000) (p : Nat) :
    regKey page off ∉ capKeys p := by
  simp only [capKeys, List.map_cons, List.map_nil, List.mem_cons, List.not_mem_nil, or_false, regKey]
  omega

/-- ERR_CAP0 stands in the header, below every other register. -/
theorem errCap0_not_mem {ks : List Nat} (h : ∀ k ∈ ks, 0x040 ≤ k % 4096) (page : Nat) : regKey page 0x020 ∉ ks := by
  intro hm
  have := h _ hm
  simp only [regKey] at this
  omega

theorem cfgFrame_errCap (page code c1 c2 : Nat) : Within (cfgFrame (capKeys page)) (errCap page code c1 c2) := by
  have h20 : regKey page 0x020 ∈ capKeys page := List.mem_map_of_mem (by decide)
  have h24 : regKey page 0x024 ∈ capKeys page := List.mem_map_of_mem (by decide)
  have h28 : regKey page 0x028 ∈ capKeys page := List.mem_map_of_mem (by decide)
  have h2C : regKey page 0x02C ∈ capKeys page := List.mem_map_of_mem (by decide)
  exact Within.bind (Within.rdB _ _) fun _ => Within.ite (cfgFrame_incF _ h20)
    (Within.bind (cfgFrame_wrF _ _ h20) fun _ => Within.bind (cfgFrame_wrF _ _ h20) fun _ =>
      Within.bind (cfgFrame_wrF _ _ h20) fun _ => Within.bind (cfgFrame_wrReg _ _ _ h24) fun _ =>
      Within.bind (cfgFrame_wrReg _ _ _ h28) fun _ => Within.bind (Within.rdF _ _) fun _ => cfgFrame_wrReg _ _ _ h2C)

theorem cfgFrame_errCapFree (page code : Nat) : Within (cfgFrame (capKeys page)) (errCapFree page code) :=
  Within.bind cfgFrame_drawWord fun _ => Within.bind cfgFrame_drawWord fun _ => cfgFrame_errCap _ _ _ _

/-- The first error of a page sets the three fields of ERR_CAP0. -/
theorem getF_errCap0_first {page : Nat} {s : State} {f : Fld} (hv : getF s (capValid page) = 0)
    (hf : f.key = regKey page 0x020) (code c1 c2 : Nat) : getF (ran (errCap page code c1 c2) s) f =
      getF (setF (setF (setF s (capCode page) code) (capValid page) 1) (capCount page) 1) f := by
  have hne : ∀ o, o ≠ 0x020 → f.key ≠ regKey page o := by
    intro o ho
    rw [hf]
    simp only [regKey]
    omega
  simp only [errCap, ran, run_rdB_bind, hv, bne_self_eq_false, Bool.false_eq_true, if_false]
  simp [getF, wrReg, getReg_setReg_ne _ _ (hne 0x024 (by decide)), getReg_setReg_ne _ _ (hne 0x028 (by decide)),
    getReg_setReg_ne _ _ (hne 0x02C (by decide))]

/-- The first error of a page stands in ERR_CAP0 with its code, VALID and COUNT 1. -/
theorem getF_errCap_first {page code : Nat} {s : State} (hv : getF s (capValid page) = 0) (hc : code < 256) (c1 c2 : Nat) :
    getF (ran (errCap page code c1 c2) s) (capCode page) = code ∧ getF (ran (errCap page code c1 c2) s) (capValid page) = 1 ∧
      getF (ran (errCap page code c1 c2) s) (capCount page) = 1 := by
  have okCode : (capCode page).ok := by simp [Fld.ok, capCode]
  have okValid : (capValid page).ok := by simp [Fld.ok, capValid]
  have okCount : (capCount page).ok := by simp [Fld.ok, capCount]
  have validCode : (capValid page).apart (capCode page) := by simp [Fld.apart, capValid, capCode]
  have countCode : (capCount page).apart (capCode page) := by simp [Fld.apart, capCount, capCode]
  have countValid : (capCount page).apart (capValid page) := by simp [Fld.apart, capCount, capValid]
  refine ⟨?_, ?_, ?_⟩
  · rw [getF_errCap0_first (f := capCode page) hv rfl, getF_setF_apart _ _ _ _ okCount countCode,
      getF_setF_apart _ _ _ _ okValid validCode, getF_setF_same _ _ _ okCode]
    exact Nat.mod_eq_of_lt hc
  · rw [getF_errCap0_first (f := capValid page) hv rfl, getF_setF_apart _ _ _ _ okCount countValid,
      getF_setF_same _ _ _ okValid]
    rfl
  · rw [getF_errCap0_first (f := capCount page) hv rfl, getF_setF_same _ _ _ okCount]
    rfl

theorem cfgFrame_recordRefusal_one (page c : Nat) : Within (cfgFrame (capKeys page)) (recordRefusal page [c]) :=
  cfgFrame_errCapFree page c

theorem ran_errCapFree (page c : Nat) (s : State) :
    ∃ c1 c2 u, ran (errCapFree page c) s = ran (errCap page c c1 c2) { s with free := u } := by
  simp only [errCapFree, errCapOpen, ran, run_bind]
  exact ⟨_, _, _, rfl⟩

/-- One code is recorded as it is. -/
theorem getF_recordRefusal_one {page c : Nat} {s : State} (hv : getF s (capValid page) = 0) (hc : c < 256) :
    getF (ran (recordRefusal page [c]) s) (capCode page) = c ∧ getF (ran (recordRefusal page [c]) s) (capValid page) = 1 ∧
      getF (ran (recordRefusal page [c]) s) (capCount page) = 1 := by
  obtain ⟨c1, c2, u, hrun⟩ := ran_errCapFree page c s
  have hrec : ran (recordRefusal page [c]) s = ran (errCapFree page c) s := rfl
  rw [hrec, hrun]
  exact getF_errCap_first (s := { s with free := u }) hv hc c1 c2

/-! ### What the result of a write looks at -/

/-- The result of a write depends on the register, the lock of its page, the hub's part in a pair and whether the tick has
started. -/
theorem writeResult_congr {s t : State} {page off : Nat}
    (hreg : getReg t.regs (regKey page off) = getReg s.regs (regKey page off)) (hlock : pageLocked t page = pageLocked s page)
    (hmirror : isMirror t = isMirror s) (hhub : isHub1 t = isHub1 s) (htick : t.tick = s.tick) (path : Path)
    (v : Word) : writeResult path t page off v = writeResult path s page off v := by
  have hfield : ∀ img old r, fieldWrite t img page off old v r = fieldWrite s img page off old v r := by
    intro img old r
    simp only [fieldWrite, refusals, hlock, hmirror, hhub, htick]
  have hword : ∀ img old rows, wordWrite t img page off old v rows = wordWrite s img page off old v rows := by
    intro img old rows
    induction rows with
    | nil => rfl
    | cons r rows ih => simp only [wordWrite, hfield, ih]
  rw [writeResult, hreg, hword, writeResult]

theorem writeResult_pair (path : Path) (s : State) (p : PairSt) (page off : Nat) (v : Word) :
    writeResult path { s with pair := p } page off v = writeResult path s page off v :=
  writeResult_congr (s := s) (t := { s with pair := p }) rfl rfl rfl rfl rfl path v

/-! ### A register write -/

theorem quietPage_facts {page : Nat} (h : page ∈ quietPages) : pageInfo page ≠ none ∧ page < 0x80 := by
  revert page
  decide

/-- A write of a register that only sets fields stores them, then records what was refused. -/
theorem ran_writeHere_quiet {path : Path} {page off : Nat} {s : State} (hq : quietReg page off = true)
    (hg : authGated s path page = false) (check : M Unit) (v : Word) : ∃ t,
    ran (writeHere check path page off v) s = ran (recordRefusal page (writeResult path s page off v).2) t ∧
      getReg t.regs (regKey page off) = (writeResult path s page off v).1 ∧
      (cfgFrame [regKey page off, R.PAIR_MIRROR_PEND_N.key]).rel s t := by
  obtain ⟨hpage, hrows, hgroup, hoff, -⟩ := quietReg_facts hq
  obtain ⟨hi, hlt⟩ := quietPage_facts hpage
  have hk : regKey page off ≠ R.PAIR_MIRROR_PEND_N.key := by
    simp only [regKey, Fld.key, R.PAIR_MIRROR_PEND_N]
    intro h
    obtain rfl : page = 0x18 := by omega
    exact absurd hpage (by decide)
  obtain ⟨t, hw, hreg, hf⟩ := writeWord_plain (plainReg_of_quiet hq) hg hk check v
  have hbody : bodyWrite check path page off v s = ((writeResult path s page off v).2, t) := by
    have hF0 : page ≠ 0xF0 := by omega
    simp [bodyWrite, hrows, hF0, hgroup, hw]
  refine ⟨t, ?_, hreg, cfgFrame_mono (storeKeys_subset _ _) hf⟩
  rw [ran, writeHere_native (aliasPage_of_lt hlt s), writeNative_body hi hoff.1]
  simp only [ran, hbody]

/-- What the write of a register that only sets fields leaves: the register stored, then the refusal recorded, then the
path told. -/
theorem ran_cfgWriteBy_quiet {path : Path} {ca : Nat} {s : State} (v : Word) (ho : ownCa path ca = true)
    (hq : quietReg (caPage ca) (caOff ca) = true) (hs : served path (caPage ca) s = true) : ∃ t,
    getReg t.regs (regKey (caPage ca) (caOff ca)) = (writeResult path s (caPage ca) (caOff ca) v).1 ∧
      (cfgFrame [regKey (caPage ca) (caOff ca), R.PAIR_MIRROR_PEND_N.key]).rel s t ∧
      (cfgFrame [R.GLOBAL_SVC_STAT_REFUSED.key]).rel
        (ran (recordRefusal (caPage ca) (writeResult path s (caPage ca) (caOff ca) v).2) t) (ran (cfgWriteBy path ca v) s) := by
  obtain ⟨p, hx⟩ := ran_cfgWriteBy v ho hs
  have hg : authGated { s with pair := p } path (caPage ca) = false := served_ungated (s := s) hs
  obtain ⟨t, hrun, hreg, hf⟩ := ran_writeHere_quiet hq hg checkNow v
  rw [writeResult_pair] at hrun hreg
  exact ⟨t, hreg, ⟨hf.1, hf.2⟩, hrun ▸ hx⟩

/-- One refused field of a register beyond the header, with an empty capture before: the register keeps what was stored, and
ERR_CAP0 shows the code. -/
theorem recorded_once {page off c : Nat} {s t x : State} (hoff : 0x040 ≤ off ∧ off < 0x1000)
    (hkey : regKey page off ≠ R.GLOBAL_SVC_STAT_REFUSED.key) (hv : getF s (capValid page) = 0) (hc : c < 256)
    (hf : (cfgFrame [regKey page off, R.PAIR_MIRROR_PEND_N.key]).rel s t)
    (hx : (cfgFrame [R.GLOBAL_SVC_STAT_REFUSED.key]).rel (ran (recordRefusal page [c]) t) x) :
    getReg x.regs (regKey page off) = getReg t.regs (regKey page off) ∧ getF x (capCode page) = c ∧
      getF x (capValid page) = 1 ∧ getF x (capCount page) = 1 ∧ DataKept s x := by
  have hcap : regKey page 0x020 ∉ [regKey page off, R.PAIR_MIRROR_PEND_N.key] := by
    refine errCap0_not_mem ?_ _
    simp only [List.forall_mem_cons, regKey]
    exact ⟨by omega, by decide, by simp⟩
  have hpath : regKey page 0x020 ∉ [R.GLOBAL_SVC_STAT_REFUSED.key] :=
    errCap0_not_mem (List.forall_mem_singleton.2 (by decide)) _
  have hrec := cfgFrame_recordRefusal_one page c t
  obtain ⟨hcode, hvalid, hcount⟩ := getF_recordRefusal_one ((regsKept_getF hf.2 (capValid page) hcap).trans hv) hc
  refine ⟨?_, ?_, ?_, ?_, ?_⟩
  · rw [hx.2 _ (by simpa using hkey)]
    exact hrec.2 _ (regKey_not_mem_capKeys hoff _)
  · rw [regsKept_getF hx.2 (capCode page) hpath, hcode]
  · rw [regsKept_getF hx.2 (capValid page) hpath, hvalid]
  · rw [regsKept_getF hx.2 (capCount page) hpath, hcount]
  · exact dataKept_trans (cfgFrame_dataKept hf) (dataKept_trans (cfgFrame_dataKept hrec) (cfgFrame_dataKept hx))

/-- Settles O8: the write stores what its fields give, and the one refusal meets an empty capture. -/
theorem registerWriteSetsFields : Obligations.RegisterWriteSetsFields := by
  refine ⟨fun path ca v s ho hq hacc => ?_, fun path ca v c s ho hq hs hcodes hv hc => ?_⟩
  · obtain ⟨hs, hcodes⟩ := Bool.and_eq_true_iff.1 hacc
    obtain ⟨-, -, -, -, hkey, -⟩ := quietReg_facts hq
    obtain ⟨t, hreg, hf, hx⟩ := ran_cfgWriteBy_quiet v ho hq hs
    rw [beq_iff_eq.1 hcodes, ran, recordRefusal_none] at hx
    have hall := Keeps.trans (cfgFrame [regKey (caPage ca.toNat) (caOff ca.toNat), R.GLOBAL_SVC_STAT_REFUSED.key,
      R.PAIR_MIRROR_PEND_N.key]) _ _ _ (cfgFrame_mono (by simp) hf) (cfgFrame_mono (by simp) hx)
    refine leaves_ran rfl ⟨?_, hall.2, cfgFrame_dataKept hall, cfgFrame_tick hall⟩
    rw [hx.2 _ (by simpa using hkey), hreg]
  · obtain ⟨-, -, -, hoff, hkey, -⟩ := quietReg_facts hq
    obtain ⟨t, hreg, hf, hx⟩ := ran_cfgWriteBy_quiet v ho hq hs
    obtain ⟨hkept, hcap⟩ := recorded_once hoff hkey hv hc hf (hcodes ▸ hx)
    exact leaves_ran rfl ⟨hkept.trans hreg, hcap⟩

end Sys2Proof.Machine
end

section
/-! SUPPORT. Multi-word values (00 R11-R13; 17 R773). -/

namespace Sys2Proof.Machine

/-! ### Notes under keys -/

theorem noted_cons (e : Nat × Word) (l : KV Word) (k : Nat) : noted (e :: l) k = if e.1 = k then some e.2 else noted l k := by
  by_cases h : e.1 = k <;> simp [noted, h]

theorem noted_kvDel_ne (l : KV Word) {k j : Nat} (h : j ≠ k) : noted (kvDel l k) j = noted l j := by
  induction l with
  | nil => rfl
  | cons e t ih =>
    obtain ⟨a, w⟩ := e
    by_cases ha : a = k
    · simp [kvDel, ha, ih, noted_cons, Ne.symm h]
    · simp [kvDel, ha, ih, noted_cons]

theorem noted_kvIns_ne (l : KV Word) {k j : Nat} (v : Word) (h : j ≠ k) : noted (kvIns l k v) j = noted l j := by
  induction l with
  | nil => simp [kvIns, noted_cons, Ne.symm h]
  | cons e t ih =>
    obtain ⟨a, w⟩ := e
    by_cases ha : k < a
    · simp [kvIns, ha, noted_cons, Ne.symm h]
    · simp [kvIns, ha, noted_cons, ih]

theorem noted_kvIns_same (l : KV Word) (k : Nat) (v : Word) (h : ∀ e ∈ l, e.1 ≠ k) : noted (kvIns l k v) k = some v := by
  induction l with
  | nil => simp [kvIns, noted_cons]
  | cons e t ih =>
    obtain ⟨a, w⟩ := e
    have ha : a ≠ k := h (a, w) List.mem_cons_self
    have ht := ih fun e he => h e (List.mem_cons_of_mem _ he)
    by_cases hk : k < a
    · simp [kvIns, hk, noted_cons]
    · simp [kvIns, hk, noted_cons, ha, ht]

theorem noted_note_same (l : KV Word) (k : Nat) (v : Word) : noted (note l k v) k = some v :=
  noted_kvIns_same _ k v (kvDel_keys l k)

theorem noted_note_ne (l : KV Word) {k j : Nat} (v : Word) (h : j ≠ k) : noted (note l k v) j = noted l j :=
  (noted_kvIns_ne _ v h).trans (noted_kvDel_ne l h)

/-- After words were noted one by one, each stands under its key. -/
theorem noted_foldl_note (key : Nat → Nat) (word : Nat → Word) (hkey : ∀ i j, key i = key j → i = j) (is : List Nat)
    {i : Nat} : ∀ l : KV Word, i ∈ is ∨ noted l (key i) = some (word i) →
      noted (is.foldl (fun l i => note l (key i) (word i)) l) (key i) = some (word i) := by
  induction is with
  | nil => exact fun l h => h.resolve_left List.not_mem_nil
  | cons a t ih =>
    intro l h
    refine ih _ ?_
    by_cases ha : i = a
    · exact .inr (ha ▸ noted_note_same _ _ _)
    · rw [noted_note_ne _ _ fun e => ha (hkey _ _ e)]
      exact h.imp_left fun hm => (List.mem_cons.1 hm).resolve_left ha

/-! ### The paths -/

theorem pathSt_setPath (pn : Nat) (f : PathSt → PathSt) (s : State) : pathSt (ran (setPath pn f) s) pn = f (pathSt s pn) := by
  simp only [pathSt, ran, setPath, kvGet_kvSet_same]

/-! ### Multi-word values -/

/-- The pages that hold multi-word values (R773). -/
def groupPages : List Nat :=
  [0x00, 0x18, 0x20, 0x21, 0x29] ++ List.range' 0x08 16 ++ List.range' 0x1C 4 ++ List.range' 0x60 8

theorem inGroup_le {off base stride n words : Nat} {g : Nat × Nat} (h : inGroup off base stride n words = some g) :
    base ≤ off := by
  unfold inGroup at h
  split at h
  · rename_i hc; exact hc.1
  · cases h

theorem mem_groupPages {page : Nat} : page ∈ groupPages ↔ page = 0x18 ∨ (0x1C ≤ page ∧ page ≤ 0x1F) ∨ page = 0x20 ∨
    page = 0x21 ∨ (0x08 ≤ page ∧ page ≤ 0x17) ∨ page = 0x00 ∨ page = 0x29 ∨ (0x60 ≤ page ∧ page ≤ 0x67) := by
  simp only [groupPages, List.mem_append, List.mem_cons, List.not_mem_nil, or_false, List.mem_range'_1]
  omega

/-- Multi-word values stand beyond the header of those pages. -/
theorem groupOf_facts {page off : Nat} {g : Nat × Nat × Nat} (h : groupOf page off = some g) :
    page ∈ groupPages ∧ 0x040 ≤ off := by
  have two : ∀ {base stride n words : Nat} {g : Nat × Nat × Nat},
      ((inGroup off base stride n words).map fun (b, w) => (b, w, 2)) = some g → base ≤ off := by
    intro base stride n words g h
    obtain ⟨x, hx, -⟩ := Option.map_eq_some_iff.1 h
    exact inGroup_le hx
  rw [mem_groupPages]
  unfold groupOf at h
  dsimp only at h
  split at h
  · have := two h; omega
  split at h
  · have := two h; omega
  split at h
  · split at h
    · rename_i hg; have := two hg; omega
    · have := two h; omega
  split at h
  · have := two h; omega
  split at h
  · have := two h; omega
  split at h
  · have := two h; omega
  split at h
  · have := two h; omega
  split at h
  · split at h
    · rename_i hg; have := inGroup_le hg; omega
    · have := two h; omega
  · cases h

theorem groupPage_facts {page : Nat} (h : page ∈ groupPages) :
    pageInfo page ≠ none ∧ page < 0x80 ∧ page ≠ 0x02 ∧ page ≠ 0x03 := by
  revert page
  decide

/-! ### Reads of a multi-word value -/

theorem readHere_group {page off base word n : Nat} (hg : groupOf page off = some (base, word, n)) (hr : rowsAt page off ≠ [])
    (pn : Nat) (remote : Option Word) (s : State) : readHere pn page off remote s = groupRead pn page off base word n s := by
  obtain ⟨hpage, hoff⟩ := groupOf_facts hg
  obtain ⟨hi, hlt, h2, h3⟩ := groupPage_facts hpage
  obtain ⟨info, hi⟩ := Option.ne_none_iff_exists'.1 hi
  rw [readHere_native (aliasPage_of_lt hlt s)]
  simp [readNative, hi, Nat.not_lt.2 hoff, hr, h2, h3, hg]

/-- The latch of a path after a read of the lowest word: the higher words of the value. -/
def latched (s : State) (page base n : Nat) (l : KV Word) : KV Word :=
  (List.range' 1 (n - 1)).foldl (fun l i => note l (regKey page base + 4 * i) (viewReg s page (base + 4 * i))) l

theorem noted_latched {i n : Nat} (h0 : 0 < i) (hn : i < n) (s : State) (page base : Nat) (l : KV Word) :
    noted (latched s page base n l) (regKey page base + 4 * i) = some (viewReg s page (base + 4 * i)) :=
  noted_foldl_note (fun i => regKey page base + 4 * i) (fun i => viewReg s page (base + 4 * i)) (fun i j h => by omega) _ _
    (.inl (List.mem_range'_1.2 (by omega)))

theorem groupRead_low (pn page off base n : Nat) (s : State) : groupRead pn page off base 0 n s =
    (viewReg s page off, ran (setPath pn fun ps => { ps with latch := latched s page base n ps.latch }) s) := by
  simp only [groupRead, run_get_bind, if_true]
  rfl

theorem groupRead_high {word : Nat} (h : 0 < word) (pn page off base n : Nat) (s : State) :
    groupRead pn page off base word n s =
      ((noted (pathSt s pn).latch (regKey page off)).getD (viewReg s page off), s) := by
  simp only [groupRead, run_get_bind, if_neg (Nat.pos_iff_ne_zero.1 h), run_pure]

theorem viewReg_pair (s : State) (p : PairSt) (page off : Nat) : viewReg { s with pair := p } page off = viewReg s page off := rfl

/-- A read of the lowest word latches the higher ones (R12). -/
theorem lowRead_latches {path : Path} {ca : BitVec 24} {base n : Nat} {s : State} (ho : ownCa path ca.toNat = true)
    (hs : reads path s = true) (hg : groupOf (caPage ca.toNat) (caOff ca.toNat) = some (base, 0, n))
    (hr : rowsAt (caPage ca.toNat) (caOff ca.toNat) ≠ []) : Leaves (.multiWordLowRead path ca) s fun x =>
      (∀ i, 0 < i → i < n → noted (pathSt x (pathNo path)).latch (regKey (caPage ca.toNat) base + 4 * i) =
        some (viewReg s (caPage ca.toNat) (base + 4 * i))) ∧ RegsKept [] s x ∧ DataKept s x := by
  obtain ⟨p, hx⟩ := ran_cfgReadBy ho hs
  rw [ran, readHere_group hg hr, groupRead_low] at hx
  have hd := sendFrame_dataKept hx
  refine leaves_ran rfl ⟨fun i h0 hn => ?_, fun k _ => ?_, hd⟩
  · rw [sendFrame_pathSt hx, pathSt_setPath, ← viewReg_pair s p]
    exact noted_latched h0 hn _ _ _ _
  · rw [sendFrame_regs hx]; rfl

/-- A read of a higher word answers the latched one (R12). -/
theorem highRead_latched {path : Path} {ca : BitVec 24} {base i n : Nat} {w : Word} {s : State}
    (ho : ownCa path ca.toNat = true) (hs : reads path s = true) (hp : pathNo path < 19)
    (hg : groupOf (caPage ca.toNat) (caOff ca.toNat) = some (base, i, n)) (hi : 0 < i)
    (hr : rowsAt (caPage ca.toNat) (caOff ca.toNat) ≠ [])
    (hw : noted (pathSt s (pathNo path)).latch (regKey (caPage ca.toNat) (caOff ca.toNat)) = some w) :
    Leaves (.multiWordLowRead path ca) s fun x => x.outs = s.outs ++ [.word (pathNo path) w] ∧ x.regs = s.regs := by
  have hp := ne_partner_of_pathNo hp
  have hread : cfgRead (pathNo path) ca.toNat none s = (w, s) := by
    rw [cfgRead_here hp ho, readHere_group hg hr, groupRead_high hi, hw, Option.getD_some]
  rw [reads_own hp] at hs
  refine leaves_ran rfl ?_
  rw [ran_cfgReadBy_own hp hs]
  simp only [ran, hread]
  exact ⟨rfl, rfl⟩

/-! ### Writes of a multi-word value -/

theorem writeHere_group {page off base word n : Nat} (hg : groupOf page off = some (base, word, n)) (hr : rowsAt page off ≠ [])
    (hw : groupWritable page off = true) (check : M Unit) (path : Path) (v : Word) (s : State) :
    writeHere check path page off v s = ((groupWrite check path page off base word n v s).1,
      ran (recordRefusal page (groupWrite check path page off base word n v s).1)
        (ran (groupWrite check path page off base word n v) s)) := by
  obtain ⟨hpage, hoff⟩ := groupOf_facts hg
  obtain ⟨hi, hlt, -⟩ := groupPage_facts hpage
  have hF0 : page ≠ 0xF0 := by omega
  have hbody : bodyWrite check path page off v s = groupWrite check path page off base word n v s := by
    simp [bodyWrite, hr, hF0, hg, hw]
  rw [writeHere_native (aliasPage_of_lt hlt s), writeNative_body hi hoff]
  simp only [ran, hbody]

/-- A write of a word below the highest is held for the path, beside words held before it (R13). -/
theorem ran_writeHere_low {page off base word n : Nat} (hg : groupOf page off = some (base, word, n))
    (hr : rowsAt page off ≠ []) (hw : groupWritable page off = true) (h : word + 1 < n) (check : M Unit) (path : Path) (v : Word)
    (s : State) : ∃ l : KV Word → KV Word, ran (writeHere check path page off v) s =
      ran (setPath (pathNo path) fun ps => { ps with held := note (l ps.held) (regKey page off) v }) s := by
  rw [ran, writeHere_group hg hr hw]
  simp only [groupWrite, if_neg (Nat.ne_of_lt h), run_bind, run_pure, ran, recordRefusal_none]
  exact ⟨fun held => if word = 0 then _ else held, rfl⟩

/-- A write below the highest word changes no register but the path's status (R13). -/
theorem lowWrite_holds {path : Path} {ca : BitVec 24} {base i n : Nat} {v : Word} {s : State}
    (ho : ownCa path ca.toNat = true) (hs : served path (caPage ca.toNat) s = true)
    (hg : groupOf (caPage ca.toNat) (caOff ca.toNat) = some (base, i, n)) (hi : i + 1 < n)
    (hw : groupWritable (caPage ca.toNat) (caOff ca.toNat) = true) (hr : rowsAt (caPage ca.toNat) (caOff ca.toNat) ≠ []) :
    Leaves (.registerWrite path ca v) s fun x =>
      noted (pathSt x (pathNo path)).held (regKey (caPage ca.toNat) (caOff ca.toNat)) = some v ∧
        RegsKept [R.GLOBAL_SVC_STAT_REFUSED.key] s x ∧ DataKept s x := by
  obtain ⟨p, hx⟩ := ran_cfgWriteBy v ho hs
  obtain ⟨l, hl⟩ := ran_writeHere_low hg hr hw hi checkNow path v { s with pair := p }
  rw [hl] at hx
  have hd := cfgFrame_dataKept hx
  refine leaves_ran rfl ⟨?_, hx.2, hd⟩
  rw [cfgFrame_pathSt hx, pathSt_setPath]
  exact noted_note_same _ _ _

theorem writeWords_two {held : KV Word} {page base : Nat} {lo : Word} (hlo : noted held (regKey page base) = some lo)
    (check : M Unit) (path : Path) (v : Word) (s : State) : writeWords check path held page base v 0 2 s =
      (writeWord check path page base lo >>= fun c => writeWord check path page (base + 4) v >>= fun d => pure (c ++ d)) s := by
  simp [writeWords, hlo]

/-- The write of the highest of two words writes the held lower word, then the word given; they are held no longer. -/
theorem groupWrite_two {path : Path} {page base : Nat} {lo : Word} {s : State}
    (hlo : noted (pathSt s (pathNo path)).held (regKey page base) = some lo) (check : M Unit) (off : Nat) (v : Word) : ∃ q,
    groupWrite check path page off base 1 2 v s =
      (writeWord check path page base lo >>= fun c => writeWord check path page (base + 4) v >>= fun d => pure (c ++ d))
        { s with paths := q } := by
  simp only [groupWrite, if_true, run_get_bind]
  exact ⟨_, writeWords_two hlo check path v _⟩

/-! ### The words of FABRIC.ASSIGN -/

/-- No register of the FABRIC page but CTL starts anything. -/
theorem plainReg_fabric {off : Nat} (h : off ≠ 0x040) : PlainReg 0x20 off := by
  refine ⟨fun s img old v r => by simp [checkWord], ?_, fun check path old new v s => ⟨s.weevil, by simp [written, h]⟩⟩
  simp only [phaseKeys, pgTick, List.map_cons, List.map_nil, List.mem_cons, List.not_mem_nil, regKey, or_false, not_or]
  omega

/-- The FABRIC page holds no mirrored field. -/
theorem fabric_unmirrored : (rowsOfPage 0x20).all (fun r => !r.mir) = true := by decide

theorem rowsAt_fabric (off : Nat) : rowsAt 0x20 off = (rowsOfPage 0x20).filter fun r => r.hit 0x20 off :=
  if_neg fun h => absurd h.1 (by decide)

theorem storeKeys_fabric (off : Nat) : storeKeys 0x20 off = [regKey 0x20 off] := by
  have hnone : (rowsAt 0x20 off).any (·.mir) = false := by
    rw [List.any_eq_false]
    intro r hr
    rw [rowsAt_fabric] at hr
    have hrow : r ∈ rowsOfPage 0x20 := (List.mem_filter.1 hr).1
    simpa using List.all_eq_true.1 fabric_unmirrored r hrow
  simp [storeKeys, hnone]

theorem groupOf_assign (a : Fin 16) :
    groupOf 0x20 (0x104 + 16 * a.val) = some (0x100 + 16 * a.val, 1, 2) := by
  revert a
  decide

theorem groupWritable_assign (a : Fin 16) : groupWritable 0x20 (0x104 + 16 * a.val) = true := by
  have hge : 0x100 ≤ 0x104 + 16 * a.val := by omega
  simp [groupWritable, hge]

theorem rowsAt_assign (a : Fin 16) : rowsAt 0x20 (0x104 + 16 * a.val) ≠ [] := by
  revert a
  decide

/-- A later state that a write of other registers leaves gives the same result of a write. -/
theorem cfgFrame_writeResult {ks : List Nat} {s t : State} (h : (cfgFrame ks).rel s t) {page off : Nat}
    (hreg : regKey page off ∉ ks) (hlock : (pageLock page).key ∉ ks) (hen : R.PAIR_CTL_EN.key ∉ ks)
    (hrole : R.PAIR_STAT_ROLE.key ∉ ks) (path : Path) (v : Word) :
    writeResult path t page off v = writeResult path s page off v := by
  refine writeResult_congr (h.2 _ hreg) ?_ ?_ ?_ (cfgFrame_tick h) path v
  · simp only [pageLocked, regsKept_getF h.2 _ hlock]
  · simp only [isMirror, pairOn, isHub1, regsKept_getF h.2 _ hen, regsKept_getF h.2 _ hrole]
  · simp only [isHub1, regsKept_getF h.2 _ hrole]

theorem cfgFrame_authGated {ks : List Nat} {s t : State} (h : (cfgFrame ks).rel s t) (hb : R.BOOT_STAT_STAGE.key ∉ ks)
    (path : Path) (page : Nat) : authGated t path page = authGated s path page := by
  have hotp : t.otp = s.otp := by rw [h.1]
  simp only [authGated, stage, hotp, regsKept_getF h.2 _ hb]

/-- Two words of the FABRIC page beyond 0x100, written one after the other. -/
theorem writeWord_fabric_two {path : Path} {o₁ o₂ : Nat} {lo hi : Word} {s : State} (h₁ : 0x100 ≤ o₁) (h₂ : 0x100 ≤ o₂)
    (hne : o₁ ≠ o₂) (hg : authGated s path 0x20 = false) (check : M Unit) : ∃ t,
    (writeWord check path 0x20 o₁ lo >>= fun c => writeWord check path 0x20 o₂ hi >>= fun d => pure (c ++ d)) s =
      ((writeResult path s 0x20 o₁ lo).2 ++ (writeResult path s 0x20 o₂ hi).2, t) ∧
    getReg t.regs (regKey 0x20 o₁) = (writeResult path s 0x20 o₁ lo).1 ∧
    getReg t.regs (regKey 0x20 o₂) = (writeResult path s 0x20 o₂ hi).1 ∧
    (cfgFrame [regKey 0x20 o₁, regKey 0x20 o₂]).rel s t := by
  have outside : ∀ k o, 0x100 ≤ o → k < regKey 0x20 0x100 → k ∉ [regKey 0x20 o] := by
    intro k o ho hk
    simp only [List.mem_singleton, regKey] at hk ⊢
    omega
  have hpend : ∀ o, 0x100 ≤ o → regKey 0x20 o ≠ R.PAIR_MIRROR_PEND_N.key := fun o ho e =>
    outside R.PAIR_MIRROR_PEND_N.key o ho (by decide) (e ▸ List.mem_singleton_self _)
  have hdiff : regKey 0x20 o₁ ≠ regKey 0x20 o₂ := by
    simp only [regKey]
    omega
  obtain ⟨t, hw, hreg, hf⟩ := writeWord_plain (plainReg_fabric (by omega : o₁ ≠ 0x040)) hg (hpend _ h₁) check lo
  rw [storeKeys_fabric] at hf
  have hg' : authGated t path 0x20 = false := (cfgFrame_authGated hf (outside _ _ h₁ (by decide)) _ _).trans hg
  have hres : writeResult path t 0x20 o₂ hi = writeResult path s 0x20 o₂ hi :=
    cfgFrame_writeResult hf (by simpa using hdiff.symm) (outside _ _ h₁ (by decide)) (outside _ _ h₁ (by decide))
      (outside _ _ h₁ (by decide)) _ _
  obtain ⟨u, hw', hreg', hf'⟩ := writeWord_plain (plainReg_fabric (by omega : o₂ ≠ 0x040)) hg' (hpend _ h₂) check hi
  rw [storeKeys_fabric] at hf'
  rw [hres] at hw' hreg'
  refine ⟨u, ?_, ?_, hreg', Keeps.trans _ _ _ _ (cfgFrame_mono (by simp) hf) (cfgFrame_mono (by simp) hf')⟩
  · simp only [run_bind, hw, hw', run_pure]
  · rw [hf'.2 _ (by simpa using hdiff), hreg]

/-! ### Addresses of registers -/

theorem caPage_regKey {page off : Nat} (hp : page < 256) (ho : off < 4096) : caPage (regKey page off) = page := by
  simp only [caPage, regKey]
  omega

theorem caOff_regKey {page off : Nat} (ho : off < 4096) : caOff (regKey page off) = off := by
  simp only [caOff, regKey]
  omega

/-- Every path can name an aligned register of this hub. -/
theorem ownCa_regKey {page off : Nat} (hp : page < 256) (ho : off < 4096) (hal : off % 4 = 0) (path : Path) :
    ownCa path (regKey page off) = true := by
  have hlt : regKey page off < 0x200000 := by simp only [regKey]; omega
  have hhub : caHub (regKey page off) = 0 := by simp only [caHub, regKey]; omega
  have hal' : regKey page off % 4 = 0 := by simp only [regKey]; omega
  cases path with
  | partner k => rfl
  | _ => simp [ownCa, hlt, hhub, hal']

/-- The write of the highest word of an ASSIGN entry: both words hold what their fields give, and nothing is refused. -/
theorem ran_writeHere_assign {path : Path} {a : Fin 16} {lo v : Word} {s : State} (hg : authGated s path 0x20 = false)
    (hlo : noted (pathSt s (pathNo path)).held (regKey 0x20 (0x100 + 16 * a.val)) = some lo)
    (h₁ : (writeResult path s 0x20 (0x100 + 16 * a.val) lo).2 = [])
    (h₂ : (writeResult path s 0x20 (0x104 + 16 * a.val) v).2 = []) (check : M Unit) : ∃ q,
    getReg (ran (writeHere check path 0x20 (0x104 + 16 * a.val) v) s).regs (regKey 0x20 (0x100 + 16 * a.val)) =
      (writeResult path s 0x20 (0x100 + 16 * a.val) lo).1 ∧
    getReg (ran (writeHere check path 0x20 (0x104 + 16 * a.val) v) s).regs (regKey 0x20 (0x104 + 16 * a.val)) =
      (writeResult path s 0x20 (0x104 + 16 * a.val) v).1 ∧
    (cfgFrame [regKey 0x20 (0x100 + 16 * a.val), regKey 0x20 (0x104 + 16 * a.val)]).rel { s with paths := q }
      (ran (writeHere check path 0x20 (0x104 + 16 * a.val) v) s) := by
  obtain ⟨q, hq⟩ := groupWrite_two hlo check (0x104 + 16 * a.val) v
  have hword : 0x100 + 16 * a.val + 4 = 0x104 + 16 * a.val := by omega
  have hres : ∀ o w, writeResult path { s with paths := q } 0x20 o w = writeResult path s 0x20 o w := fun o w =>
    writeResult_congr (s := s) (t := { s with paths := q }) rfl rfl rfl rfl rfl path w
  obtain ⟨t, hw, hreg₁, hreg₂, hf⟩ := writeWord_fabric_two (path := path) (o₁ := 0x100 + 16 * a.val) (o₂ := 0x104 + 16 * a.val)
    (lo := lo) (hi := v) (s := { s with paths := q }) (by omega) (by omega) (by omega) hg check
  rw [hres, hres, h₁, h₂] at hw
  rw [hres] at hreg₁ hreg₂
  rw [hword, hw] at hq
  have hrun : ran (writeHere check path 0x20 (0x104 + 16 * a.val) v) s = t := by
    rw [ran, writeHere_group (groupOf_assign a) (rowsAt_assign a) (groupWritable_assign a)]
    simp only [ran, hq, List.append_nil, recordRefusal_none]
  exact ⟨q, hrun ▸ hreg₁, hrun ▸ hreg₂, hrun ▸ hf⟩

/-- A write of the highest word of an ASSIGN entry writes the value as a whole (R13). -/
theorem highWrite_assign {path : Path} {a : Fin 16} {lo v : Word} {s : State}
    (hlo : noted (pathSt s (pathNo path)).held (regKey 0x20 (0x100 + 16 * a.val)) = some lo)
    (h₁ : accepted path 0x20 (0x100 + 16 * a.val) lo s = true) (h₂ : accepted path 0x20 (0x104 + 16 * a.val) v s = true) :
    Leaves (.multiWordHighWrite path (BitVec.ofNat 24 (regKey 0x20 (0x104 + 16 * a.val))) v) s fun x =>
      getReg x.regs (regKey 0x20 (0x100 + 16 * a.val)) = (writeResult path s 0x20 (0x100 + 16 * a.val) lo).1 ∧
      getReg x.regs (regKey 0x20 (0x104 + 16 * a.val)) = (writeResult path s 0x20 (0x104 + 16 * a.val) v).1 ∧
      RegsKept [regKey 0x20 (0x100 + 16 * a.val), regKey 0x20 (0x104 + 16 * a.val), R.GLOBAL_SVC_STAT_REFUSED.key] s x ∧
      DataKept s x := by
  have ha := a.isLt
  obtain ⟨hs, hc₁⟩ := Bool.and_eq_true_iff.1 h₁
  obtain ⟨-, hc₂⟩ := Bool.and_eq_true_iff.1 h₂
  have hca : (BitVec.ofNat 24 (regKey 0x20 (0x104 + 16 * a.val))).toNat = regKey 0x20 (0x104 + 16 * a.val) := by
    rw [BitVec.toNat_ofNat, Nat.mod_eq_of_lt (by simp only [regKey]; omega)]
  have ho := ownCa_regKey (page := 0x20) (off := 0x104 + 16 * a.val) (by omega) (by omega) (by omega) path
  have hpage := caPage_regKey (page := 0x20) (off := 0x104 + 16 * a.val) (by omega) (by omega)
  have hoff := caOff_regKey (page := 0x20) (off := 0x104 + 16 * a.val) (by omega)
  obtain ⟨p, hx⟩ := ran_cfgWriteBy v ho (by rwa [hpage])
  rw [hpage, hoff] at hx
  obtain ⟨q, hreg₁, hreg₂, hf⟩ := ran_writeHere_assign (s := { s with pair := p }) (served_ungated (s := s) hs) hlo
    (by rw [writeResult_pair]; exact beq_iff_eq.1 hc₁) (by rw [writeResult_pair]; exact beq_iff_eq.1 hc₂) checkNow
  rw [writeResult_pair] at hreg₁ hreg₂
  have hall := Keeps.trans (cfgFrame [regKey 0x20 (0x100 + 16 * a.val), regKey 0x20 (0x104 + 16 * a.val),
    R.GLOBAL_SVC_STAT_REFUSED.key]) _ _ _ (cfgFrame_mono (by simp) hf) (cfgFrame_mono (by simp) hx)
  have hne : ∀ o, regKey 0x20 o ∉ [R.GLOBAL_SVC_STAT_REFUSED.key] := by
    intro o
    simp only [List.mem_singleton, regKey, Fld.key, R.GLOBAL_SVC_STAT_REFUSED]
    omega
  have hd := cfgFrame_dataKept hall
  refine leaves_ran rfl ?_
  rw [hca]
  refine ⟨?_, ?_, hall.2, hd⟩
  · rw [hx.2 _ (hne _), hreg₁]
  · rw [hx.2 _ (hne _), hreg₂]

/-- Settles O10: the latch holds what the value's words show, and a write takes the held words with the highest. -/
theorem multiWordValues : Obligations.MultiWordValues :=
  ⟨fun _ _ _ _ _ ho hs hg hr => lowRead_latches ho hs hg hr,
    fun _ _ _ _ _ _ _ ho hs hp hg hi hr hw => highRead_latched ho hs hp hg hi hr hw,
    fun _ _ _ _ _ _ _ ho hs hg hi hw hr => lowWrite_holds ho hs hg hi hw hr,
    fun _ _ _ _ _ hlo h₁ h₂ => highWrite_assign hlo h₁ h₂⟩

end Sys2Proof.Machine
end

section
/-! SUPPORT. Frames that look at no register and at nothing that is sent: what the counting, reporting and sending actions
keep. -/

namespace Sys2Proof.Machine

/-- An event of a page changes IRQ_RAW and IRQ_STAT of the page, and the pages that wait for their delivery. -/
theorem ran_raise (page bit : Nat) (s : State) : ∃ r q, ran (raise page bit) s = { s with regs := r, intQ := q } ∧
    ∀ k, k ≠ regKey page offIrqRaw → k ≠ regKey page offIrqStat → getReg r k = getReg s.regs k := by
  obtain ⟨r, hr, hkept⟩ : ∃ r, ran (raise page bit) s = (if !isPending s page && isPending { s with regs := r } page
        then { s with regs := r, intQ := s.intQ ++ [page] } else { s with regs := r }) ∧
      ∀ k, k ≠ regKey page offIrqRaw → k ≠ regKey page offIrqStat → getReg r k = getReg s.regs k := by
    refine ⟨_, rfl, fun k hraw hstat => ?_⟩
    split
    · rw [getReg_setReg_ne _ _ hstat, getReg_setReg_ne _ _ hraw]
    · rw [getReg_setReg_ne _ _ hraw]
  rw [hr]
  split
  · exact ⟨r, _, rfl, hkept⟩
  · exact ⟨r, _, rfl, hkept⟩

/-- The frame looks at no register, at no interrupt that waits for its delivery and at no open value, and at nothing that
is sent to the partner or off the hub. -/
structure Keeps.Open (F : Keeps) : Prop where
  regs : ∀ s r q u, F.rel s { s with regs := r, intQ := q, free := u }
  sent : ∀ s p o, F.rel s { s with pair := p, outs := o }

namespace Keeps.Open

variable {F : Keeps} (h : F.Open)
include h

theorem wrF (f : Fld) (v : Nat) : Within F (wrF f v) := fun s => h.regs s _ _ _

theorem addF (f : Fld) (n : Nat) : Within F (addF f n) := fun s => h.regs s _ _ _

theorem incF (f : Fld) : Within F (incF f) := h.addF f 1

theorem maxF (f : Fld) (v : Nat) : Within F (maxF f v) := by
  intro s
  unfold Machine.maxF
  dsimp only
  split
  · exact h.regs s _ _ _
  · exact F.refl s

theorem wrReg (p o : Nat) (v : Word) : Within F (wrReg p o v) := fun s => h.regs s _ _ _

theorem raise (page bit : Nat) : Within F (raise page bit) := by
  intro s
  obtain ⟨r, q, hrun, -⟩ := ran_raise page bit s
  rw [← ran, hrun]
  exact h.regs s r q s.free

theorem drawWord : Within F drawWord := fun s => h.regs s _ _ _

theorem drawBool : Within F drawBool := fun s => h.regs s _ _ _

theorem errCap (page code c1 c2 : Nat) : Within F (errCap page code c1 c2) :=
  Within.bind (Within.rdB _ _) fun _ => Within.ite (h.incF _)
    (Within.bind (h.wrF _ _) fun _ => Within.bind (h.wrF _ _) fun _ => Within.bind (h.wrF _ _) fun _ =>
      Within.bind (h.wrReg _ _ _) fun _ => Within.bind (h.wrReg _ _ _) fun _ => Within.bind (Within.rdF _ _) fun _ =>
      h.wrReg _ _ _)

theorem errCapOpen (page code c1 u1 c2 u2 : Nat) : Within F (errCapOpen page code c1 u1 c2 u2) :=
  Within.bind h.drawWord fun _ => Within.bind h.drawWord fun _ => h.errCap _ _ _ _

theorem ofSend {m : M Unit} (hm : Within sendFrame m) : Within F m := by
  intro s
  rw [show (m s).2 = { s with pair := (m s).2.pair, outs := (m s).2.outs } from hm s]
  exact h.sent s _ _

theorem emit (o : Out) : Within F (emit o) := h.ofSend (sendFrame_emit o)

theorem toPartner (m : PairMsg) : Within F (toPartner m) := h.ofSend (sendFrame_toPartner m)

theorem sendPair (m : PairMsg) : Within F (sendPair m) := h.ofSend (sendFrame_sendPair m)

theorem perf (ev : Nat) (src ten : Option Nat) : Within F (perf ev src ten) :=
  Within.each _ _ fun _ _ => Within.bind (Within.rdF _ _) fun _ => Within.bind (Within.rdF _ _) fun _ =>
    Within.bind (Within.rdF _ _) fun _ => Within.bind (Within.rdF _ _) fun _ => Within.onlyIf (h.addF _ _)

/-! ### The records of a loss (15 R687-R689) -/

theorem ringDoorbell (t b : Nat) : Within F (ringDoorbell t b) :=
  Within.bind (Within.get _) fun _ => Within.ite (Within.bind (Within.rdF _ _) fun _ => h.wrF _ _)
    (Within.ite (h.sendPair _) (h.incF _))

theorem logLoss (kind line : Nat) : Within F (logLoss kind line) :=
  Within.bind (Within.rdF _ _) fun _ => Within.bind (Within.rdF _ _) fun _ => Within.bind (h.wrF _ _) fun _ =>
    Within.bind (h.wrF _ _) fun _ => Within.bind (h.wrF _ _) fun _ => Within.bind (h.wrF _ _) fun _ => h.wrF _ _

theorem lossEffects (kind line : Nat) : Within F (lossEffects kind line) := by
  unfold Machine.lossEffects
  extract_lets notify record
  have hnotify : ∀ u, Within F (notify u) := fun _ => h.raise _ _
  have hrecord : ∀ u, Within F (record u) := by
    refine fun _ => Within.bind (Within.get _) fun s => ?_
    split
    · exact hnotify ()
    · extract_lets t owner
      have howner : ∀ u, Within F (owner u) := fun _ => Within.bind (h.wrF _ _) fun _ => Within.bind (h.wrF _ _) fun _ =>
        Within.bind (Within.rdB _ _) fun _ => Within.ite
          (Within.bind (Within.rdF _ _) fun _ => Within.bind (h.ringDoorbell _ _) hnotify) (hnotify ())
      exact Within.ite (Within.bind (h.incF _) howner) (Within.bind (h.incF _) howner)
  exact Within.ite (Within.bind (h.incF _) hrecord)
    (Within.ite (Within.bind (h.incF _) hrecord) (Within.bind (h.incF _) hrecord))

theorem loss (kind line : Nat) : Within F (loss kind line) :=
  Within.bind (h.logLoss _ _) fun _ => h.lossEffects _ _

theorem lossNoHa (kind val : Nat) : Within F (lossNoHa kind val) :=
  Within.bind (h.logLoss _ _) fun _ => h.raise _ _

end Keeps.Open

end Sys2Proof.Machine
end

section
/-! SUPPORT. A unit of 10 ns (log 1): the arbiter's cycle, the counters and the checks of the Mantis keep time, tick and stored
data. -/

namespace Sys2Proof.Machine

/-! ### The frame of the engines that move no data -/

/-- Time, the tick and the stored data are as they were. -/
def timeFrame : Keeps := keepFrame fun s => (s.now, s.tick, s.mem, s.memChk, s.slots, s.ebuf, s.dir, s.flash)

theorem timeFrame_open : timeFrame.Open := ⟨fun _ _ _ _ => rfl, fun _ _ _ => rfl⟩

theorem timeFrame_facts {s t : State} (h : timeFrame.rel s t) : t.now = s.now ∧ t.tick = s.tick ∧ DataKept s t := by
  simpa [timeFrame, keepFrame] using h

/-! ### Messages to agents (04, 05 R209) -/

theorem timeFrame_setPort (p : Nat) (f : Port → Port) : Within timeFrame (setPort p f) := fun _ => rfl

theorem timeFrame_sendFlits (lk : LinkSel) (os : List Out) : Within timeFrame (sendFlits lk os) := by
  cases lk <;> exact fun _ => rfl

theorem timeFrame_trace (p hdr opcode tag : Nat) (sent : Bool) : Within timeFrame (trace p hdr opcode tag sent) := by
  have h := timeFrame_open
  exact Within.bind (Within.get _) fun _ => Within.ite
    (Within.bind (h.wrF _ _) fun _ => Within.bind (h.wrF _ _) fun _ => Within.bind (h.wrF _ _) fun _ =>
      Within.bind (h.wrF _ _) fun _ => Within.bind (h.wrF _ _) fun _ => h.wrF _ _) (Within.pure _ _)

theorem timeFrame_holdSent (p tag : Nat) : Within timeFrame (holdSent p tag) := by
  refine Within.bind (Within.get _) fun s => ?_
  split
  · extract_lets note
    have hnote : ∀ u, Within timeFrame (note u) := fun _ => timeFrame_setPort _ _
    exact Within.ite (Within.bind (timeFrame_open.incF _) hnote) (hnote ())
  · exact Within.pure _ _

/-- A measurement changes the live cells alone. -/
theorem liveCell_run (off ns : Nat) (s : State) : ∃ l, liveCell off ns s = ((), { s with live := l }) := ⟨_, rfl⟩

theorem timeFrame_liveCell (off ns : Nat) : Within timeFrame (liveCell off ns) := by
  intro s
  obtain ⟨l, hl⟩ := liveCell_run off ns s
  rw [hl]
  rfl

theorem timeFrame_measure (cls p t ns : Nat) : Within timeFrame (measure cls p t ns) := by
  have cell := fun off => timeFrame_liveCell off ns
  exact Within.bind (Within.rdB _ _) fun _ => Within.ite
    (Within.bind (cell _) fun _ => Within.bind (cell _) fun _ => Within.ite (cell _) (Within.pure _ _)) (Within.pure _ _)

theorem timeFrame_onSent (p : Nat) (m : Msg) : Within timeFrame (onSent p m) := by
  have h := timeFrame_open
  refine Within.bind (Within.get _) fun s => ?_
  extract_lets pt free last early
  have hfree : ∀ u, Within timeFrame (free u) := fun _ => timeFrame_setPort _ _
  have hlast : ∀ u, Within timeFrame (last u) := by
    refine fun _ => Within.ite (Within.bind (h.perf _ _ _) fun _ => ?_) (Within.ite ?_ (Within.pure _ _))
    · split
      · exact timeFrame_setPort _ _
      · exact Within.pure _ _
    · split
      · exact Within.bind (timeFrame_measure _ _ _ _) fun _ =>
          Within.ite (Within.bind (timeFrame_setPort _ _) hfree) (hfree ())
      · exact Within.pure _ _
  have hearly : ∀ u, Within timeFrame (early u) := fun _ =>
    Within.ite (Within.bind (h.perf _ _ _) fun _ => Within.bind (Within.modify fun _ => rfl) hlast) (hlast ())
  exact Within.ite (Within.bind (h.perf _ _ _) fun _ => Within.bind (timeFrame_holdSent _ _) hearly) (hearly ())

theorem timeFrame_transmit (p : Nat) (m : Msg) : Within timeFrame (transmit p m) :=
  Within.bind (Within.get _) fun _ => Within.bind (timeFrame_setPort _ _) fun _ =>
    Within.bind (timeFrame_sendFlits _ _) fun _ => Within.bind (timeFrame_trace _ _ _ _ _) fun _ => timeFrame_onSent _ _

theorem timeFrame_pumpList (p : Nat) (q : List Msg) : ∀ b, Within timeFrame (pumpList p q b) := by
  induction q with
  | nil => exact fun _ => Within.pure _ _
  | cons m t ih =>
    exact fun b => Within.bind (Within.get _) fun s => Within.ite
      (Within.bind (timeFrame_transmit _ _) fun _ => ih _) (Within.bind (timeFrame_setPort _ _) fun _ => ih _)

theorem timeFrame_sendMsg (p : Nat) (m : Msg) : Within timeFrame (sendMsg p m) :=
  Within.bind (timeFrame_setPort _ _) fun _ => Within.bind (Within.get _) fun _ =>
    Within.bind (timeFrame_setPort _ _) fun _ => timeFrame_pumpList _ _ _

theorem timeFrame_answer (r : Req) (op spec : Nat) (data : LineData) : Within timeFrame (answer r op spec data) := by
  unfold answer
  refine Within.ite (Within.pure _ _) ?_
  cases r.src with
  | port p => exact timeFrame_sendMsg _ _
  | pair a => exact timeFrame_open.toPartner _
  | pairEng q => exact timeFrame_open.toPartner _
  | eng q => exact Within.pure _ _

/-! ### The Mantis (10 R453-R459) -/

theorem timeFrame_dropWait (r : Req) (holder : Nat) : Within timeFrame (dropWait r holder) := by
  have drop : ∀ a, Within timeFrame (do
      if graphHere (← get) then unapplyEdge r.agent r.tag r.line else toPartner a) := fun _ =>
    Within.bind (Within.get _) fun _ => Within.ite (Within.modify fun _ => rfl) (timeFrame_open.toPartner _)
  unfold dropWait
  cases r.src with
  | port p => exact drop _
  | pair a => exact drop _
  | pairEng q => exact Within.pure _ _
  | eng q => exact Within.pure _ _

theorem timeFrame_leaveChain (r : Req) : Within timeFrame (leaveChain r) := by
  have drop : Within timeFrame (modify fun s => { s with chain := s.chain.filter fun x => x.id != r.id } : M Unit) :=
    Within.modify fun _ => rfl
  refine Within.bind (Within.get _) fun s => ?_
  split
  · exact Within.bind (timeFrame_dropWait _ _) fun _ => drop
  · exact drop

theorem timeFrame_breakHere (agent tag line : Nat) : Within timeFrame (breakHere agent tag line) := by
  refine Within.bind (Within.get _) fun s => ?_
  split
  · exact Within.pure _ _
  · exact Within.bind (timeFrame_leaveChain _) fun _ => Within.bind (timeFrame_open.incF _) fun _ => Within.ite
      (Within.bind (timeFrame_open.incF _) fun _ => timeFrame_answer _ _ _ _)
      (Within.bind (timeFrame_open.incF _) fun _ => timeFrame_answer _ _ _ _)

theorem timeFrame_breakCycle (w : Wait) (len src : Nat) : Within timeFrame (breakCycle w len src) := by
  have h := timeFrame_open
  have noted : Within timeFrame (modify fun s => { s with breaks := s.breaks ++ [w] } : M Unit) := Within.modify fun _ => rfl
  exact Within.bind (Within.get _) fun _ => Within.bind (h.incF _) fun _ => Within.bind (h.wrF _ _) fun _ =>
    Within.bind (h.wrF _ _) fun _ => Within.bind (h.wrF _ _) fun _ => Within.bind (h.wrF _ _) fun _ =>
    Within.bind (h.wrF _ _) fun _ => Within.bind (h.raise _ _) fun _ => Within.ite
      (Within.bind noted fun _ => h.toPartner _) (Within.bind noted fun _ => timeFrame_breakHere _ _ _)

theorem timeFrame_checkEdge (a b src n : Nat) : Within timeFrame (checkEdge a b src n) := by
  induction n with
  | zero => exact Within.pure _ _
  | succ n ih =>
    refine Within.bind (Within.get _) fun s => Within.ite ?_ (Within.pure _ _)
    split
    · exact Within.pure _ _
    · split
      · exact Within.pure _ _
      · exact Within.bind (timeFrame_breakCycle _ _ _) fun _ => ih

theorem timeFrame_runChecks (n : Nat) : Within timeFrame (runChecks n) := by
  induction n with
  | zero => exact Within.pure _ _
  | succ n ih =>
    refine Within.bind (Within.rdF _ _) fun _ => Within.ite (Within.pure _ _) (Within.bind (Within.get _) fun s => ?_)
    split
    · exact Within.pure _ _
    · exact Within.bind (Within.modify fun _ => rfl) fun _ => Within.bind (timeFrame_checkEdge _ _ _ _) fun _ => ih

/-! ### The unit -/

theorem timeFrame_holderCycle : Within timeFrame holderCycle := by
  refine Within.bind (Within.get _) fun s => ?_
  split
  · exact Within.onlyIf (Within.bind (Within.bind (Within.modify fun _ => rfl) fun _ => timeFrame_open.wrF _ _) fun _ =>
      Within.modify fun _ => rfl)
  · exact Within.pure _ _

theorem timeFrame_unitCounts : Within timeFrame unitCounts := by
  have h := timeFrame_open
  exact Within.bind (Within.get _) fun _ => Within.bind (Within.onlyIf (h.addF _ _)) fun _ =>
    Within.bind (Within.onlyIf (h.addF _ _)) fun _ => Within.each _ _ fun _ _ =>
    Within.bind (Within.rdF _ _) fun _ => Within.onlyIf (h.addF _ _)

/-- The clock and the offset of a running tick go on by one unit; the rest of the unit keeps them. -/
theorem ran_idleUnit (s : State) : timeFrame.rel
    { s with now := s.now + 10, tick := if s.tick.running then { s.tick with offset := s.tick.offset + 1 } else s.tick }
    (ran idleUnit s) := by
  have rest : Within timeFrame (do
      if isRunning (← get) then
        unitCounts
        holderCycle
        runChecks 17) :=
    Within.bind (Within.get _) fun _ => Within.ite (Within.bind timeFrame_unitCounts fun _ =>
      Within.bind timeFrame_holderCycle fun _ => timeFrame_runChecks _) (Within.pure _ _)
  exact rest _

/-- Settles O2: the unit is its own first action, and what follows keeps time, tick and data. -/
theorem idleStepCountsTime : Obligations.IdleStepCountsTime := by
  intro s hq
  obtain ⟨hnow, htick, hdata⟩ := timeFrame_facts (ran_idleUnit s)
  refine ⟨ran idleUnit s, ?_, hnow, ?_, ?_, hdata⟩
  · simp only [step, hq]
    rfl
  · rw [htick]
    split <;> rfl
  · rw [htick]
    split <;> rfl

end Sys2Proof.Machine
end

section
/-! SUPPORT. The image loader on hub 1 passes over the mirrored fields (16 R737; 12 R532). -/

namespace Sys2Proof.Machine

/-- What an action leaves in a field outside the reach of deliveries is what its command leaves there. -/
theorem endsIn_getF {c : Instr} {s x : State} {m : M Unit} (hc : exec c s = finish m s) (h : EndsIn c s x) {f : Fld}
    (hf : deliveryKey f.key = false) : getF x f = getF (ran m s) f := by
  have hx : getF (settled s x) f = getF x f := settle_getF x f hf
  rw [← hx]
  exact finish_getF m s _ (hc ▸ h) f hf

/-- Hub 1 in stage LOAD. -/
def loadingHub1 : State := sets State.reset [(R.BOOT_STAT_STAGE, 1), (R.PAIR_STAT_ROLE, 1)]

/-- Refutes O11: in stage LOAD of hub 1 a record of the image gives PERIOD 250 µs. The write is taken and no field of it is
refused, and by R737 the loader passes over the mirrored field, so PERIOD stays at its 20 µs. -/
theorem not_tickRegistersAct : ¬ Obligations.TickRegistersAct := by
  unfold Obligations.TickRegistersAct
  rintro ⟨-, -, -, hperiod, -⟩
  obtain ⟨x, hx, hset, -⟩ :=
    hperiod .image 25000 loadingHub1 (by decide +kernel) (by decide +kernel) (by decide +kernel)
  have hkept : getF (ran (cfgWriteBy .image R.TICK_PERIOD_NS10.key 25000) loadingHub1) R.TICK_PERIOD_NS10 = 2000 := by
    decide +kernel
  rw [endsIn_getF (m := cfgWriteBy .image R.TICK_PERIOD_NS10.key 25000) rfl hx (by decide), hkept] at hset
  exact absurd hset (by decide)

end Sys2Proof.Machine
end

section
/-! SUPPORT. Frames of register writes: one field, and the registers of chosen keys with everything that is no register. -/

namespace Sys2Proof.Machine

/-! ### One field -/

/-- The field is as it was. -/
def fieldFrame (f : Fld) : Keeps := keepFrame fun s => getF s f

theorem fieldFrame_wrF {f g : Fld} (v : Nat) (hok : g.lo + g.w ≤ 32)
    (h : g.key ≠ f.key ∨ g.lo + g.w ≤ f.lo ∨ f.lo + f.w ≤ g.lo) : Within (fieldFrame f) (wrF g v) :=
  fun s => getF_setF_apart s g f v hok h

theorem fieldFrame_incF {f g : Fld} (hok : g.lo + g.w ≤ 32)
    (h : g.key ≠ f.key ∨ g.lo + g.w ≤ f.lo ∨ f.lo + f.w ≤ g.lo) : Within (fieldFrame f) (incF g) :=
  fun s => getF_setF_apart s g f _ hok h

theorem fieldFrame_raise {f : Fld} {page : Nat} (bit : Nat) (hraw : f.key ≠ regKey page offIrqRaw)
    (hstat : f.key ≠ regKey page offIrqStat) : Within (fieldFrame f) (raise page bit) := by
  intro s
  obtain ⟨r, q, hrun, hkept⟩ := ran_raise page bit s
  rw [← ran, hrun]
  exact congrArg (fieldOf · f.lo f.w) (hkept _ hraw hstat)

/-- A counter goes on by one until it is at its greatest value. -/
theorem getF_incF (s : State) (f : Fld) (h : f.lo + f.w ≤ 32) : getF (ran (incF f) s) f = min (getF s f + 1) (2 ^ f.w - 1) := by
  have hlt : min (getF s f + 1) (2 ^ f.w - 1) < 2 ^ f.w := by
    have := Nat.two_pow_pos f.w
    omega
  exact (getF_setF_same s f _ h).trans (Nat.mod_eq_of_lt hlt)

/-- A field that was written shows a value that fits it. -/
theorem getF_wrF {f : Fld} {v : Nat} (s : State) (h : f.lo + f.w ≤ 32) (hv : v < 2 ^ f.w) : getF (ran (wrF f v) s) f = v :=
  (getF_setF_same s f v h).trans (Nat.mod_eq_of_lt hv)

/-! ### The registers of chosen keys -/

/-- The registers of the keys `K` are as they were, and so is all that is no register, but for the interrupts that wait for
their delivery, the open values and what is sent to the partner. -/
def regFrame (K : Nat → Bool) : Keeps where
  rel s t := t = { s with regs := t.regs, intQ := t.intQ, free := t.free, pair := t.pair, outs := t.outs } ∧
    ∀ k, K k = true → getReg t.regs k = getReg s.regs k
  refl _ := ⟨rfl, fun _ _ => rfl⟩
  trans a b c h k := by
    obtain ⟨h, hr⟩ := h
    obtain ⟨k, kr⟩ := k
    rw [h] at k
    exact ⟨k, fun i hi => (kr i hi).trans (hr i hi)⟩

variable {K : Nat → Bool} {s t : State}

theorem regFrame_dataKept (h : (regFrame K).rel s t) : DataKept s t := by
  rw [h.1]; exact ⟨rfl, rfl, rfl, rfl, rfl, rfl⟩

theorem regFrame_tick (h : (regFrame K).rel s t) : t.tick = s.tick := by rw [h.1]
theorem regFrame_fv (h : (regFrame K).rel s t) : t.fv = s.fv := by rw [h.1]
theorem regFrame_evt (h : (regFrame K).rel s t) : t.evt = s.evt := by rw [h.1]
theorem regFrame_weevil (h : (regFrame K).rel s t) : t.weevil = s.weevil := by rw [h.1]

theorem regFrame_getF (h : (regFrame K).rel s t) {f : Fld} (hf : K f.key = true) : getF t f = getF s f := by
  unfold getF
  rw [h.2 _ hf]

theorem regFrame_setReg (s : State) {k : Nat} (v : Word) (h : K k = false) : (regFrame K).rel s { s with regs := setReg s.regs k v } :=
  ⟨rfl, fun _ hj => getReg_setReg_ne _ _ fun e => by simp [← e, hj] at h⟩

theorem regFrame_wrF {f : Fld} (v : Nat) (h : K f.key = false) : Within (regFrame K) (wrF f v) := fun s => regFrame_setReg s _ h

theorem regFrame_wrReg {p o : Nat} (v : Word) (h : K (regKey p o) = false) : Within (regFrame K) (wrReg p o v) :=
  fun s => regFrame_setReg s _ h

theorem regFrame_addF {f : Fld} (n : Nat) (h : K f.key = false) : Within (regFrame K) (addF f n) := fun s => regFrame_setReg s _ h

theorem regFrame_incF {f : Fld} (h : K f.key = false) : Within (regFrame K) (incF f) := regFrame_addF 1 h

theorem regFrame_maxF {f : Fld} (v : Nat) (h : K f.key = false) : Within (regFrame K) (maxF f v) := by
  intro s
  unfold maxF
  dsimp only
  split
  · exact regFrame_setReg s _ h
  · exact Keeps.refl _ s

theorem regFrame_raise {page : Nat} (bit : Nat) (hraw : K (regKey page offIrqRaw) = false) (hstat : K (regKey page offIrqStat) = false) :
    Within (regFrame K) (raise page bit) := by
  intro s
  obtain ⟨r, q, hrun, hkept⟩ := ran_raise page bit s
  rw [← ran, hrun]
  exact ⟨rfl, fun k hk => hkept k (fun e => by simp [← e, hk] at hraw) fun e => by simp [← e, hk] at hstat⟩

theorem regFrame_drawWord : Within (regFrame K) drawWord := fun _ => ⟨rfl, fun _ _ => rfl⟩

theorem regFrame_drawBool : Within (regFrame K) drawBool := fun _ => ⟨rfl, fun _ _ => rfl⟩

theorem regFrame_ofSend {m : M Unit} (hm : Within sendFrame m) : Within (regFrame K) m := by
  intro s
  rw [show (m s).2 = { s with pair := (m s).2.pair, outs := (m s).2.outs } from hm s]
  exact ⟨rfl, fun _ _ => rfl⟩

theorem regFrame_errCapFree {page : Nat} (code : Nat) (h : ∀ k ∈ capKeys page, K k = false) :
    Within (regFrame K) (errCapFree page code) := by
  have key : ∀ {o}, o ∈ [0x020, 0x024, 0x028, 0x02C] → K (regKey page o) = false := fun ho => h _ (List.mem_map_of_mem ho)
  have cap : ∀ c1 c2, Within (regFrame K) (errCap page code c1 c2) := fun c1 c2 =>
    Within.bind (Within.rdB _ _) fun _ => Within.ite (regFrame_incF (key (o := 0x020) (by decide)))
      (Within.bind (regFrame_wrF _ (key (o := 0x020) (by decide))) fun _ =>
        Within.bind (regFrame_wrF _ (key (o := 0x020) (by decide))) fun _ =>
        Within.bind (regFrame_wrF _ (key (o := 0x020) (by decide))) fun _ =>
        Within.bind (regFrame_wrReg _ (key (o := 0x024) (by decide))) fun _ =>
        Within.bind (regFrame_wrReg _ (key (o := 0x028) (by decide))) fun _ =>
        Within.bind (Within.rdF _ _) fun _ => regFrame_wrReg _ (key (o := 0x02C) (by decide)))
  exact Within.bind regFrame_drawWord fun _ => Within.bind regFrame_drawWord fun _ => cap _ _

/-- The registers of other pages than those of the list, and of the keys. -/
def offPages (ps ks : List Nat) (k : Nat) : Bool := !ps.contains (k / 4096) || ks.contains k

theorem regFrame_mono {ps qs ks js : List Nat} (h : ps ⊆ qs) (hk : js ⊆ ks) (hr : (regFrame (offPages ps ks)).rel s t) :
    (regFrame (offPages qs js)).rel s t := by
  refine ⟨hr.1, fun k hk' => hr.2 k ?_⟩
  simp only [offPages, Bool.or_eq_true, Bool.not_eq_true', List.contains_eq_mem, decide_eq_false_iff_not, decide_eq_true_eq] at hk' ⊢
  exact hk'.imp (fun n m => n (h m)) fun m => hk m

theorem regFrame_pagesKept {ps ks : List Nat} (h : (regFrame (offPages ps ks)).rel s t) : PagesKept ps s t :=
  fun k hk => h.2 k (by simp [offPages, hk])

theorem regFrame_getF_mem {ps ks : List Nat} (h : (regFrame (offPages ps ks)).rel s t) {f : Fld} (hf : f.key ∈ ks) :
    getF t f = getF s f := regFrame_getF h (by simp [offPages, hf])

end Sys2Proof.Machine
end

section
/-! SUPPORT. The housekeeping slice (02 R43; 09 R419, R421). -/

namespace Sys2Proof.Machine

theorem doScrub_none (n b : Nat) (s : State) : doScrub n 0 b s = (0, s) := by
  cases n <;> rfl

/-- A slice with no line, slot or set to visit only starts. -/
theorem ran_sliceStart_idle {s : State} (hrun : s.tick.running = true) (hon : weevilOn s = true) (hdone : s.tick.hkDone = false)
    (hdue : phaseAt s s.tick.hkStart ≤ s.tick.offset) (hopen : stretchOpen s = false) (hrev : s.weevil.revisit = [])
    (haud : getF s R.DIR_CTL_AUDIT_EN = 0) (hlines : s.weevil.linesInForce = 0) (hhc : s.weevil.hcInForce = 0) :
    ran doSliceStart s = { s with
      tick := { s.tick with hkDone := true }, weevil := { s.weevil with done := 0, inSlice := true, cut := false } } := by
  have now : (s.tick.running && weevilOn s && !s.tick.hkDone && !stretchOpen s &&
      decide (phaseAt s s.tick.hkStart ≤ s.tick.offset)) = true := by
    simp [hrun, hon, hdone, hopen, hdue]
  have hlist : ∀ c : Bool, (if c then s.weevil.revisit else []) = [] := by simp [hrev]
  have hsweep : ∀ c : Bool, (if c then s.weevil.hcInForce else 0) = 0 := by simp [hhc]
  have hscrub : ∀ c : Bool, (if c then s.weevil.linesInForce else 0) = 0 := by simp [hlines]
  have hsets : (if getF s R.DIR_CTL_AUDIT_EN = 1 then getF s R.DIR_AUDIT_SETS else 0) = 0 := by simp [haud]
  rw [ran, doSliceStart, run_get_bind, run_ite, if_pos now]
  simp only [run_bind, run_modify, hlist, hsweep, hscrub, hsets, doRevisit, doAudit, doSweep, doScrub_none, run_pure]
  simp [hrev]

/-- A slice that has made fewer steps than LINES counts that (09 R421). -/
def countShort (s : State) : M Unit := do
  if s.weevil.done < s.weevil.linesInForce then
    incF R.SCRUB_SHORT_CNT_CNT
    raise pgScrub 3

/-- The end of a slice cut short, action by action. -/
theorem ran_sliceEnd_cut {s : State} (hrun : s.tick.running = true) (hin : s.weevil.inSlice = true)
    (hdue : phaseAt s (s.tick.hkStart + s.tick.hkLen) ≤ s.tick.offset) (hcut : s.weevil.cut = true) :
    ran doSliceEnd s = ran (do raise pgTick 4; countShort s) (ran (incF R.TICK_HK_SHORT_CNT_CNT)
      (ran (wrF R.SCRUB_DONE_LAST_N s.weevil.done) { s with weevil := { s.weevil with inSlice := false, cut := false } })) := by
  have now : (s.tick.running && s.weevil.inSlice && decide (phaseAt s (s.tick.hkStart + s.tick.hkLen) ≤ s.tick.offset)) = true := by
    simp [hrun, hin, hdue]
  rw [ran, doSliceEnd, run_get_bind, run_ite, if_pos now, run_bind, run_bind, if_pos hcut]
  rfl

theorem sliceEnd_cut {s : State} (hrun : s.tick.running = true) (hin : s.weevil.inSlice = true)
    (hdue : phaseAt s (s.tick.hkStart + s.tick.hkLen) ≤ s.tick.offset) (hcut : s.weevil.cut = true)
    (hsteps : s.weevil.done < 2 ^ 13) : Leaves .housekeepingSliceEnd s fun x =>
      x.weevil = { s.weevil with inSlice := false, cut := false } ∧ getF x R.SCRUB_DONE_LAST_N = s.weevil.done ∧
      getF x R.TICK_HK_SHORT_CNT_CNT = min (getF s R.TICK_HK_SHORT_CNT_CNT + 1) (2 ^ 32 - 1) ∧
      PagesKept [0x01, 0x33] s x ∧ DataKept s x := by
  refine leaves_ran (m := doSliceEnd) rfl ?_
  rw [ran_sliceEnd_cut hrun hin hdue hcut]
  generalize hs1 : ({ s with weevil := { s.weevil with inSlice := false, cut := false } } : State) = s1
  have hstored : (regFrame (offPages [0x01, 0x33] [R.TICK_HK_SHORT_CNT_CNT.key])).rel s1
      (ran (wrF R.SCRUB_DONE_LAST_N s.weevil.done) s1) := regFrame_wrF _ (by decide) s1
  have hdone : getF (ran (wrF R.SCRUB_DONE_LAST_N s.weevil.done) s1) R.SCRUB_DONE_LAST_N = s.weevil.done :=
    getF_wrF s1 (by decide) (Nat.lt_trans hsteps (by decide))
  generalize ran (wrF R.SCRUB_DONE_LAST_N s.weevil.done) s1 = s2 at *
  have hcounted : (regFrame (offPages [0x01, 0x33] [R.SCRUB_DONE_LAST_N.key])).rel s2
      (ran (incF R.TICK_HK_SHORT_CNT_CNT) s2) := regFrame_incF (by decide) s2
  have hcount := getF_incF s2 R.TICK_HK_SHORT_CNT_CNT (by decide)
  generalize ran (incF R.TICK_HK_SHORT_CNT_CNT) s2 = s3 at *
  have hrest : (regFrame (offPages [0x01, 0x33] [R.SCRUB_DONE_LAST_N.key, R.TICK_HK_SHORT_CNT_CNT.key])).rel s3
      (ran (do raise pgTick 4; countShort s) s3) :=
    Within.bind (regFrame_raise _ (by decide) (by decide)) (fun _ => Within.ite
      (Within.bind (regFrame_incF (by decide)) fun _ => regFrame_raise _ (by decide) (by decide)) (Within.pure _ _)) s3
  have hkept : (regFrame (offPages [0x01, 0x33] [])).rel s1 (ran (do raise pgTick 4; countShort s) s3) :=
    Keeps.trans _ _ _ _ (regFrame_mono (by simp) (by simp) hstored) (Keeps.trans _ _ _ _ (regFrame_mono (by simp) (by simp) hcounted)
      (regFrame_mono (by simp) (by simp) hrest))
  refine ⟨?_, ?_, ?_, ?_, ?_⟩
  · rw [regFrame_weevil hkept, ← hs1]
  · rw [regFrame_getF_mem hrest (by simp), regFrame_getF_mem hcounted (by simp), hdone]
  · rw [regFrame_getF_mem hrest (by simp), hcount, regFrame_getF_mem hstored (by simp), ← hs1]
    rfl
  · have h := regFrame_pagesKept hkept
    rwa [← hs1] at h
  · have h := regFrame_dataKept hkept
    rwa [← hs1] at h

end Sys2Proof.Machine
end

section
/-! SUPPORT. The input cut-off (02 R46; 13 R610). -/

namespace Sys2Proof.Machine

/-! ### One element of a list -/

theorem each_append {α : Type} (l m : List α) (f : α → M Unit) (s : State) :
    ran (each (l ++ m) f) s = ran (each m f) (ran (each l f) s) := by
  induction l generalizing s with
  | nil => rfl
  | cons a t ih => exact ih _

/-- An action for each element of a list without repetition is the one for an element, between what those for the others
keep. -/
theorem each_at {α : Type} {F : Keeps} {l : List α} (hl : l.Nodup) {a : α} (ha : a ∈ l) {f : α → M Unit}
    (h : ∀ b, b ≠ a → Within F (f b)) (s : State) :
    ∃ t, F.rel s t ∧ F.rel (ran (f a) t) (ran (each l f) s) := by
  obtain ⟨before, after, rfl⟩ := List.append_of_mem ha
  obtain ⟨-, hafter, hbefore⟩ := List.nodup_append.1 hl
  have hb : ∀ b ∈ before, b ≠ a := fun b hb => hbefore b hb a List.mem_cons_self
  have hc : ∀ b ∈ after, b ≠ a := fun b hb e => (List.nodup_cons.1 hafter).1 (e ▸ hb)
  refine ⟨_, Within.each before f (fun b hb' => h b (hb b hb')) s, ?_⟩
  rw [each_append]
  exact Within.each after f (fun b hb' => h b (hc b hb')) _

/-! ### The other entries -/

/-- The status registers of an entry and what the engine holds of it are as they were. -/
def entryFrame (e : Nat) : Keeps :=
  keepFrame fun s => (fun o : Fin 32 => getReg s.regs (regKey 0x25 (0x100 + 32 * e + o.val)), stnOf s e)

theorem entryFrame_got {e : Nat} {s t : State} (h : (entryFrame e).rel s t) : stnOf t e = stnOf s e :=
  congrArg Prod.snd h

/-- A field of the status registers of the entry. -/
theorem entryFrame_getF {e o lo w : Nat} (ho : o < 32) {s t : State} (h : (entryFrame e).rel s t) :
    getF t ⟨0x25, 0x100 + 32 * e + o, lo, w⟩ = getF s ⟨0x25, 0x100 + 32 * e + o, lo, w⟩ :=
  congrArg (fieldOf · lo w) (congrFun (congrArg Prod.fst h) ⟨o, ho⟩)

theorem entryFrame_wrF {e : Nat} {f : Fld} (v : Nat) (h : ∀ o < 32, regKey 0x25 (0x100 + 32 * e + o) ≠ f.key) :
    Within (entryFrame e) (wrF f v) := by
  intro s
  refine Prod.ext (funext fun o => ?_) rfl
  exact setF_reg_ne s f v (h o.val o.isLt)

theorem entryFrame_incF {e : Nat} {f : Fld} (h : ∀ o < 32, regKey 0x25 (0x100 + 32 * e + o) ≠ f.key) :
    Within (entryFrame e) (incF f) := fun s => entryFrame_wrF _ h s

theorem entryFrame_raise (e bit : Nat) : Within (entryFrame e) (raise 0x21 bit) := by
  intro s
  obtain ⟨r, q, hrun, hkept⟩ := ran_raise 0x21 bit s
  rw [← ran, hrun]
  refine Prod.ext (funext fun o => hkept _ ?_ ?_) rfl
  · simp only [regKey, offIrqRaw]; omega
  · simp only [regKey, offIrqStat]; omega

theorem entryFrame_setStn {e b : Nat} (h : b ≠ e) (f : Stn → Stn) : Within (entryFrame e) (setStn b f) :=
  fun _ => Prod.ext rfl (kvGet_kvSet_ne _ _ _ h.symm)

/-- The status registers of one entry are not those of another. -/
theorem statusKey_ne {e b o c : Nat} (h : b ≠ e) (ho : o < 32) (hc : c < 32) :
    regKey 0x25 (0x100 + 32 * e + o) ≠ regKey 0x25 (0x100 + c + 32 * b) := by
  simp only [regKey]
  omega

theorem entryFrame_cutEntry {e b : Nat} (h : b ≠ e) : Within (entryFrame e) (cutEntry b) := by
  have key : ∀ c < 32, ∀ o < 32, regKey 0x25 (0x100 + 32 * e + o) ≠ regKey 0x25 (0x100 + c + 32 * b) :=
    fun c hc o ho => statusKey_ne h ho hc
  have hdrop : Within (entryFrame e) (dropEntry b) := Within.bind (entryFrame_wrF _ (key 0 (by decide))) fun _ =>
    Within.bind (entryFrame_incF (key 12 (by decide))) fun _ => entryFrame_raise _ _
  refine Within.bind (Within.get _) fun s => Within.ite ?_ (Within.pure _ _)
  refine Within.bind (entryFrame_wrF _ (key 0 (by decide))) fun _ => Within.ite (entryFrame_wrF _ (key 12 (by decide))) ?_
  extract_lets rest
  have hrest : ∀ u, Within (entryFrame e) (rest u) := fun _ => Within.bind (entryFrame_setStn h _) fun _ =>
    Within.bind (entryFrame_incF (key 12 (by decide))) fun _ => Within.bind (Within.get _) fun _ => Within.onlyIf hdrop
  exact Within.ite (Within.bind (entryFrame_incF (key 16 (by decide))) hrest)
    (Within.bind (entryFrame_incF (key 24 (by decide))) hrest)

/-! ### An entry at the cut-off -/

/-- What follows the count of a frame that did not come: MISS_CUR goes on, and at MISS_LIM the entry is dropped. -/
def noteMiss (s : State) (e : Nat) : M Unit := do
  setStn e fun y => { y with missed := !(stnOf s e).late }
  incF (R.STATION_MISS_CUR e)
  let n := getF (← get) (R.STATION_MISS_CUR e)
  onlyIf ((stnState s e == 2 || stnState s e == 3) && decide (getF s (R.STATION_ENTRY_CTL_MISS_LIM e) ≤ n)) (dropEntry e)

theorem ran_cutEntry_came {s : State} {e : Nat} (hst : stnState s e ≠ 0) (hgot : (stnOf s e).got = true) :
    ran (cutEntry e) s = ran (wrF (R.STATION_MISS_CUR e) 0) (ran (wrF (R.STATION_STATUS_Q e) 1) s) := by
  rw [ran, cutEntry, run_get_bind, run_ite, if_pos hst, run_bind, if_pos hgot, hgot]
  rfl

theorem ran_cutEntry_missed {s : State} {e : Nat} (hst : stnState s e ≠ 0) (hgot : (stnOf s e).got = false) :
    ran (cutEntry e) s = ran (noteMiss s e)
      (ran (incF (if (stnOf s e).late then R.STATION_LATE_CNT_CNT e else R.STATION_MISS_CNT_CNT e))
        (ran (wrF (R.STATION_STATUS_Q e) 0) s)) := by
  have hno : ¬ (stnOf s e).got = true := by simp [hgot]
  rw [ran, cutEntry, run_get_bind, run_ite, if_pos hst, run_bind, if_neg hno, hgot]
  dsimp only
  split <;> rfl

theorem noteMiss_keeps (s : State) (e : Nat) {f : Fld}
    (hcur : (R.STATION_MISS_CUR e).key ≠ f.key) (hstate : (R.STATION_STATUS_STATE e).key ≠ f.key ∨ 3 ≤ f.lo)
    (hraw : f.key ≠ regKey 0x21 offIrqRaw) (hstat : f.key ≠ regKey 0x21 offIrqStat) :
    Within (fieldFrame f) (noteMiss s e) := by
  have hdrop : Within (fieldFrame f) (dropEntry e) :=
    Within.bind (fieldFrame_wrF _ (by simp [R.STATION_STATUS_STATE]) (hstate.imp_right .inl)) fun _ =>
    Within.bind (fieldFrame_incF (by simp [R.STATION_MISS_DROP_CNT]) (.inl hcur)) fun _ => fieldFrame_raise _ hraw hstat
  exact Within.bind (fun _ => rfl) fun _ => Within.bind (fieldFrame_incF (by simp [R.STATION_MISS_CUR]) (.inl hcur)) fun _ =>
    Within.bind (Within.get _) fun _ => Within.onlyIf hdrop

/-- At the cut-off an entry shows whether its frame came. -/
theorem cutEntry_shows {s : State} {e : Nat} (hst : stnState s e ≠ 0) :
    getF (ran (cutEntry e) s) (R.STATION_STATUS_Q e) = (stnOf s e).got.toNat ∧
    ((stnOf s e).got = true → getF (ran (cutEntry e) s) (R.STATION_MISS_CUR e) = 0) ∧
    ((stnOf s e).got = false → (stnOf s e).late = false → getF (ran (cutEntry e) s) (R.STATION_MISS_CNT_CNT e) =
      min (getF s (R.STATION_MISS_CNT_CNT e) + 1) (2 ^ 32 - 1)) := by
  have hcurQ : (R.STATION_MISS_CUR e).key ≠ (R.STATION_STATUS_Q e).key := by
    simp only [Fld.key, regKey, R.STATION_MISS_CUR, R.STATION_STATUS_Q]; omega
  cases hgot : (stnOf s e).got
  case true =>
    rw [ran_cutEntry_came hst hgot]
    refine ⟨?_, fun _ => getF_wrF _ (by simp [R.STATION_MISS_CUR]) (by simp [R.STATION_MISS_CUR]), by simp⟩
    have hkept := fieldFrame_wrF (f := R.STATION_STATUS_Q e) 0 (by simp [R.STATION_MISS_CUR]) (.inl hcurQ)
    exact (hkept _).trans (getF_wrF s (by simp [R.STATION_STATUS_Q]) (by simp [R.STATION_STATUS_Q]))
  case false =>
    rw [ran_cutEntry_missed hst hgot]
    have hQ := noteMiss_keeps s e (f := R.STATION_STATUS_Q e) hcurQ (.inr (by simp [R.STATION_STATUS_Q]))
      (by simp only [Fld.key, regKey, R.STATION_STATUS_Q, offIrqRaw]; omega)
      (by simp only [Fld.key, regKey, R.STATION_STATUS_Q, offIrqStat]; omega)
    have hcnt := noteMiss_keeps s e (f := R.STATION_MISS_CNT_CNT e)
      (by simp only [Fld.key, regKey, R.STATION_MISS_CNT_CNT, R.STATION_MISS_CUR]; omega)
      (.inl (by simp only [Fld.key, regKey, R.STATION_MISS_CNT_CNT, R.STATION_STATUS_STATE]; omega))
      (by simp only [Fld.key, regKey, R.STATION_MISS_CNT_CNT, offIrqRaw]; omega)
      (by simp only [Fld.key, regKey, R.STATION_MISS_CNT_CNT, offIrqStat]; omega)
    refine ⟨?_, by simp, fun _ hlate => ?_⟩
    · have hcount : Within (fieldFrame (R.STATION_STATUS_Q e))
          (incF (if (stnOf s e).late then R.STATION_LATE_CNT_CNT e else R.STATION_MISS_CNT_CNT e)) := by
        split
        · exact fieldFrame_incF (by simp [R.STATION_LATE_CNT_CNT])
            (.inl (by simp only [Fld.key, regKey, R.STATION_LATE_CNT_CNT, R.STATION_STATUS_Q]; omega))
        · exact fieldFrame_incF (by simp [R.STATION_MISS_CNT_CNT])
            (.inl (by simp only [Fld.key, regKey, R.STATION_MISS_CNT_CNT, R.STATION_STATUS_Q]; omega))
      exact (hQ _).trans ((hcount _).trans (getF_wrF s (by simp [R.STATION_STATUS_Q]) (by simp [R.STATION_STATUS_Q])))
    · have hshown := fieldFrame_wrF (f := R.STATION_MISS_CNT_CNT e) (g := R.STATION_STATUS_Q e) 0 (by simp [R.STATION_STATUS_Q])
        (.inl (by simp only [Fld.key, regKey, R.STATION_MISS_CNT_CNT, R.STATION_STATUS_Q]; omega)) s
      have hlate' : ¬ (stnOf s e).late = true := by simp [hlate]
      rw [if_neg hlate']
      refine (hcnt _).trans ((getF_incF _ _ (by simp [R.STATION_MISS_CNT_CNT])).trans ?_)
      rw [show getF (ran (wrF (R.STATION_STATUS_Q e) 0) s) (R.STATION_MISS_CNT_CNT e) = getF s (R.STATION_MISS_CNT_CNT e) from hshown]
      rfl

/-- A frame that looks at no register and at nothing the Stations hold is kept at the cut-off. -/
theorem cutEntry_within {F : Keeps} (h : F.Open) (hset : ∀ e f, Within F (setStn e f)) (e : Nat) : Within F (cutEntry e) := by
  refine Within.bind (Within.get _) fun s => Within.ite (Within.bind (h.wrF _ _) fun _ => Within.ite (h.wrF _ _) ?_) (Within.pure _ _)
  extract_lets rest
  have hrest : ∀ u, Within F (rest u) := fun _ => Within.bind (hset _ _) fun _ => Within.bind (h.incF _) fun _ =>
    Within.bind (Within.get _) fun _ => Within.onlyIf (Within.bind (h.wrF _ _) fun _ => Within.bind (h.incF _) fun _ => h.raise _ _)
  exact Within.ite (Within.bind (h.incF _) hrest) (Within.bind (h.incF _) hrest)

theorem cutEntries_qualOk (l : List Nat) (s : State) : (ran (each l cutEntry) s).qualOk = s.qualOk :=
  Within.each (F := keepFrame fun s => s.qualOk) l cutEntry
    (fun e _ => cutEntry_within ⟨fun _ _ _ _ => rfl, fun _ _ _ => rfl⟩ (fun _ _ _ => rfl) e) s

theorem cutEntries_facts (l : List Nat) (s : State) :
    (ran (each l cutEntry) s).tick = s.tick ∧ DataKept s (ran (each l cutEntry) s) :=
  (timeFrame_facts (Within.each l cutEntry (fun e _ => cutEntry_within timeFrame_open (fun _ _ _ => rfl) e) s)).2

/-- What is around the cut-off of an entry keeps what the entry's engine and its status registers hold. -/
theorem cutEntries_at {l : List Nat} (hl : l.Nodup) {e : Nat} (he : e ∈ l) (s : State) :
    ∃ t, (entryFrame e).rel s t ∧ (entryFrame e).rel (ran (cutEntry e) t) (ran (each l cutEntry) s) :=
  each_at hl he (fun _ hb => entryFrame_cutEntry hb) s

/-- The entries of the list at the cut-off, and the quality line where it is on. -/
def cutAll (l : List Nat) : M Unit := do
  each l cutEntry
  let s ← get
  onlyIf s.qualOk (engWrite qStation (getF s R.STATION_QUAL_HA_LINE) .wrFull 0 0xFFFF (qualityLine s))

theorem ran_cutAll (l : List Nat) {s : State} (h : s.qualOk = false) : ran (cutAll l) s = ran (each l cutEntry) s := by
  have hnone : (each l cutEntry s).2.qualOk = false := (cutEntries_qualOk l s).trans h
  rw [ran, cutAll, run_bind, run_get_bind, run_onlyIf, hnone]
  rfl

/-- The cut-off with no quality line: every entry is looked at. -/
theorem ran_inCutoff {s : State} (hrun : s.tick.running = true) (hdone : s.tick.cutDone = false)
    (hdue : s.tick.cutoff + s.tick.stretch ≤ s.tick.offset) (hopen : stretchOpen s = false) (hon : stationOn s = true)
    (hqual : s.qualOk = false) :
    ran doInCutoff s = ran (each entries cutEntry) { s with tick := { s.tick with cutDone := true } } := by
  have now : (s.tick.running && !s.tick.cutDone && decide (s.tick.cutoff + s.tick.stretch ≤ s.tick.offset) &&
      !stretchOpen s) = true := by simp [hrun, hdone, hdue, hopen]
  rw [ran, doInCutoff, run_get_bind, run_ite, if_pos now, run_bind, run_modify, if_pos hon]
  exact ran_cutAll entries hqual

/-- At the cut-off each entry in use shows whether its frame of the tick came. -/
theorem inCutoff_shows {s : State} {e : Nat} (he : e < 48) (hrun : s.tick.running = true) (hdone : s.tick.cutDone = false)
    (hdue : s.tick.cutoff + s.tick.stretch ≤ s.tick.offset) (hopen : stretchOpen s = false) (hon : stationOn s = true)
    (hqual : s.qualOk = false) (hst : stnState s e ≠ 0) : Leaves .inCutoff s fun x =>
      x.tick = { s.tick with cutDone := true } ∧ getF x (R.STATION_STATUS_Q e) = (stnOf s e).got.toNat ∧
      ((stnOf s e).got = true → getF x (R.STATION_MISS_CUR e) = 0) ∧
      ((stnOf s e).got = false → (stnOf s e).late = false → getF x (R.STATION_MISS_CNT_CNT e) =
        min (getF s (R.STATION_MISS_CNT_CNT e) + 1) (2 ^ 32 - 1)) ∧ DataKept s x := by
  refine leaves_ran (m := doInCutoff) rfl ?_
  rw [ran_inCutoff hrun hdone hdue hopen hon hqual]
  obtain ⟨htick, hdata⟩ := cutEntries_facts entries { s with tick := { s.tick with cutDone := true } }
  obtain ⟨t, hbefore, hafter⟩ := cutEntries_at (List.nodup_range (n := 48)) (List.mem_range.2 he)
    { s with tick := { s.tick with cutDone := true } }
  have hgot : stnOf t e = stnOf s e := entryFrame_got hbefore
  have hstate : stnState t e = stnState s e := entryFrame_getF (o := 0) (by decide) hbefore
  have hcnt : getF t (R.STATION_MISS_CNT_CNT e) = getF s (R.STATION_MISS_CNT_CNT e) := by
    have h := entryFrame_getF (o := 24) (lo := 0) (w := 32) (by decide) hbefore
    rwa [Nat.add_right_comm] at h
  obtain ⟨hQ, hcur, hmiss⟩ := cutEntry_shows (s := t) (e := e) (hstate ▸ hst)
  rw [hgot] at hQ hcur hmiss
  refine ⟨htick, ?_, fun h => ?_, fun h hlate => ?_, hdata⟩
  · exact (entryFrame_getF (o := 0) (by decide) hafter).trans hQ
  · have hlast := entryFrame_getF (o := 12) (lo := 0) (w := 8) (by decide) hafter
    rw [Nat.add_right_comm] at hlast
    exact hlast.trans (hcur h)
  · have hlast := entryFrame_getF (o := 24) (lo := 0) (w := 32) (by decide) hafter
    rw [Nat.add_right_comm] at hlast
    exact hlast.trans ((hmiss h hlate).trans (by rw [hcnt]))

/-- Settles O16: the slice's start and its end run action by action; at the cut-off the other entries keep the registers
of each. -/
theorem housekeepingAndCutoff : Obligations.HousekeepingAndCutoff := by
  refine ⟨fun s hrun hon hdone hdue hopen hrev haud hlines hhc => ?_, fun s hrun hin hdue hcut _ hsteps => ?_,
    fun e s hrun hdone hdue hopen hon hqual hst => ?_⟩
  · exact endsIn_ran rfl (ran_sliceStart_idle hrun hon hdone hdue hopen hrev haud hlines hhc)
  · exact sliceEnd_cut hrun hin hdue hcut hsteps
  · exact inCutoff_shows e.isLt hrun hdone hdue hopen hon hqual hst

end Sys2Proof.Machine
end

section
/-! SUPPORT. Frames of chosen registers and of a view of the state, and the checks of the commit (02 R48-R55). -/

namespace Sys2Proof.Machine

/-- Two actions one after the other. -/
theorem ran_then {α β : Type} (m : M α) (n : M β) (s : State) : ran (m >>= fun _ => n) s = ran n (ran m s) := rfl

theorem Within.ran {α : Type} {F : Keeps} {m : M α} (h : Within F m) (s : State) : F.rel s (ran m s) := h s

/-! ### Registers of chosen keys, and a view of the state -/

/-- The registers of the keys `K` and what `π` shows of the state are as they were. -/
def stepFrame {β : Type} (K : Nat → Bool) (π : State → β) : Keeps where
  rel s t := (∀ k, K k = true → getReg t.regs k = getReg s.regs k) ∧ π t = π s
  refl _ := ⟨fun _ _ => rfl, rfl⟩
  trans _ _ _ h k := ⟨fun i hi => (k.1 i hi).trans (h.1 i hi), k.2.trans h.2⟩

/-- What the stored data and the tick show. -/
def tickData (s : State) := (s.tick, s.mem, s.memChk, s.slots, s.ebuf, s.dir, s.flash)

theorem tickData_kept {s t : State} (h : tickData t = tickData s) : t.tick = s.tick ∧ DataKept s t := by
  simpa [tickData] using h

section
variable {β : Type} {K : Nat → Bool} {π : State → β} {s t : State}

theorem stepFrame_getF (h : (stepFrame K π).rel s t) {f : Fld} (hf : K f.key = true) : getF t f = getF s f := by
  unfold getF
  rw [h.1 _ hf]

/-- A view that shows no register, nothing open and nothing that is sent is kept by what keeps all but those. -/
theorem stepFrame_of_reg {α : Type} {m : M α} (hm : Within (regFrame K) m)
    (hπ : ∀ s r q u p o, π { s with regs := r, intQ := q, free := u, pair := p, outs := o } = π s) : Within (stepFrame K π) m := by
  intro s
  obtain ⟨h, hk⟩ := hm s
  refine ⟨hk, ?_⟩
  rw [h]
  exact hπ s _ _ _ _ _

theorem stepFrame_wrF {f : Fld} (v : Nat) (h : K f.key = false)
    (hπ : ∀ s r q u p o, π { s with regs := r, intQ := q, free := u, pair := p, outs := o } = π s) :
    Within (stepFrame K π) (wrF f v) := stepFrame_of_reg (regFrame_wrF v h) hπ

theorem stepFrame_modify {f : State → State} (hr : ∀ s, (f s).regs = s.regs) (h : ∀ s, π (f s) = π s) :
    Within (stepFrame K π) (modify f : M Unit) :=
  fun s => ⟨fun k _ => congrArg (getReg · k) (hr s), h s⟩

end

/-! ### The close of a commit window -/

theorem stepFrame_closeCommit {K : Nat → Bool} (hstat : K R.COMMIT_STAT_WINDOW.key = false)
    (hlast : K R.COMMIT_LAST_CLOSE_NS10.key = false) : Within (stepFrame K tickData) closeCommit := by
  refine Within.bind (Within.get _) fun s => ?_
  split
  · exact Within.bind (stepFrame_modify (fun _ => rfl) fun _ => rfl) fun _ =>
      Within.bind (stepFrame_modify (fun _ => rfl) fun _ => rfl) fun _ =>
      Within.bind (stepFrame_modify (fun _ => rfl) fun _ => rfl) fun _ =>
      Within.bind (stepFrame_wrF _ hstat fun _ _ _ _ _ _ => rfl) fun _ =>
      Within.onlyIf (stepFrame_wrF _ hlast fun _ _ _ _ _ _ => rfl)
  · exact Within.pure _ _

/-- After the close there is no window. -/
theorem closeCommit_none (s : State) : (ran closeCommit s).fv.commit = none := by
  cases hw : s.fv.commit with
  | none =>
    rw [ran, closeCommit, run_get_bind, hw]
    exact hw
  | some w =>
    have hkeep : Within (keepFrame fun s => s.fv) (do
        wrF R.COMMIT_STAT_WINDOW 0
        onlyIf w.flipped (wrF R.COMMIT_LAST_CLOSE_NS10 s.tick.offset)) :=
      Within.bind (fun _ => rfl) fun _ => Within.onlyIf fun _ => rfl
    rw [ran, closeCommit, run_get_bind, hw]
    exact congrArg Fv.commit (hkeep _)

/-! ### The check at COMMIT_BUDGET (02 R48-R51) -/

section
variable {s : State}

theorem ran_budgetCheck_closed (hrun : s.tick.running = true) (hdone : s.tick.budgetDone = false)
    (hdue : s.tick.budget ≤ s.tick.offset) (hw : s.fv.commit = none) :
    ran doBudgetCheck s = { s with tick := { s.tick with budgetDone := true } } := by
  have now : (s.tick.running && !s.tick.budgetDone && decide (s.tick.budget ≤ s.tick.offset)) = true := by
    simp [hrun, hdone, hdue]
  rw [ran, doBudgetCheck, run_get_bind, run_ite, if_pos now, run_bind, hw]
  rfl

/-- A window in its carry is late. -/
theorem ran_budgetCheck_carry {w : Window} (hrun : s.tick.running = true) (hdone : s.tick.budgetDone = false)
    (hdue : s.tick.budget ≤ s.tick.offset) (hw : s.fv.commit = some w) (hflip : w.flipped = true)
    (hover : s.tick.overrun = false) :
    ran doBudgetCheck s = ran (raise pgTick 6)
      (ran (incF R.TICK_CARRY_LATE_CNT_CNT) { s with tick := { s.tick with budgetDone := true } }) := by
  have now : (s.tick.running && !s.tick.budgetDone && decide (s.tick.budget ≤ s.tick.offset)) = true := by
    simp [hrun, hdone, hdue]
  have hno : (!s.tick.overrun) = true := by simp [hover]
  rw [ran, doBudgetCheck, run_get_bind, run_ite, if_pos now, run_bind, hw]
  dsimp only
  rw [run_ite, if_pos hflip, run_ite, if_pos hno]
  rfl

/-- A window that has not flipped is a detected overrun, and stops under SKIP. -/
theorem ran_budgetCheck_overrun {w : Window} (hrun : s.tick.running = true) (hdone : s.tick.budgetDone = false)
    (hdue : s.tick.budget ≤ s.tick.offset) (hw : s.fv.commit = some w) (hflip : w.flipped = false) (hpol : ovrPol s = 0)
    (hmir : isMirror s = false) :
    ran doBudgetCheck s = ran (overrunStop 0) { s with tick := { s.tick with budgetDone := true, overrun := true } } := by
  have now : (s.tick.running && !s.tick.budgetDone && decide (s.tick.budget ≤ s.tick.offset)) = true := by
    simp [hrun, hdone, hdue]
  have hno : ¬ w.flipped = true := by simp [hflip]
  rw [ran, doBudgetCheck, run_get_bind, run_ite, if_pos now, run_bind, hw]
  dsimp only
  rw [run_ite, if_neg hno, run_bind, hpol, hmir]
  rfl

/-- The registers of a late carry: the count, and the interrupt of the tick. -/
def lateKeys : List Nat := [R.TICK_CARRY_LATE_CNT_CNT.key, regKey pgTick offIrqRaw, regKey pgTick offIrqStat]

/-- The count of a late carry and its interrupt change those registers alone. -/
theorem carryLate_shows (s : State) : (regFrame fun k => !lateKeys.contains k).rel s
      (ran (raise pgTick 6) (ran (incF R.TICK_CARRY_LATE_CNT_CNT) s)) ∧
    getF (ran (raise pgTick 6) (ran (incF R.TICK_CARRY_LATE_CNT_CNT) s)) R.TICK_CARRY_LATE_CNT_CNT =
      min (getF s R.TICK_CARRY_LATE_CNT_CNT + 1) (2 ^ 32 - 1) :=
  ⟨Keeps.trans _ _ _ _ (regFrame_incF (by decide) s) (regFrame_raise _ (by decide) (by decide) _),
    (fieldFrame_raise 6 (by decide) (by decide) _).trans (getF_incF s R.TICK_CARRY_LATE_CNT_CNT (by decide))⟩

theorem carryLate_counted {w : Window} (hrun : s.tick.running = true) (hdone : s.tick.budgetDone = false)
    (hdue : s.tick.budget ≤ s.tick.offset) (hw : s.fv.commit = some w) (hflip : w.flipped = true)
    (hover : s.tick.overrun = false) : Leaves .commitBudgetCheck s fun x =>
      getF x R.TICK_CARRY_LATE_CNT_CNT = min (getF s R.TICK_CARRY_LATE_CNT_CNT + 1) (2 ^ 32 - 1) ∧
      x.tick = { s.tick with budgetDone := true } ∧ x.fv = s.fv ∧ RegsKept lateKeys s x ∧ DataKept s x := by
  refine leaves_ran (m := doBudgetCheck) rfl ?_
  rw [ran_budgetCheck_carry hrun hdone hdue hw hflip hover]
  obtain ⟨hkept, hcount⟩ := carryLate_shows { s with tick := { s.tick with budgetDone := true } }
  have hfv := regFrame_fv hkept
  have hdata := regFrame_dataKept hkept
  exact ⟨hcount, regFrame_tick hkept, hfv, fun k hk => hkept.2 k (by simpa using hk), hdata⟩

/-! ### SKIP (02 R51, R52) -/

theorem regFrame_decide (K : Nat → Bool) (rel : Bool) (d : Nat) : Within (regFrame K) (decide_ rel d) :=
  Within.bind (Within.get _) fun _ => Within.ite (regFrame_ofSend (sendFrame_toPartner _)) (Within.pure _ _)

/-- A skipped commit is counted and shown, and its window is gone. -/
theorem tickSkip_shows (s : State) : getF (ran tickSkip s) R.TICK_SKIP_CNT_CNT = min (getF s R.TICK_SKIP_CNT_CNT + 1) (2 ^ 32 - 1) ∧
    getF (ran tickSkip s) R.TICK_STAT_SKIPPED = 1 ∧ (ran tickSkip s).fv.commit = none := by
  have hcount := getF_incF s R.TICK_SKIP_CNT_CNT (by decide)
  have hrun : ran tickSkip s = ran closeCommit (ran (raise pgTick 0) (ran (wrF R.TICK_STAT_SKIPPED 1)
    (ran (incF R.TICK_SKIP_CNT_CNT) s))) := rfl
  rw [hrun]
  generalize ran (incF R.TICK_SKIP_CNT_CNT) s = s1 at *
  have hwritten := fieldFrame_wrF (f := R.TICK_SKIP_CNT_CNT) (g := R.TICK_STAT_SKIPPED) 1 (by decide) (.inl (by decide)) s1
  have hshown : getF (ran (wrF R.TICK_STAT_SKIPPED 1) s1) R.TICK_STAT_SKIPPED = 1 := getF_wrF s1 (by decide) (by decide)
  change getF (ran (wrF R.TICK_STAT_SKIPPED 1) s1) _ = getF s1 _ at hwritten
  generalize ran (wrF R.TICK_STAT_SKIPPED 1) s1 = s2 at *
  have hkept : Within (stepFrame (fun k => [R.TICK_SKIP_CNT_CNT.key, R.TICK_STAT_SKIPPED.key].contains k) tickData) (do
      raise pgTick 0
      closeCommit) :=
    Within.bind (stepFrame_of_reg (regFrame_raise _ (by decide) (by decide)) fun _ _ _ _ _ _ => rfl) fun _ =>
      stepFrame_closeCommit (by decide) (by decide)
  refine ⟨?_, ?_, closeCommit_none _⟩
  · exact (stepFrame_getF (hkept s2) (by decide)).trans (hwritten.trans hcount)
  · exact (stepFrame_getF (hkept s2) (by decide)).trans hshown

theorem stepFrame_tickSkip {K : Nat → Bool} (hcnt : K R.TICK_SKIP_CNT_CNT.key = false) (hstat : K R.TICK_STAT_SKIPPED.key = false)
    (hraw : K (regKey pgTick offIrqRaw) = false) (hirq : K (regKey pgTick offIrqStat) = false)
    (hwin : K R.COMMIT_STAT_WINDOW.key = false) (hlast : K R.COMMIT_LAST_CLOSE_NS10.key = false) :
    Within (stepFrame K tickData) tickSkip :=
  Within.bind (stepFrame_of_reg (regFrame_incF hcnt) fun _ _ _ _ _ _ => rfl) fun _ =>
    Within.bind (stepFrame_wrF _ hstat fun _ _ _ _ _ _ => rfl) fun _ =>
    Within.bind (stepFrame_of_reg (regFrame_raise _ hraw hirq) fun _ _ _ _ _ _ => rfl) fun _ => stepFrame_closeCommit hwin hlast

/-- Every COPY_VER has its register beyond those of the tick and of the window's status. -/
theorem copyVer_key (r : Nat) : 0x70100 ≤ (R.COMMIT_COPY_VER r).key := by
  simp only [Fld.key, regKey, R.COMMIT_COPY_VER]
  omega

/-- The whole domain skips: told to a partner, the commit is skipped here, and every VER is as it was. -/
theorem overrunStop_skip (s : State) : getF (ran (overrunStop 0) s) R.TICK_SKIP_CNT_CNT =
      min (getF s R.TICK_SKIP_CNT_CNT + 1) (2 ^ 32 - 1) ∧ getF (ran (overrunStop 0) s) R.TICK_STAT_SKIPPED = 1 ∧
    (ran (overrunStop 0) s).fv.commit = none ∧
    (∀ r, getF (ran (overrunStop 0) s) (R.COMMIT_COPY_VER r) = getF s (R.COMMIT_COPY_VER r)) ∧
    DataKept s (ran (overrunStop 0) s) := by
  have htold : (regFrame fun _ => true).rel s (ran (decide_ false 1) s) := regFrame_decide _ false 1 s
  rw [show ran (overrunStop 0) s = ran tickSkip (ran (decide_ false 1) s) from rfl]
  generalize ran (decide_ false 1) s = t at *
  obtain ⟨hcount, hshown, hnone⟩ := tickSkip_shows t
  have hkept : (stepFrame (fun k => decide (0x70100 ≤ k)) tickData).rel t (ran tickSkip t) :=
    stepFrame_tickSkip (by decide) (by decide) (by decide) (by decide) (by decide) (by decide) t
  refine ⟨?_, hshown, hnone, fun r => ?_, dataKept_trans (regFrame_dataKept htold) (tickData_kept hkept.2).2⟩
  · rw [hcount, regFrame_getF htold rfl]
  · rw [stepFrame_getF hkept (decide_eq_true (copyVer_key r)), regFrame_getF htold rfl]

theorem overrun_skipped {w : Window} (hrun : s.tick.running = true) (hdone : s.tick.budgetDone = false)
    (hdue : s.tick.budget ≤ s.tick.offset) (hw : s.fv.commit = some w) (hflip : w.flipped = false) (hpol : ovrPol s = 0)
    (hmir : isMirror s = false) : Leaves .commitBudgetCheck s fun x =>
      getF x R.TICK_SKIP_CNT_CNT = min (getF s R.TICK_SKIP_CNT_CNT + 1) (2 ^ 32 - 1) ∧ getF x R.TICK_STAT_SKIPPED = 1 ∧
      x.fv.commit = none ∧ (∀ r, getF x (R.COMMIT_COPY_VER r) = getF s (R.COMMIT_COPY_VER r)) ∧ DataKept s x := by
  refine leaves_ran (m := doBudgetCheck) rfl ?_
  rw [ran_budgetCheck_overrun hrun hdone hdue hw hflip hpol hmir]
  exact overrunStop_skip { s with tick := { s.tick with budgetDone := true, overrun := true } }

/-! ### FAULT (02 R54-R56) -/

/-- A pin that is driven changes the event unit and EVT.LEVEL. -/
theorem stepFrame_drivePin {β : Type} {K : Nat → Bool} {π : State → β} (hpins : K R.EVT_LEVEL_PINS.key = false)
    (hπ : ∀ s r q u p o, π { s with regs := r, intQ := q, free := u, pair := p, outs := o } = π s)
    (hevt : ∀ s e, π { s with evt := e } = π s) (n : Nat) (l : Option Bool) : Within (stepFrame K π) (drivePin n l) := by
  refine Within.bind (Within.get _) fun s => ?_
  extract_lets v level
  have hlevel : ∀ u, Within (stepFrame K π) (level u) := by
    intro u
    cases l with
    | some b => exact stepFrame_wrF _ hpins hπ
    | none => exact Within.pure _ _
  exact Within.ite (Within.bind (stepFrame_modify (fun _ => rfl) fun s => hevt s _) fun _ =>
    Within.bind (Within.bind (Within.get _) fun _ => Within.onlyIf (stepFrame_of_reg (regFrame_ofSend (sendFrame_emit _)) hπ)) hlevel)
    (hlevel ())

theorem stepFrame_drivePinFault {β : Type} {K : Nat → Bool} {π : State → β} (hpins : K R.EVT_LEVEL_PINS.key = false)
    (hπ : ∀ s r q u p o, π { s with regs := r, intQ := q, free := u, pair := p, outs := o } = π s)
    (hevt : ∀ s e, π { s with evt := e } = π s) (n : Nat) : Within (stepFrame K π) (drivePinFault n) := by
  refine Within.bind (Within.get _) fun s => Within.ite (Within.bind (stepFrame_modify (fun _ => rfl) fun s => hevt s _) fun _ => ?_)
    (Within.pure _ _)
  split
  · exact stepFrame_drivePin hpins hπ hevt _ _
  · exact stepFrame_drivePin hpins hπ hevt _ _
  · exact stepFrame_drivePin hpins hπ hevt _ _
  · exact Within.pure _ _

theorem stepFrame_driveFault {β : Type} {K : Nat → Bool} {π : State → β} (hpins : K R.EVT_LEVEL_PINS.key = false)
    (hπ : ∀ s r q u p o, π { s with regs := r, intQ := q, free := u, pair := p, outs := o } = π s)
    (hevt : ∀ s e, π { s with evt := e } = π s) : Within (stepFrame K π) driveFault :=
  Within.each _ _ fun n _ => stepFrame_drivePinFault hpins hπ hevt n

/-- What a FAULT does first: it is counted and shown, and commits and releases stop. -/
def faultStops : M Unit := do
  incF R.TICK_FAULT_CNT_CNT
  wrF R.TICK_STAT_FAULTED 1
  raise pgTick 2
  modify fun s => { s with tick := { s.tick with stopped := true, resumeAtEdge := false } }

theorem faultStops_shows (s : State) : getF (ran faultStops s) R.TICK_FAULT_CNT_CNT = min (getF s R.TICK_FAULT_CNT_CNT + 1) (2 ^ 32 - 1) ∧
    getF (ran faultStops s) R.TICK_STAT_FAULTED = 1 ∧ (ran faultStops s).tick.stopped = true ∧ (ran faultStops s).fv = s.fv ∧
    DataKept s (ran faultStops s) := by
  have hcount := getF_incF s R.TICK_FAULT_CNT_CNT (by decide)
  have hcounted : (regFrame fun _ => false).rel s (ran (incF R.TICK_FAULT_CNT_CNT) s) := regFrame_incF rfl s
  rw [show ran faultStops s = ran (modify fun s => { s with tick := { s.tick with stopped := true, resumeAtEdge := false } })
    (ran (raise pgTick 2) (ran (wrF R.TICK_STAT_FAULTED 1) (ran (incF R.TICK_FAULT_CNT_CNT) s))) from rfl]
  generalize ran (incF R.TICK_FAULT_CNT_CNT) s = s1 at *
  have hshown : getF (ran (wrF R.TICK_STAT_FAULTED 1) s1) R.TICK_STAT_FAULTED = 1 := getF_wrF s1 (by decide) (by decide)
  have hwritten : (regFrame fun k => k == R.TICK_FAULT_CNT_CNT.key).rel s1 (ran (wrF R.TICK_STAT_FAULTED 1) s1) :=
    regFrame_wrF _ (by decide) s1
  generalize ran (wrF R.TICK_STAT_FAULTED 1) s1 = s2 at *
  have hraised : (regFrame fun k => [R.TICK_FAULT_CNT_CNT.key, R.TICK_STAT_FAULTED.key].contains k).rel s2 (ran (raise pgTick 2) s2) :=
    regFrame_raise _ (by decide) (by decide) s2
  have hdata := dataKept_trans (regFrame_dataKept hcounted) (dataKept_trans (regFrame_dataKept hwritten) (regFrame_dataKept hraised))
  refine ⟨?_, ?_, rfl, ?_, hdata⟩
  · exact (regFrame_getF hraised (by decide)).trans ((regFrame_getF hwritten (by decide)).trans hcount)
  · exact (regFrame_getF hraised (by decide)).trans hshown
  · exact (regFrame_fv hraised).trans ((regFrame_fv hwritten).trans (regFrame_fv hcounted))

/-- What a FAULT does then: the windows that have not flipped end, and the outputs drive FAULT_ST. -/
def endWindows : M Unit := do
  let s ← get
  match s.fv.commit with
  | some w => onlyIf (!w.flipped) closeCommit
  | none => pure ()
  match s.fv.release with
  | some w => onlyIf (!w.flipped) closeRelease
  | none => pure ()
  driveFault

theorem tickFault_parts : tickFault = faultStops >>= fun _ => endWindows := by
  simp only [tickFault, faultStops, endWindows, bind_assoc] <;> rfl

/-- With an unflipped commit window and no release window, the commit window ends. -/
theorem ran_endWindows {s : State} {w : Window} (hw : s.fv.commit = some w) (hflip : w.flipped = false) (hrel : s.fv.release = none) :
    ran endWindows s = ran driveFault (ran closeCommit s) := by
  rw [ran, endWindows, run_get_bind, hw, hrel]
  dsimp only
  rw [hflip, run_bind, run_onlyIf, Bool.not_false, if_pos rfl, ran, ran]

/-- A FAULT with an unflipped commit window and no release window abandons the window. -/
theorem ran_tickFault {s : State} {w : Window} (hw : s.fv.commit = some w) (hflip : w.flipped = false) (hrel : s.fv.release = none) :
    ran tickFault s = ran driveFault (ran closeCommit (ran faultStops s)) := by
  obtain ⟨-, -, -, hfv, -⟩ := faultStops_shows s
  rw [tickFault_parts, ran_then, ran_endWindows (hfv ▸ hw) hflip (hfv ▸ hrel)]

/-- The close of the commit window and the outputs under FAULT leave no window, and keep tick, data and the registers of the
FAULT. -/
theorem windowsEnd_keeps (s : State) : (ran driveFault (ran closeCommit s)).fv.commit = none ∧
    (stepFrame (fun k => [R.TICK_FAULT_CNT_CNT.key, R.TICK_STAT_FAULTED.key].contains k) tickData).rel s
      (ran driveFault (ran closeCommit s)) := by
  have hnone := closeCommit_none s
  have hclose : (stepFrame (fun k => [R.TICK_FAULT_CNT_CNT.key, R.TICK_STAT_FAULTED.key].contains k) tickData).rel s
      (ran closeCommit s) := (stepFrame_closeCommit (by decide) (by decide)).ran s
  generalize ran closeCommit s = t at *
  have hdriven : (stepFrame (fun k => [R.TICK_FAULT_CNT_CNT.key, R.TICK_STAT_FAULTED.key].contains k)
      fun s => (s.fv, tickData s)).rel t (ran driveFault t) :=
    (stepFrame_driveFault (by decide) (fun _ _ _ _ _ _ => rfl) (fun _ _ => rfl)).ran t
  generalize ran driveFault t = u at *
  obtain ⟨hregs, hview⟩ := hdriven
  obtain ⟨hfv, hdata⟩ := Prod.ext_iff.1 hview
  exact ⟨(congrArg Fv.commit hfv).trans hnone, Keeps.trans _ _ _ _ hclose ⟨hregs, hdata⟩⟩

theorem tickFault_shows {s : State} {w : Window} (hw : s.fv.commit = some w) (hflip : w.flipped = false) (hrel : s.fv.release = none) :
    getF (ran tickFault s) R.TICK_STAT_FAULTED = 1 ∧
    getF (ran tickFault s) R.TICK_FAULT_CNT_CNT = min (getF s R.TICK_FAULT_CNT_CNT + 1) (2 ^ 32 - 1) ∧
    (ran tickFault s).tick.stopped = true ∧ (ran tickFault s).fv.commit = none ∧ DataKept s (ran tickFault s) := by
  obtain ⟨hcount, hshown, hstop, -, hdata⟩ := faultStops_shows s
  rw [ran_tickFault hw hflip hrel]
  generalize ran faultStops s = t at *
  obtain ⟨hnone, hkept⟩ := windowsEnd_keeps t
  generalize ran driveFault (ran closeCommit t) = u at *
  obtain ⟨htick, hdata'⟩ := tickData_kept hkept.2
  exact ⟨(stepFrame_getF hkept (by decide)).trans hshown, (stepFrame_getF hkept (by decide)).trans hcount, by rw [htick, hstop], hnone,
    dataKept_trans hdata hdata'⟩

/-- The end of STRETCH_MAX with an unflipped window is a FAULT. -/
theorem ran_stretchExpiry {s : State} {w : Window} (hrun : s.tick.running = true) (hw : s.fv.commit = some w)
    (hflip : w.flipped = false) (hpol : ovrPol s = 1) (hmir : isMirror s = false)
    (hdue : s.tick.budget + getF s R.TICK_STRETCH_MAX_NS10 ≤ s.tick.offset) :
    ran doStretchExpiry s = ran tickFault (ran (decide_ false 2) s) := by
  have now : (s.tick.running && !w.flipped && ovrPol s == 1 && !(isMirror s && hasPartner s) &&
      decide (s.tick.budget + getF s R.TICK_STRETCH_MAX_NS10 ≤ s.tick.offset)) = true := by
    simp [hrun, hflip, hpol, hmir, hdue]
  rw [ran, doStretchExpiry, run_get_bind, hw]
  dsimp only
  rw [run_ite, if_pos now]
  rfl

theorem stretchExpiry_faults {s : State} {w : Window} (hrun : s.tick.running = true) (hw : s.fv.commit = some w)
    (hflip : w.flipped = false) (hpol : ovrPol s = 1) (hmir : isMirror s = false) (hrel : s.fv.release = none)
    (hdue : s.tick.budget + getF s R.TICK_STRETCH_MAX_NS10 ≤ s.tick.offset) : Leaves .stretchMaxExpiry s fun x =>
      getF x R.TICK_STAT_FAULTED = 1 ∧ getF x R.TICK_FAULT_CNT_CNT = min (getF s R.TICK_FAULT_CNT_CNT + 1) (2 ^ 32 - 1) ∧
      x.tick.stopped = true ∧ x.fv.commit = none ∧ DataKept s x := by
  refine leaves_ran (m := doStretchExpiry) rfl ?_
  rw [ran_stretchExpiry hrun hw hflip hpol hmir hdue]
  have htold : (regFrame fun _ => true).rel s (ran (decide_ false 2) s) := regFrame_decide _ false 2 s
  have hfv := regFrame_fv htold
  obtain ⟨hshown, hcount, hstop, hnone, hdata⟩ :=
    tickFault_shows (by rw [hfv, hw]) hflip (by rw [hfv, hrel])
  exact ⟨hshown, by rw [hcount, regFrame_getF htold rfl], hstop, hnone, dataKept_trans (regFrame_dataKept htold) hdata⟩

end

/-! ### Visits before an edge (11 R485-R488) -/

/-- A visit of a line: its invalidation is asked for. -/
def visitLine (l : Line) : M Unit := do
  enqueue (engineReq (← get) qCommit .preInv l 0 0 [])
  setFv fun v => { v with visited := v.visited ++ [l] }

/-- The lines that a visit of regions meets. -/
def toVisit (s : State) (rs : List Nat) : List Line :=
  ((linesOf s rs needsInv).filter fun l => !s.fv.visited.contains l).mergeSort

/-- What the visits leave: the lines as visited, one request for each, and the rest as it was. -/
def Visited (ls : List Line) (s t : State) : Prop :=
  t.fv.visited = s.fv.visited ++ ls ∧
  (t.fv.nv = s.fv.nv ∧ t.fv.diff = s.fv.diff ∧ t.fv.commit = s.fv.commit ∧ t.fv.release = s.fv.release) ∧
  t.arb.waiting.length = s.arb.waiting.length + ls.length ∧ t.regs = s.regs ∧ DataKept s t

theorem visited_visitLine (l : Line) (s : State) : Visited [l] s (ran (visitLine l) s) :=
  ⟨rfl, ⟨rfl, rfl, rfl, rfl⟩, List.length_append, rfl, rfl, rfl, rfl, rfl, rfl, rfl⟩

theorem Visited.append {ls ms : List Line} {s t u : State} (h : Visited ls s t) (k : Visited ms t u) : Visited (ls ++ ms) s u := by
  obtain ⟨hv, ⟨hnv, hdiff, hc, hr⟩, hw, hregs, hd⟩ := h
  obtain ⟨kv, ⟨knv, kdiff, kc, kr⟩, kw, kregs, kd⟩ := k
  refine ⟨?_, ⟨knv.trans hnv, kdiff.trans hdiff, kc.trans hc, kr.trans hr⟩, ?_, kregs.trans hregs, dataKept_trans hd kd⟩
  · rw [kv, hv, List.append_assoc]
  · rw [kw, hw, List.length_append]
    omega

theorem visited_each (ls : List Line) (s : State) : Visited ls s (ran (each ls visitLine) s) := by
  induction ls generalizing s with
  | nil => exact ⟨(List.append_nil _).symm, ⟨rfl, rfl, rfl, rfl⟩, rfl, rfl, rfl, rfl, rfl, rfl, rfl, rfl⟩
  | cons l t ih => exact (visited_visitLine l s).append (ih _)

theorem visited_visitLines (rs : List Nat) (s : State) : Visited (toVisit s rs) s (ran (visitLines rs) s) :=
  visited_each (toVisit s rs) s

theorem toVisit_length (s : State) (rs : List Nat) :
    (toVisit s rs).length = ((linesOf s rs needsInv).filter fun l => !s.fv.visited.contains l).length := List.length_mergeSort _

section
variable {s : State}

theorem ran_preCommit (hrun : s.tick.running = true) (hon : isRunning s = true) (hgo : commitsStopped s = false)
    (hpre : 0 < s.tick.precommit) (hw : s.fv.commit = none) (hdue : s.tick.len ≤ s.tick.offset + s.tick.precommit) :
    ran doPreCommit s = ran (visitLines (partRegions s false)) s := by
  have now : (s.tick.running && isRunning s && !commitsStopped s && decide (0 < s.tick.precommit) &&
      decide (s.tick.len ≤ s.tick.offset + s.tick.precommit) && s.fv.commit.isNone) = true := by
    simp [hrun, hon, hgo, hpre, hw, hdue]
  rw [ran, doPreCommit, run_get_bind, run_ite, if_pos now]
  rfl

theorem ran_preRelease (hrun : s.tick.running = true) (hon : isRunning s = true) (hgo : commitsStopped s = false)
    (hpre : 0 < s.tick.precommit) (hw : s.fv.commit = none) (hdone : s.tick.relDone = false)
    (hdue : phaseAt s s.tick.release ≤ s.tick.offset + s.tick.precommit) :
    ran doPreRelease s = ran (visitLines (partRegions s true)) s := by
  have now : (s.tick.running && isRunning s && !commitsStopped s && decide (0 < s.tick.precommit) && !s.tick.relDone &&
      decide (phaseAt s s.tick.release ≤ s.tick.offset + s.tick.precommit) && s.fv.commit.isNone) = true := by
    simp [hrun, hon, hgo, hpre, hw, hdone, hdue]
  rw [ran, doPreRelease, run_get_bind, run_ite, if_pos now]
  rfl

/-- The state after the next pre-carry has been asked for. -/
def carryAsked (s : State) (l : Line) : State :=
  { s with fv := { s.fv with carryAt := s.now, carryN := 1 },
           arb := { s.arb with waiting := [engineReq s qCommit .preCarry l 0 0 []] }, nextId := s.nextId + 1 }

/-- With nothing waiting, pre-carry takes the first line that needs carry. -/
theorem ran_preCarry {l : Nat} (hon : isRunning s = true) (hup : inStandby s = false) (hlive : discards s = false)
    (hw : s.fv.commit = none) (hr : s.fv.release = none) (hrate : 0 < getF s R.COMMIT_CTL_PRECARRY)
    (hfresh : s.fv.carryAt + 1000 ≤ s.now) (hwait : s.arb.waiting = []) (hchain : s.chain = [])
    (hfirst : (bySa s (linesOf s (List.range 64) needsCarry)).head? = some l) : ran doPreCarry s = carryAsked s l := by
  have now : (isRunning s && !inStandby s && !discards s && s.fv.commit.isNone && s.fv.release.isNone &&
      decide (0 < getF s R.COMMIT_CTL_PRECARRY)) = true := by simp [hon, hup, hlive, hw, hr, hrate]
  have hf : decide (s.fv.carryAt + 1000 ≤ s.now) = true := decide_eq_true hfresh
  obtain ⟨ls, hls⟩ : ∃ ls, bySa s (linesOf s (List.range 64) needsCarry) = l :: ls := List.head?_eq_some_iff.1 hfirst
  rw [ran, doPreCarry, run_get_bind, run_ite, if_pos now]
  rw [hf, if_pos rfl, run_ite, if_pos hrate, hls, List.find?_cons_of_pos (by simp [hwait, hchain])]
  rw [carryAsked, show [engineReq s qCommit .preCarry l 0 0 []] = s.arb.waiting ++ [engineReq s qCommit .preCarry l 0 0 []] by
    rw [hwait, List.nil_append]]
  rfl

end

/-- Settles O13: each check runs action by action; the visits add up over their lines. -/
theorem commitChecksAndVisits : Obligations.CommitChecksAndVisits := by
  refine ⟨fun s hrun hdone hdue hw => endsIn_ran rfl (ran_budgetCheck_closed hrun hdone hdue hw),
    fun w s hrun hdone hdue hw hflip hover => carryLate_counted hrun hdone hdue hw hflip hover,
    fun w s hrun hdone hdue hw hflip hpol hmir _ => overrun_skipped hrun hdone hdue hw hflip hpol hmir,
    fun w s hrun hw hflip hpol hmir _ hrel hdue => stretchExpiry_faults hrun hw hflip hpol hmir hrel hdue,
    fun s hrun hon hgo hpre hw hdue => ?_, fun s hrun hon hgo hpre hw hdone hdue => ?_,
    fun l s hon hup hlive hw hr hrate hfresh hwait hchain hfirst =>
      endsIn_ran rfl (ran_preCarry hon hup hlive hw hr hrate hfresh hwait hchain hfirst)⟩
  · refine leaves_ran (m := doPreCommit) rfl ?_
    rw [ran_preCommit hrun hon hgo hpre hw hdue, ← toVisit_length]
    exact visited_visitLines (partRegions s false) s
  · refine leaves_ran (m := doPreRelease) rfl ?_
    rw [ran_preRelease hrun hon hgo hpre hw hdone hdue, ← toVisit_length]
    exact visited_visitLines (partRegions s true) s

end Sys2Proof.Machine
end

section
/-! SUPPORT. The tick edge (02 R28-R46; 12 R535-R538) on a hub with no region, window, lock or live cell. -/

namespace Sys2Proof.Machine

/-! ### What an edge keeps -/

/-- Registers that an edge reads, on pages of which it writes others. -/
def edgeKeys : List Nat :=
  [R.TICK_NUM_NUM.key, R.TICK_PERIOD_NS10.key, R.TICK_COMMIT_BUDGET_NS10.key, R.FABRIC_STAT_COORD.key]

/-- A field of one of the pages that is neither in a register of `edgeKeys` nor PAIR_SYNC_LOST. -/
def edgeWrites (ps : List Nat) (f : Fld) : Bool :=
  !offPages ps edgeKeys f.key && decide (f.lo + f.w ≤ 32) &&
    (f.key != R.TICK_STAT_PAIR_SYNC_LOST.key || decide (f.lo + f.w ≤ 4) || decide (5 ≤ f.lo))

/-- The registers of the other pages and of `edgeKeys`, PAIR_SYNC_LOST, and what `π` shows are as they were. -/
def edgeFrame {β : Type} (ps : List Nat) (π : State → β) : Keeps where
  rel s t := (∀ k, offPages ps edgeKeys k = true → getReg t.regs k = getReg s.regs k) ∧
    getF t R.TICK_STAT_PAIR_SYNC_LOST = getF s R.TICK_STAT_PAIR_SYNC_LOST ∧ π t = π s
  refl _ := ⟨fun _ _ => rfl, rfl, rfl⟩
  trans _ _ _ h k := by
    obtain ⟨hr, hl, hv⟩ := h
    obtain ⟨kr, kl, kv⟩ := k
    exact ⟨fun i hi => (kr i hi).trans (hr i hi), kl.trans hl, kv.trans hv⟩

/-- The view shows no register and no open value, and nothing that waits or is sent. -/
def Blind {β : Type} (π : State → β) : Prop := ∀ s r q u o, π { s with regs := r, intQ := q, free := u, outs := o } = π s

section
variable {β : Type} {ps : List Nat} {π : State → β}

theorem edgeFrame_getF {s t : State} (h : (edgeFrame ps π).rel s t) {f : Fld} (hf : offPages ps edgeKeys f.key = true) :
    getF t f = getF s f := by
  unfold getF
  rw [h.1 _ hf]

theorem edgeFrame_mono {qs : List Nat} (h : ps ⊆ qs) {s t : State} (hr : (edgeFrame ps π).rel s t) : (edgeFrame qs π).rel s t := by
  refine ⟨fun k hk => hr.1 k ?_, hr.2⟩
  simp only [offPages, Bool.or_eq_true, Bool.not_eq_true', List.contains_eq_mem, decide_eq_false_iff_not, decide_eq_true_eq] at hk ⊢
  exact hk.imp_left fun n m => n (h m)

theorem edgeFrame_pagesKept {s t : State} (h : (edgeFrame ps π).rel s t) : PagesKept ps s t :=
  fun k hk => h.1 k (by simp [offPages, hk])

/-- What changes no register keeps the frame when it keeps the view. -/
theorem edgeFrame_same {s t : State} (hr : t.regs = s.regs) (hv : π t = π s) : (edgeFrame ps π).rel s t :=
  ⟨fun k _ => congrArg (getReg · k) hr, by unfold getF; rw [hr], hv⟩

theorem edgeFrame_modify {f : State → State} (hr : ∀ s, (f s).regs = s.regs) (hv : ∀ s, π (f s) = π s) :
    Within (edgeFrame ps π) (modify f : M Unit) := fun s => edgeFrame_same (hr s) (hv s)

variable (hπ : Blind π)
include hπ

theorem edgeFrame_wrF {f : Fld} (v : Nat) (h : edgeWrites ps f = true) : Within (edgeFrame ps π) (wrF f v) := by
  intro s
  simp only [edgeWrites, Bool.and_eq_true, Bool.not_eq_true', Bool.or_eq_true, decide_eq_true_eq, bne_iff_ne] at h
  obtain ⟨⟨hkey, hfits⟩, hlost⟩ := h
  refine ⟨fun k hk => getReg_setReg_ne _ _ fun e => ?_, fieldFrame_wrF (g := f) v hfits (or_assoc.1 hlost) s, hπ s _ _ _ _⟩
  rw [e, hkey] at hk
  exact Bool.false_ne_true hk

theorem edgeFrame_incF {f : Fld} (h : edgeWrites ps f = true) : Within (edgeFrame ps π) (incF f) :=
  fun s => edgeFrame_wrF hπ _ h s

theorem edgeFrame_maxF {f : Fld} (v : Nat) (h : edgeWrites ps f = true) : Within (edgeFrame ps π) (maxF f v) := by
  intro s
  unfold maxF
  dsimp only
  split
  · exact edgeFrame_wrF hπ _ h s
  · exact Keeps.refl _ s

theorem edgeFrame_raise {page : Nat} (bit : Nat) (h : offPages ps edgeKeys (regKey page offIrqRaw) = false ∧
      offPages ps edgeKeys (regKey page offIrqStat) = false ∧ R.TICK_STAT_PAIR_SYNC_LOST.key ≠ regKey page offIrqRaw ∧
      R.TICK_STAT_PAIR_SYNC_LOST.key ≠ regKey page offIrqStat) : Within (edgeFrame ps π) (raise page bit) := by
  intro s
  obtain ⟨hraw, hstat, hlraw, hlstat⟩ := h
  obtain ⟨r, q, hrun, hkept⟩ := ran_raise page bit s
  rw [← ran, hrun]
  refine ⟨fun k hk => hkept k (fun e => ?_) fun e => ?_, congrArg (fieldOf · _ _) (hkept _ hlraw hlstat), hπ s _ _ _ _⟩
  · rw [e, hraw] at hk
    exact Bool.false_ne_true hk
  · rw [e, hstat] at hk
    exact Bool.false_ne_true hk

theorem edgeFrame_drawBool : Within (edgeFrame ps π) drawBool := fun s => edgeFrame_same rfl (hπ s _ _ _ _)

end

theorem edgeFrame_ofSend {β : Type} {ps : List Nat} {π : State → β} (hπ : ∀ s p o, π { s with pair := p, outs := o } = π s)
    {m : M Unit} (hm : Within sendFrame m) : Within (edgeFrame ps π) m := by
  intro s
  rw [show (m s).2 = { s with pair := (m s).2.pair, outs := (m s).2.outs } from hm s]
  exact edgeFrame_same rfl (hπ s _ _)

/-! ### The edge begins (02 R42, R45, R55) -/

/-- What an edge finds and keeps while it takes the phases of the new tick. -/
def foundView (s : State) :=
  (s.fv.commit, s.pair, s.active, s.pendSet, s.live, s.locks, s.waits, s.mem, s.memChk, s.slots, s.ebuf, s.dir, s.flash)

theorem foundView_blind : Blind foundView := fun _ _ _ _ _ => rfl

theorem foundView_loseLock : Within (edgeFrame [0x01, 0x20] foundView) loseLock :=
  Within.bind (Within.rdB _ _) fun _ => Within.ite
    (Within.bind (edgeFrame_wrF foundView_blind _ (by decide)) fun _ => Within.bind (edgeFrame_incF foundView_blind (by decide)) fun _ =>
      edgeFrame_raise foundView_blind _ (by decide)) (Within.pure _ _)

theorem foundView_endFirefly : Within (edgeFrame [0x01, 0x20] foundView) endFirefly :=
  Within.bind (Within.get _) fun _ => Within.ite (Within.ite (edgeFrame_modify (fun _ => rfl) fun _ => rfl)
    (Within.bind (edgeFrame_modify (fun _ => rfl) fun _ => rfl) fun _ =>
      Within.bind (edgeFrame_wrF foundView_blind _ (by decide)) fun _ => Within.onlyIf foundView_loseLock)) (Within.pure _ _)

theorem foundView_resume : Within (edgeFrame [0x01, 0x20] foundView) resume :=
  Within.bind (Within.get _) fun _ => Within.ite
    (Within.bind (edgeFrame_modify (fun _ => rfl) fun _ => rfl) fun _ => edgeFrame_wrF foundView_blind _ (by decide)) (Within.pure _ _)

/-- The first part of an edge: the tick that ended is left, and the one with the number begins. -/
def beginTick (num : Nat) (mark : Bool) : M Unit := do
  finishCarry
  endFirefly
  resume
  edgePhases
  modify fun s => { s with weevil := { s.weevil with linesInForce := getF s R.SCRUB_LINES_N, hcInForce := getF s R.SCRUB_HC_LINES_N } }
  setFv fun v => { v with joinsNext := [] }
  wrF R.TICK_NUM_NUM num
  modify fun s => { s with tick := { s.tick with
    running := true, started := true, offset := 0, len := plainLen s, base := plainLen s, stretch := 0, overrun := false, budgetDone := false,
    relDone := false, relFlipped := false, relSent := false, hkDone := false, cutDone := false, noMark := !mark } }

/-- What it tells and takes over. -/
def tellTick : M Unit := do
  earlyStretch
  let s ← get
  if isMaster s then sendMarks ([0, 1, 2].map fun k => .tickMark k (tickNum s))
  sendSync
  if !(edgeHeld s regionCtlKey) then takePending
  onlyIf (!(s.pair.acked.any fun e => edgeHeld s e.1)) dropAcked

/-- What follows the publishing of the ledger. -/
def enterTick : M Unit := do
  each entries fun e => setStn e fun x => { x with got := false, late := false, missed := false }
  scheduleAtEdge
  commitAtEdge
  longLocks
  checkGraph

theorem bind_ite {α β : Type} (c : Prop) [Decidable c] (a b : M α) (f : α → M β) :
    (if c then a else b) >>= f = if c then a >>= f else b >>= f := by
  split <;> rfl

theorem newTick_parts (num : Nat) (mark : Bool) : newTick num mark = (do
    let s ← get
    beginTick num mark
    tellTick
    publish (tickNum s)
    enterTick) := by
  simp only [newTick, beginTick, tellTick, enterTick, bind_assoc, bind_ite]

/-! ### The phases and the number -/

theorem ran_finishCarry {s : State} (h : s.fv.commit = none) : ran finishCarry s = s := by
  rw [ran, finishCarry, run_get_bind, h]
  rfl

/-- The state with the written period and phases in force. -/
def phasesLoaded (s : State) : State := { s with tick := { s.tick with
  period := getF s R.TICK_PERIOD_NS10, precommit := getF s R.TICK_PRECOMMIT_NS10,
  budget := getF s R.TICK_COMMIT_BUDGET_NS10, release := getF s R.TICK_RELEASE_NS10,
  hkStart := getF s R.TICK_HK_START_NS10, hkLen := getF s R.TICK_HK_LEN_NS10, cutoff := getF s R.TICK_IN_CUTOFF_NS10 } }

/-- With no record between the hubs, the phases take effect. -/
theorem ran_edgePhases {s : State} (hq : s.pair.mirrorQ = []) (hack : s.pair.acked = []) : ran edgePhases s = phasesLoaded s := by
  have hfree : phaseKeys.any (edgeHeld s) = false := by simp [phaseKeys, edgeHeld, hq, hack]
  rw [ran, edgePhases, run_get_bind, run_onlyIf, hfree]
  rfl

/-- The rates of housekeeping, the number, and the tick at its start. -/
def startTickAt (num : Nat) (mark : Bool) : M Unit := do
  modify fun s => { s with weevil := { s.weevil with linesInForce := getF s R.SCRUB_LINES_N, hcInForce := getF s R.SCRUB_HC_LINES_N } }
  setFv fun v => { v with joinsNext := [] }
  wrF R.TICK_NUM_NUM num
  modify fun s => { s with tick := { s.tick with
    running := true, started := true, offset := 0, len := plainLen s, base := plainLen s, stretch := 0, overrun := false, budgetDone := false,
    relDone := false, relFlipped := false, relSent := false, hkDone := false, cutDone := false, noMark := !mark } }

/-- What the tick shows at its start with the written values `period` and `budget`. -/
structure StartsTick (period budget : Nat) (mark : Bool) (k : Tick) : Prop where
  offset : k.offset = 0
  running : k.running = true
  period : k.period = period
  budget : k.budget = budget
  relDone : k.relDone = false
  budgetDone : k.budgetDone = false
  hkDone : k.hkDone = false
  noMark : k.noMark = !mark

/-- The state after the first part of an edge: the tick at its start with the number, and the rest as found. -/
structure TickBegun (s : State) (num : Nat) (mark : Bool) (t : State) : Prop where
  tick : StartsTick (getF s R.TICK_PERIOD_NS10) (getF s R.TICK_COMMIT_BUDGET_NS10) mark t.tick
  num : tickNum t = num
  kept : ∀ k, k ≠ R.TICK_NUM_NUM.key → offPages [0x01, 0x20] edgeKeys k = true → getReg t.regs k = getReg s.regs k
  lost : getF t R.TICK_STAT_PAIR_SYNC_LOST = getF s R.TICK_STAT_PAIR_SYNC_LOST
  found : foundView t = foundView s

theorem startTickAt_begins (s : State) {num : Nat} (hnum : num < 2 ^ 32) (mark : Bool) :
    TickBegun s num mark (ran (startTickAt num mark) (phasesLoaded s)) where
  tick := ⟨rfl, rfl, rfl, rfl, rfl, rfl, rfl, rfl⟩
  num := getF_wrF (f := R.TICK_NUM_NUM) s (by decide) hnum
  kept _ hk _ := getReg_setReg_ne _ _ hk
  lost := fieldFrame_wrF (g := R.TICK_NUM_NUM) num (by decide) (.inl (by decide)) s
  found := rfl

theorem TickBegun.of_found {s t u : State} {num : Nat} {mark : Bool} (hf : (edgeFrame [0x01, 0x20] foundView).rel s t)
    (h : TickBegun t num mark u) : TickBegun s num mark u where
  tick := by
    have htick := h.tick
    rwa [edgeFrame_getF hf (by decide), edgeFrame_getF hf (by decide)] at htick
  num := h.num
  kept k hk hp := (h.kept k hk hp).trans (hf.1 k hp)
  lost := h.lost.trans hf.2.1
  found := h.found.trans hf.2.2

theorem beginTick_begins {s : State} {num : Nat} (hnum : num < 2 ^ 32) (mark : Bool) (hw : s.fv.commit = none)
    (hq : s.pair.mirrorQ = []) (hack : s.pair.acked = []) : TickBegun s num mark (ran (beginTick num mark) s) := by
  have hparts : beginTick num mark = (do finishCarry; endFirefly; resume; edgePhases; startTickAt num mark) := rfl
  have hf : (edgeFrame [0x01, 0x20] foundView).rel s (ran resume (ran endFirefly s)) :=
    Keeps.trans _ _ _ _ (foundView_endFirefly.ran s) (foundView_resume.ran _)
  rw [hparts, ran_then, ran_finishCarry hw, ran_then, ran_then, ran_then]
  generalize ran resume (ran endFirefly s) = t at *
  have hpair : t.pair = s.pair := congrArg (fun v => v.2.1) hf.2.2
  rw [ran_edgePhases (hpair ▸ hq) (hpair ▸ hack)]
  exact (startTickAt_begins t hnum mark).of_found hf

/-! ### What the edge tells and takes over -/

/-- What the rest of an edge keeps of the tick and of what it found. -/
def edgeView (s : State) :=
  ((s.tick.offset, s.tick.running, s.tick.period, s.tick.budget, s.tick.relDone, s.tick.budgetDone, s.tick.hkDone, s.tick.noMark),
    (s.active, s.pendSet, s.live, s.locks, s.waits), s.mem, s.memChk, s.slots, s.ebuf, s.dir, s.flash)

theorem edgeView_blind : Blind edgeView := fun _ _ _ _ _ => rfl

/-- No region, no pending set, no lock and no live cell is there, the hub coordinates no other, an empty commit fits its budget,
and the pair link is no reason to skip. -/
structure Quiet (s : State) : Prop where
  active : s.active = []
  pendSet : s.pendSet = none
  live : s.live = []
  locks : s.locks = []
  waits : s.waits = []
  budget : 120 ≤ s.tick.budget
  coord : isCoord s = false
  link : s.tick.noMark = false → linkOut s = false

/-- The pages of the TICK and the COMMIT registers. -/
def edgePages : List Nat := [0x01, 0x70]

/-- The state of the pair link stands in PAIR_STAT. -/
theorem linkOut_congr {s t : State} (h : ∀ f : Fld, f.key = R.PAIR_STAT_LSTATE.key → getF t f = getF s f) : linkOut t = linkOut s := by
  simp only [linkOut, isMaster, isHub1, hasPartner, isJoined, isLost, pairLstate, h R.PAIR_STAT_ROLE (by decide),
    h R.PAIR_STAT_JOINED (by decide), h R.PAIR_STAT_LOST (by decide), h R.PAIR_STAT_LSTATE (by decide)]

theorem offPages_pairStat {ps : List Nat} (hp : 0x18 ∉ ps) : offPages ps edgeKeys R.PAIR_STAT_LSTATE.key = true := by
  have hpage : R.PAIR_STAT_LSTATE.key / 4096 = 0x18 := rfl
  simp [offPages, hpage, hp]

theorem Quiet.of_edge {ps : List Nat} (hp : 0x18 ∉ ps) {s t : State} (hq : Quiet s)
    (h : (edgeFrame ps edgeView).rel s t) : Quiet t := by
  have hlink := linkOut_congr fun f hf => edgeFrame_getF h (f := f) (by rw [hf]; exact offPages_pairStat hp)
  have hcoord : isCoord t = isCoord s := by
    simp only [isCoord, edgeFrame_getF h (f := R.FABRIC_STAT_COORD) (by simp [offPages, edgeKeys])]
  have hview := h.2.2
  simp only [edgeView, Prod.mk.injEq] at hview
  obtain ⟨⟨-, -, -, hb, -, -, -, hm⟩, ⟨ha, hs, hl, hk, hw⟩, -⟩ := hview
  exact ⟨ha ▸ hq.active, hs ▸ hq.pendSet, hl ▸ hq.live, hk ▸ hq.locks, hw ▸ hq.waits, hb ▸ hq.budget, hcoord ▸ hq.coord,
    fun hn => hlink ▸ hq.link (hm ▸ hn)⟩

/-- While the hub is quiet, it stays so and the frame of an edge is kept. -/
def quietFrame : Keeps where
  rel s t := Quiet s → (edgeFrame edgePages edgeView).rel s t
  refl _ := fun _ => Keeps.refl _ _
  trans _ _ _ h k := fun hq => Keeps.trans _ _ _ _ (h hq) (k (hq.of_edge (by decide) (h hq)))

theorem quietFrame_of {α : Type} {m : M α} (h : Within (edgeFrame edgePages edgeView) m) : Within quietFrame m := fun s _ => h s

theorem quietFrame_earlyStretch : Within quietFrame earlyStretch := by
  refine quietFrame_of (Within.bind (Within.get _) fun s => ?_)
  split
  · exact Within.bind (edgeFrame_modify (fun _ => rfl) fun _ => rfl) fun _ =>
      Within.ite (edgeFrame_modify (fun _ => rfl) fun _ => rfl) (Within.pure _ _)
  · exact Within.pure _ _

theorem quietFrame_sendMarks (ms : List PairMsg) : Within quietFrame (sendMarks ms) :=
  quietFrame_of (Within.bind (Within.get _) fun _ => Within.onlyIf (edgeFrame_ofSend (fun _ _ _ => rfl) (sendFrame_sendFlits _)))

/-- A hub that is no coordinator sends no SYNC. -/
theorem quietFrame_sendSync : Within quietFrame sendSync := by
  intro s hq
  have hno : ¬ isCoord s = true := by simp [hq.coord]
  rw [sendSync, run_get_bind, run_ite, if_neg hno]
  exact Keeps.refl _ _

theorem quietFrame_takePending : Within quietFrame takePending := by
  intro s hq
  rw [takePending, run_get_bind, takePendingFrom, run_get_bind, hq.pendSet]
  exact Keeps.refl _ _

theorem quietFrame_tellTick : Within quietFrame tellTick := by
  refine Within.bind quietFrame_earlyStretch fun _ => Within.bind (Within.get _) fun s => ?_
  have hdrop : Within quietFrame dropAcked := quietFrame_of (edgeFrame_modify (fun _ => rfl) fun _ => rfl)
  have hlast : Within quietFrame (do
      if !(edgeHeld s regionCtlKey) then takePending
      onlyIf (!(s.pair.acked.any fun e => edgeHeld s e.1)) dropAcked) :=
    Within.ite (Within.bind quietFrame_takePending fun _ => Within.onlyIf hdrop) (Within.onlyIf hdrop)
  exact Within.ite (Within.bind (quietFrame_sendMarks _) fun _ => Within.bind quietFrame_sendSync fun _ => hlast)
    (Within.bind quietFrame_sendSync fun _ => hlast)

/-! ### The ledger (02 R67, R96) -/

theorem kvGet_filter {α : Type} (d : Nat → α) (p : Nat × α → Bool) (m : KV α) {k : Nat} (h : ∀ v, p (k, v) = true) :
    kvGet d (m.filter p) k = kvGet d m k := by
  induction m with
  | nil => rfl
  | cons e t ih =>
    obtain ⟨a, v⟩ := e
    by_cases ha : a = k
    · subst ha
      rw [List.filter_cons_of_pos (h v), kvGet, kvGet, if_pos rfl, if_pos rfl]
    · by_cases hp : p (a, v) = true
      · rw [List.filter_cons_of_pos hp, kvGet, kvGet, if_neg ha, if_neg ha, ih]
      · rw [List.filter_cons_of_neg hp, kvGet, if_neg ha, ih]

/-- The banks of the ledger lie on its page. -/
theorem edgeFrame_clearLedger {s : State} (hlive : s.live = []) : (edgeFrame [0x78] edgeView).rel s (ran clearLedger s) := by
  have hkept : ∀ k, k / 4096 ≠ 0x78 → getReg (ran clearLedger s).regs k = getReg s.regs k := by
    intro k hk
    refine kvGet_filter _ _ _ fun v => ?_
    have hpage : k < regKey pgLedger 0x80 ∧ k < regKey pgLedger 0x100 ∨ regKey pgLedger 0xC0 ≤ k ∧ regKey pgLedger 0xD00 ≤ k := by
      simp only [regKey, pgLedger]
      omega
    obtain ⟨h1, h2⟩ | ⟨h1, h2⟩ := hpage
    · rw [decide_eq_false (Nat.not_le.2 h1), decide_eq_false (Nat.not_le.2 h2)]
      rfl
    · rw [decide_eq_false (Nat.not_lt.2 h1), decide_eq_false (Nat.not_lt.2 h2), Bool.and_false, Bool.and_false]
      rfl
  refine ⟨fun k hk => hkept k ?_, congrArg (fieldOf · _ _) (hkept _ (by decide)), ?_⟩
  · intro hpage
    have hin : k ∈ edgeKeys := by simpa [offPages, hpage] using hk
    have hoff : ∀ j ∈ edgeKeys, j / 4096 ≠ 0x78 := by decide
    exact hoff k hin hpage
  · rw [show ran clearLedger s = { s with live := [], regs := (ran clearLedger s).regs } from rfl, ← hlive]
    rfl

/-- With no live cell, publishing shows the number of the tick that ended. -/
theorem publish_shows {s : State} (hlive : s.live = []) {ended : Nat} (hnum : ended < 2 ^ 32) :
    (edgeFrame [0x78] edgeView).rel s (ran (publish ended) s) ∧ getF (ran (publish ended) s) R.LEDGER_PUB_TICK_NUM = ended := by
  have hrun : ran (publish ended) s = ran (wrF R.LEDGER_PUB_TICK_NUM ended) (ran (wrF R.LEDGER_OVER_TEN_TENANTS 0)
      (ran (wrF R.LEDGER_OVER_PORT_PORTS 0) (ran clearLedger s))) := by
    rw [ran, publish, run_get_bind, hlive]
    rfl
  rw [hrun]
  refine ⟨?_, getF_wrF _ (by decide) hnum⟩
  exact Keeps.trans _ _ _ _ (edgeFrame_clearLedger hlive) (Keeps.trans _ _ _ _
    ((edgeFrame_wrF edgeView_blind _ (by decide)).ran _) (Keeps.trans _ _ _ _
    ((edgeFrame_wrF edgeView_blind _ (by decide)).ran _) ((edgeFrame_wrF edgeView_blind _ (by decide)).ran _)))

/-! ### The commit at the edge (02 R45-R48; 11 R482-R489) -/

theorem edgeFrame_askWindow (rel : Bool) : Within (edgeFrame edgePages edgeView) (askWindow rel) := by
  refine Within.bind (Within.get _) fun s => ?_
  split
  · exact Within.ite (Within.bind (edgeFrame_modify (fun _ => rfl) fun _ => rfl) fun _ =>
      Within.each _ _ fun _ _ => Within.bind (Within.get _) fun _ => edgeFrame_modify (fun _ => rfl) fun _ => rfl) (Within.pure _ _)
  · exact Within.pure _ _

theorem edgeFrame_openWindow (rs : List Nat) (rel : Bool) : Within (edgeFrame edgePages edgeView) (openWindow rs rel) := by
  refine Within.bind (edgeFrame_modify (fun _ => rfl) fun _ => rfl) fun _ => Within.bind (Within.get _) fun s => ?_
  exact Within.ite
    (Within.bind (edgeFrame_wrF edgeView_blind _ (by decide)) fun _ =>
      Within.bind (edgeFrame_modify (fun _ => rfl) fun _ => rfl) fun _ => edgeFrame_askWindow rel)
    (Within.bind (edgeFrame_wrF edgeView_blind _ (by decide)) fun _ =>
      Within.bind (edgeFrame_modify (fun _ => rfl) fun _ => rfl) fun _ => edgeFrame_askWindow rel)

/-- Without regions there is nothing to invalidate or carry, and the bound is the least one. -/
theorem partRegions_nil {s : State} (h : s.active = []) (out : Bool) : partRegions s out = [] := by
  have hno : ∀ r, fvPart s r out = false := fun r => by
    have hd : descOf s.active r = Desc.invalid := by rw [h]; rfl
    simp [fvPart, isFv, hd, Desc.invalid]
  simp [partRegions, hno]

theorem edgeOver_quiet {s : State} (hq : Quiet s) :
    edgeOver s (boundOf (linesOf s (partRegions s false) needsInv).length (linesOf s (partRegions s false) needsCarry).length) = false := by
  have hbound : boundOf (linesOf s [] needsInv).length (linesOf s [] needsCarry).length = 120 := by simp [linesOf, boundOf]
  rw [partRegions_nil hq.active, hbound]
  exact decide_eq_false (Nat.not_lt.2 hq.budget)

theorem quietFrame_commitAtEdge : Within quietFrame commitAtEdge := by
  intro s hq
  have hover := edgeOver_quiet hq
  have hb := edgeView_blind
  rw [commitAtEdge, run_get_bind]
  extract_lets last mirror master
  have hlast : ∀ u, Within (edgeFrame edgePages edgeView) (last u) := fun _ => edgeFrame_modify (fun _ => rfl) fun _ => rfl
  have hmirror : ∀ b, Within (edgeFrame edgePages edgeView) (mirror b) := fun _ =>
    Within.bind (edgeFrame_wrF hb _ (by decide)) fun _ => Within.bind (edgeFrame_modify (fun _ => rfl) fun _ => rfl) fun _ =>
      Within.bind (edgeFrame_openWindow _ _) hlast
  have hmaster : ∀ u, Within (edgeFrame edgePages edgeView) (master u) := fun _ =>
    Within.bind (Within.get _) fun _ => Within.ite (Within.bind (edgeFrame_openWindow _ _) hlast) (hlast ())
  refine (?_ : Within (edgeFrame edgePages edgeView) _) s
  refine (Within.bind (edgeFrame_wrF hb _ (by decide)) fun _ =>
    Within.bind (edgeFrame_wrF hb _ (by decide)) fun _ => Within.bind (edgeFrame_wrF hb _ (by decide)) fun _ =>
    Within.bind (edgeFrame_maxF hb _ (by decide)) fun _ => Within.bind (edgeFrame_wrF hb _ (by decide)) fun _ =>
    Within.bind (edgeFrame_wrF hb _ (by decide)) fun _ => Within.bind (edgeFrame_modify (fun _ => rfl) fun _ => rfl) fun _ => ?_)
  by_cases hopen : (!commitsStopped s && s.fv.commit.isNone && !s.tick.noMark) = true
  · have hmark : s.tick.noMark = false := by simp_all
    have hlink : ¬ linkOut s = true := by simp [hq.link hmark]
    rw [if_pos hopen]
    refine Within.ite (Within.bind (edgeFrame_ofSend (fun _ _ _ => rfl) (sendFrame_toPartner _)) fun _ => Within.ite
      (Within.bind (Within.pure _ _) hmirror) (Within.bind (edgeFrame_drawBool hb) hmirror)) ?_
    rw [if_neg hlink, if_neg (ne_true_of_eq_false hover)]
    exact hmaster ()
  · rw [if_neg hopen]
    exact hlast ()

/-! ### The end of the edge -/

theorem quietFrame_longLocks : Within quietFrame longLocks := by
  intro s hq
  rw [longLocks, run_get_bind, hq.locks]
  split
  · exact Keeps.refl _ _
  · exact Keeps.refl _ _

theorem quietFrame_checkGraph : Within quietFrame checkGraph := by
  intro s hq
  rw [checkGraph, run_get_bind, hq.waits]
  split
  · exact Keeps.refl _ _
  · exact Keeps.refl _ _

theorem quietFrame_enterTick : Within quietFrame enterTick :=
  Within.bind (Within.each _ _ fun _ _ => quietFrame_of fun _ => edgeFrame_same rfl rfl) fun _ =>
    Within.bind (quietFrame_of (edgeFrame_modify (fun _ => rfl) fun _ => rfl)) fun _ =>
    Within.bind quietFrame_commitAtEdge fun _ => Within.bind quietFrame_longLocks fun _ => quietFrame_checkGraph

/-! ### The edge as a whole -/

/-- What an edge leaves: the new tick at its start, the ledger of the one that ended, and the registers of other pages and the
stored data as they were. -/
structure EdgeMade (ps : List Nat) (s : State) (num : Nat) (mark : Bool) (x : State) : Prop where
  num : tickNum x = num
  published : getF x R.LEDGER_PUB_TICK_NUM = tickNum s
  tick : StartsTick (getF s R.TICK_PERIOD_NS10) (getF s R.TICK_COMMIT_BUDGET_NS10) mark x.tick
  pages : PagesKept ps s x
  data : DataKept s x

/-- The pages whose registers an edge writes: TICK, FABRIC, COMMIT and LEDGER. -/
def tickPages : List Nat := [0x01, 0x20, 0x70, 0x78]

/-- The state of a hub that an edge meets with no region, pending set, window, lock, live cell or record between the hubs, where
an empty commit fits its budget and the hub coordinates no other. -/
structure PlainEdge (s : State) : Prop where
  active : s.active = []
  commit : s.fv.commit = none
  pendSet : s.pendSet = none
  live : s.live = []
  locks : s.locks = []
  waits : s.waits = []
  mirrorQ : s.pair.mirrorQ = []
  acked : s.pair.acked = []
  budget : 120 ≤ getF s R.TICK_COMMIT_BUDGET_NS10
  coord : isCoord s = false

theorem tickNum_lt (s : State) : tickNum s < 2 ^ 32 := Nat.mod_lt _ (by decide)

theorem TickBegun.quiet {s t : State} {num : Nat} {mark : Bool} (h : TickBegun s num mark t) (hs : PlainEdge s)
    (hlink : mark = true → linkOut s = false) : Quiet t := by
  have hview := h.found
  simp only [foundView, Prod.mk.injEq] at hview
  obtain ⟨-, -, ha, hp, hl, hk, hw, -⟩ := hview
  have hkey : ∀ f : Fld, f.key ≠ R.TICK_NUM_NUM.key → offPages [0x01, 0x20] edgeKeys f.key = true → getF t f = getF s f :=
    fun f hf ho => by
      unfold getF
      rw [h.kept _ hf ho]
  have hc : isCoord t = isCoord s := by simp only [isCoord, hkey R.FABRIC_STAT_COORD (by decide) (by decide)]
  have hout : linkOut t = linkOut s := linkOut_congr fun f hf => hkey f (by rw [hf]; decide) (by rw [hf]; decide)
  refine ⟨ha ▸ hs.active, hp ▸ hs.pendSet, hl ▸ hs.live, hk ▸ hs.locks, hw ▸ hs.waits, h.tick.budget ▸ hs.budget, hc ▸ hs.coord,
    fun hm => ?_⟩
  rw [hout]
  exact hlink (by simpa [h.tick.noMark] using hm)

theorem StartsTick.of_view {period budget : Nat} {mark : Bool} {s t : State} (h : StartsTick period budget mark s.tick)
    (hview : edgeView t = edgeView s) : StartsTick period budget mark t.tick := by
  simp only [edgeView, Prod.mk.injEq] at hview
  obtain ⟨⟨ho, hr, hp, hb, hd, hbd, hh, hm⟩, -⟩ := hview
  exact ⟨ho.trans h.offset, hr.trans h.running, hp.trans h.period, hb.trans h.budget, hd.trans h.relDone, hbd.trans h.budgetDone,
    hh.trans h.hkDone, hm.trans h.noMark⟩

theorem foundView_data {s t : State} (h : foundView t = foundView s) : DataKept s t := by
  simp only [foundView, Prod.mk.injEq] at h
  obtain ⟨-, -, -, -, -, -, -, hdata⟩ := h
  exact hdata

theorem edgeView_data {s t : State} (h : edgeView t = edgeView s) : DataKept s t := by
  simp only [edgeView, Prod.mk.injEq] at h
  exact h.2.2

/-- What follows the begin of the tick adds the ledger, and keeps the rest. -/
theorem TickBegun.made {s t x : State} {num : Nat} {mark : Bool} (h : TickBegun s num mark t)
    (hf : (edgeFrame tickPages edgeView).rel t x) (hpub : getF x R.LEDGER_PUB_TICK_NUM = tickNum s) :
    EdgeMade tickPages s num mark x where
  num := (edgeFrame_getF hf (by decide)).trans h.num
  published := hpub
  tick := h.tick.of_view hf.2.2
  pages k hk := by
    have hnum : k ≠ R.TICK_NUM_NUM.key := fun e => hk (by rw [e]; decide)
    have hoff : offPages [0x01, 0x20] edgeKeys k = true := by
      simp only [tickPages, List.mem_cons, List.not_mem_nil, or_false, not_or] at hk
      simp [offPages, hk]
    exact (edgeFrame_pagesKept hf k hk).trans (h.kept k hnum hoff)
  data := dataKept_trans (foundView_data h.found) (edgeView_data hf.2.2)

/-- The edge of a plain hub; PAIR_SYNC_LOST is as it was. -/
theorem newTick_made {s : State} (hs : PlainEdge s) {num : Nat} (hnum : num < 2 ^ 32) {mark : Bool}
    (hlink : mark = true → linkOut s = false) : EdgeMade tickPages s num mark (ran (newTick num mark) s) ∧
      getF (ran (newTick num mark) s) R.TICK_STAT_PAIR_SYNC_LOST = getF s R.TICK_STAT_PAIR_SYNC_LOST := by
  have hparts : ran (newTick num mark) s =
      ran (beginTick num mark >>= fun _ => tellTick >>= fun _ => publish (tickNum s) >>= fun _ => enterTick) s := by
    rw [newTick_parts, ran, run_get_bind, ran]
  rw [hparts]
  rw [ran_then, ran_then, ran_then]
  have hbegun := beginTick_begins hnum mark hs.commit hs.mirrorQ hs.acked
  generalize ran (beginTick num mark) s = t at *
  have hquiet := hbegun.quiet hs hlink
  have htold := quietFrame_tellTick.ran t hquiet
  have htold' := hquiet.of_edge (by decide) htold
  generalize ran tellTick t = u at *
  obtain ⟨hpub, hshown⟩ := publish_shows htold'.live (tickNum_lt s)
  have hpub' := htold'.of_edge (by decide) hpub
  generalize ran (publish (tickNum s)) u = v at *
  have hent := quietFrame_enterTick.ran v hpub'
  generalize ran enterTick v = x at *
  have hrest : (edgeFrame tickPages edgeView).rel t x := Keeps.trans _ _ _ _ (edgeFrame_mono (by simp [edgePages, tickPages]) htold)
    (Keeps.trans _ _ _ _ (edgeFrame_mono (by simp [tickPages]) hpub) (edgeFrame_mono (by simp [edgePages, tickPages]) hent))
  exact ⟨hbegun.made hrest (by rw [edgeFrame_getF hent (by decide), hshown]), hrest.2.1.trans hbegun.lost⟩

/-! ### What comes before the edge on hub 1 -/

/-- Registers that an edge reads, and what it finds. -/
def beforeEdge (ps : List Nat) : Keeps := stepFrame (offPages ps edgeKeys) foundView

theorem PlainEdge.of_before {ps : List Nat} {s t : State} (hs : PlainEdge s) (h : (beforeEdge ps).rel s t) : PlainEdge t := by
  have hkey : ∀ f : Fld, f.key ∈ edgeKeys → getF t f = getF s f := fun f hf => stepFrame_getF h (by simp [offPages, hf])
  have hc : isCoord t = isCoord s := by simp only [isCoord, hkey R.FABRIC_STAT_COORD (by decide)]
  have hview := h.2
  simp only [foundView, Prod.mk.injEq] at hview
  obtain ⟨hw, hpair, ha, hp, hl, hk, hwt, -⟩ := hview
  exact ⟨ha ▸ hs.active, hw ▸ hs.commit, hp ▸ hs.pendSet, hl ▸ hs.live, hk ▸ hs.locks, hwt ▸ hs.waits, hpair ▸ hs.mirrorQ,
    hpair ▸ hs.acked, hkey R.TICK_COMMIT_BUDGET_NS10 (by decide) ▸ hs.budget, hc ▸ hs.coord⟩

theorem EdgeMade.of_before {ps qs rs : List Nat} {s t x : State} {num : Nat} {mark : Bool} (h : EdgeMade ps t num mark x)
    (hb : (beforeEdge qs).rel s t) (hps : ps ⊆ rs) (hqs : qs ⊆ rs) : EdgeMade rs s num mark x := by
  have hkey : ∀ f : Fld, f.key ∈ edgeKeys → getF t f = getF s f := fun f hf => stepFrame_getF hb (by simp [offPages, hf])
  refine ⟨h.num, h.published.trans (hkey _ (by decide)), ?_, fun k hk => ?_, dataKept_trans (foundView_data hb.2) h.data⟩
  · have htick := h.tick
    rwa [hkey _ (by decide), hkey _ (by decide)] at htick
  · have hoff : k / 4096 ∉ qs := fun hm => hk (hqs hm)
    exact (h.pages k fun hm => hk (hps hm)).trans (hb.1 k (by simp [offPages, hoff]))

theorem beforeEdge_wrF {ps : List Nat} {f : Fld} (v : Nat) (h : offPages ps edgeKeys f.key = false) :
    Within (beforeEdge ps) (wrF f v) := fun s => ⟨(regFrame_wrF v h s).2, rfl⟩

theorem beforeEdge_incF {ps : List Nat} {f : Fld} (h : offPages ps edgeKeys f.key = false) :
    Within (beforeEdge ps) (incF f) := fun s => ⟨(regFrame_incF h s).2, rfl⟩

theorem beforeEdge_wrReg {ps : List Nat} {p o : Nat} (v : Word) (h : offPages ps edgeKeys (regKey p o) = false) :
    Within (beforeEdge ps) (wrReg p o v) := fun s => ⟨(regFrame_wrReg v h s).2, rfl⟩

theorem beforeEdge_raise {ps : List Nat} {page : Nat} (bit : Nat) (hraw : offPages ps edgeKeys (regKey page offIrqRaw) = false)
    (hstat : offPages ps edgeKeys (regKey page offIrqStat) = false) : Within (beforeEdge ps) (raise page bit) := by
  intro s
  obtain ⟨r, q, hrun, -⟩ := ran_raise page bit s
  refine ⟨(regFrame_raise bit hraw hstat s).2, ?_⟩
  rw [← ran, hrun]
  rfl

theorem beforeEdge_drawWord {ps : List Nat} : Within (beforeEdge ps) drawWord := fun _ => ⟨fun _ _ => rfl, rfl⟩

/-- The pages on which hub 1 notes that a marker is missing: TICK and PAIR. -/
def missPages : List Nat := [0x01, 0x18]

theorem beforeEdge_errCapPair (code c1 c2 : Nat) : Within (beforeEdge missPages) (errCap pgPair code c1 c2) :=
  Within.bind (Within.rdB _ _) fun _ => Within.ite (beforeEdge_incF (by decide))
    (Within.bind (beforeEdge_wrF _ (by decide)) fun _ => Within.bind (beforeEdge_wrF _ (by decide)) fun _ =>
      Within.bind (beforeEdge_wrF _ (by decide)) fun _ => Within.bind (beforeEdge_wrReg _ (by decide)) fun _ =>
      Within.bind (beforeEdge_wrReg _ (by decide)) fun _ => Within.bind (Within.rdF _ _) fun _ => beforeEdge_wrReg _ (by decide))

/-- PAIR_ERR shows the phase error (02 R39). -/
theorem beforeEdge_pairErr : Within (beforeEdge [0x01]) pairErr :=
  Within.bind (Within.get _) fun _ => Within.ite (beforeEdge_wrF _ (by decide))
    (Within.bind beforeEdge_drawWord fun _ => beforeEdge_wrF _ (by decide))

/-- How a missing marker is counted and reported, once PAIR_SYNC_LOST is set (02 R38). -/
def countMissing : M Unit := do
  incF R.TICK_PAIR_MISS_CNT
  raise pgTick 5
  incF R.PAIR_MARKER_MISS_CNT_CNT
  errCapFree pgPair 4

theorem beforeEdge_countMissing : Within (beforeEdge missPages) countMissing :=
  Within.bind (beforeEdge_incF (by decide)) fun _ => Within.bind (beforeEdge_raise _ (by decide) (by decide)) fun _ =>
    Within.bind (beforeEdge_incF (by decide)) fun _ => Within.bind beforeEdge_drawWord fun _ =>
    Within.bind beforeEdge_drawWord fun _ => beforeEdge_errCapPair _ _ _

/-- None of it writes the register of PAIR_SYNC_LOST. -/
theorem countMissing_stat : Within (regFrame fun k => k == R.TICK_STAT_PAIR_SYNC_LOST.key) countMissing :=
  Within.bind (regFrame_incF (by decide)) fun _ => Within.bind (regFrame_raise _ (by decide) (by decide)) fun _ =>
    Within.bind (regFrame_incF (by decide)) fun _ => regFrame_errCapFree _ (by decide)

/-! ### The commands (02 R28, R36, R38; 12 R535) -/

section
variable {s : State}

theorem ran_tickEdge (hrun : s.tick.running = true) (hown : ownEdges s = true) (hdue : s.tick.len ≤ s.tick.offset)
    (hw : s.fv.commit = none) : ran doTickEdge s = ran (newTick ((tickNum s + 1) % 2 ^ 32) true) s := by
  have now : (s.tick.running && ownEdges s && edgeDue s) = true := by simp [hrun, hown, edgeDue, hdue, hw]
  rw [ran, doTickEdge, run_get_bind, run_onlyIf, if_pos now, ran]

theorem ran_tickMark {num : Nat} (hmir : isMirror s = true) (hpart : hasPartner s = true) (hact : pairLstate s = 6)
    (hrun : s.tick.running = true) (hnew : num ≠ tickNum s) : ran (doTickMark num) s = ran (newTick num true) (ran pairErr s) := by
  have now : (isMirror s && hasPartner s && decide (pairLstate s = 6) && s.tick.running && num != tickNum s) = true := by
    simp [hmir, hpart, hact, hrun, hnew]
  rw [ran, doTickMark, run_get_bind, run_ite, if_pos now, ← ran, ran_then]

theorem ran_tickMarkMissing (hmir : isMirror s = true) (hpart : hasPartner s = true) (hrun : s.tick.running = true)
    (hdue : s.tick.len ≤ s.tick.offset) :
    ran doTickMarkMissing s = ran (newTick ((tickNum s + 1) % 2 ^ 32) false)
      (ran countMissing (ran (wrF R.TICK_STAT_PAIR_SYNC_LOST 1) s)) := by
  have now : (isMirror s && hasPartner s && s.tick.running && decide (s.tick.len ≤ s.tick.offset)) = true := by
    simp [hmir, hpart, hrun, hdue]
  rw [ran, doTickMarkMissing, run_get_bind, run_ite, if_pos now, ← ran, ran_then, ← ran_then countMissing]
  simp only [countMissing, bind_assoc]

/-- An edge that this hub makes itself, or with a marker, shows what the statement says of it. -/
theorem EdgeMade.shows {ps : List Nat} {num : Nat} {mark : Bool} {x : State} (h : EdgeMade ps s num mark x) :
    tickNum x = num ∧ getF x R.LEDGER_PUB_TICK_NUM = tickNum s ∧ x.tick.offset = 0 ∧ x.tick.running = true ∧
      x.tick.period = getF s R.TICK_PERIOD_NS10 ∧ x.tick.relDone = false ∧ x.tick.budgetDone = false ∧ x.tick.hkDone = false ∧
      x.tick.noMark = (!mark) ∧ PagesKept ps s x ∧ DataKept s x :=
  ⟨h.num, h.published, h.tick.offset, h.tick.running, h.tick.period, h.tick.relDone, h.tick.budgetDone, h.tick.hkDone,
    h.tick.noMark, h.pages, h.data⟩

/-- The mirror takes no decision on the pair link of its own. -/
theorem linkOut_mirror (hmir : isMirror s = true) : linkOut s = false := by
  have hhub : isHub1 s = true := by
    simp only [isMirror, Bool.and_eq_true] at hmir
    exact hmir.2
  simp [linkOut, isMaster, hhub]

theorem tickMark_made (hs : PlainEdge s) {num : Nat} (hnum : num < 2 ^ 32) (hmir : isMirror s = true) (hpart : hasPartner s = true)
    (hact : pairLstate s = 6) (hrun : s.tick.running = true) (hnew : num ≠ tickNum s) :
    EdgeMade tickPages s num true (ran (doTickMark num) s) := by
  have herr := beforeEdge_pairErr.ran s
  have hlink : linkOut (ran pairErr s) = false :=
    (linkOut_congr fun f hf => stepFrame_getF herr (by rw [hf]; decide)).trans (linkOut_mirror hmir)
  rw [ran_tickMark hmir hpart hact hrun hnew]
  exact (newTick_made (hs.of_before herr) hnum fun _ => hlink).1.of_before herr (List.Subset.refl _) (by decide)

theorem tickMarkMissing_made (hs : PlainEdge s) (hmir : isMirror s = true) (hpart : hasPartner s = true)
    (hrun : s.tick.running = true) (hdue : s.tick.len ≤ s.tick.offset) :
    EdgeMade [0x01, 0x18, 0x20, 0x70, 0x78] s ((tickNum s + 1) % 2 ^ 32) false (ran doTickMarkMissing s) ∧
      getF (ran doTickMarkMissing s) R.TICK_STAT_PAIR_SYNC_LOST = 1 := by
  rw [ran_tickMarkMissing hmir hpart hrun hdue]
  have hset : (beforeEdge missPages).rel s (ran (wrF R.TICK_STAT_PAIR_SYNC_LOST 1) s) := beforeEdge_wrF _ (by decide) s
  have hone : getF (ran (wrF R.TICK_STAT_PAIR_SYNC_LOST 1) s) R.TICK_STAT_PAIR_SYNC_LOST = 1 := getF_wrF s (by decide) (by decide)
  generalize ran (wrF R.TICK_STAT_PAIR_SYNC_LOST 1) s = t at *
  have hbefore := Keeps.trans _ _ _ _ hset (beforeEdge_countMissing.ran t)
  have hlost : getF (ran countMissing t) R.TICK_STAT_PAIR_SYNC_LOST = getF t R.TICK_STAT_PAIR_SYNC_LOST :=
    regFrame_getF (countMissing_stat.ran t) (by decide)
  generalize ran countMissing t = u at *
  obtain ⟨hmade, hsame⟩ := newTick_made (hs.of_before hbefore) (Nat.mod_lt (tickNum s + 1) (Nat.two_pow_pos 32))
    (mark := false) (by simp)
  exact ⟨hmade.of_before hbefore (by decide) (by decide), hsame.trans (hlost.trans hone)⟩

end

/-- Settles O12: the begin of the tick is exact; what the edge tells, publishes and opens keeps it. -/
theorem tickEdgeStartsANewTick : Obligations.TickEdgeStartsANewTick := by
  refine ⟨fun s hrun hown hdue hlink _ hact hw _ hpend hlive hlocks hwaits hq hack hbudget hcoord => ?_,
    fun num s hmir hpart hup hrun hnew _ hact hw _ hpend hlive hlocks hwaits hq hack hbudget hcoord => ?_,
    fun s hmir hpart hrun hdue _ hact hw _ hpend hlive hlocks hwaits hq hack hbudget hcoord => ?_⟩
  · have hs : PlainEdge s := ⟨hact, hw, hpend, hlive, hlocks, hwaits, hq, hack, hbudget, hcoord⟩
    refine leaves_ran (m := doTickEdge) rfl ?_
    rw [ran_tickEdge hrun hown hdue hw]
    exact (newTick_made hs (Nat.mod_lt _ (Nat.two_pow_pos 32)) fun _ => hlink).1.shows
  · have hs : PlainEdge s := ⟨hact, hw, hpend, hlive, hlocks, hwaits, hq, hack, hbudget, hcoord⟩
    exact leaves_ran (m := doTickMark num.toNat) rfl (tickMark_made hs num.isLt hmir hpart hup hrun hnew).shows
  · have hs : PlainEdge s := ⟨hact, hw, hpend, hlive, hlocks, hwaits, hq, hack, hbudget, hcoord⟩
    refine leaves_ran (m := doTickMarkMissing) rfl ?_
    obtain ⟨hmade, hlost⟩ := tickMarkMissing_made hs hmir hpart hrun hdue
    obtain ⟨hnum, -, hoff, hgo, hper, hrel, hbud, hhk, hmark, hpages, hdata⟩ := hmade.shows
    exact ⟨hnum, hlost, hoff, hgo, hper, hrel, hbud, hhk, hmark, hpages, hdata⟩

end Sys2Proof.Machine
end

section
/-! SUPPORT. What agent traffic and the loss of the partner keep: accesses to lines, flows, the snoop filter and its repair,
messages to agents, and the deaths and the halt that a lost pair link brings (12 R548-R551; 15 R677-R683). -/

namespace Sys2Proof.Machine

/-- The event unit, the clock, the regions, the stations, the mailboxes and the flash are as they were. -/
def trafficFrame : Keeps := keepFrame fun s => (s.evt, s.now, s.active, s.stns, s.mboxes, s.flash)

theorem trafficOpen : trafficFrame.Open := ⟨fun _ _ _ _ => rfl, fun _ _ _ => rfl⟩

/-! ### Home-cache slots, the eviction buffer and memory (09) -/

theorem traffic_putSlot (i : Nat) (sl : Slot) : Within trafficFrame (putSlot i sl) := fun _ => rfl

theorem traffic_invalidateSlot (i : Nat) : Within trafficFrame (invalidateSlot i) := traffic_putSlot _ _

theorem traffic_countPoisonWr (bs : List (BitVec 13)) : Within trafficFrame (countPoisonWr bs) := .onlyIf (trafficOpen.incF _)

/-- Stored bytes change the memory and its check bits alone. -/
theorem traffic_memPutBytes (bs : List (BitVec 13)) (a : Nat) (s : State) : trafficFrame.rel s (memPutBytes a bs s) := by
  induction bs generalizing a s with
  | nil => rfl
  | cons b t ih => exact (ih (a + 1) (memPut s a b)).trans rfl

theorem traffic_memPutStored (loc : Nat) (bs : List (BitVec 13)) : Within trafficFrame (memPutStored loc bs) :=
  .bind (traffic_countPoisonWr _) fun _ => .bind (traffic_countPoisonWr _) fun _ => .bind (traffic_countPoisonWr _) fun _ =>
  .bind (traffic_countPoisonWr _) fun _ => .modify fun s => traffic_memPutBytes _ _ s

theorem traffic_ebDrop (loc : Nat) : Within trafficFrame (ebDrop loc) := fun _ => rfl

theorem traffic_ebComplete (e : EbEntry) : Within trafficFrame (ebComplete e) := .bind (trafficOpen.perf _ _ _) fun _ =>
  .bind (traffic_memPutStored _ _) fun _ => traffic_ebDrop _

theorem traffic_ebPush (e : EbEntry) : Within trafficFrame (ebPush e) := by
  unfold ebPush
  refine .bind (.get _) fun _ => ?_
  extract_lets rest
  have hrest : ∀ u, Within trafficFrame (rest u) := fun _ => .bind (.modify fun _ => rfl) fun _ =>
    .bind (trafficOpen.incF _) fun _ => .bind (.get _) fun _ => trafficOpen.maxF _ _
  refine .ite ?_ (hrest ())
  split
  · exact .bind (traffic_ebComplete _) hrest
  · exact hrest ()

theorem traffic_errCap1 (page code c1 : Nat) : Within trafficFrame (errCap1 page code c1) := trafficOpen.errCapOpen _ _ _ _ _ _

theorem traffic_orphan (i n : Nat) : Within trafficFrame (orphan i n) := .bind (trafficOpen.incF _) fun _ =>
  .bind (trafficOpen.wrF _ _) fun _ => .bind (trafficOpen.wrF _ _) fun _ => .bind (trafficOpen.errCapOpen _ _ _ _ _ _) fun _ =>
  .bind (trafficOpen.raise _ _) fun _ => trafficOpen.lossNoHa _ _

theorem traffic_searchSlot (i : Nat) : Within trafficFrame (searchSlot i) := by
  unfold searchSlot
  refine .bind (.get _) fun _ => ?_
  extract_lets _ rest
  have hrest : ∀ u, Within trafficFrame (rest u) := fun _ => traffic_invalidateSlot _
  split
  · exact .bind (traffic_ebPush _) fun _ => .bind (trafficOpen.incF _) fun _ => .bind (traffic_errCap1 _ _ _) fun _ =>
      .bind (trafficOpen.raise _ _) hrest
  · exact .bind (traffic_orphan _ _) hrest

theorem traffic_runSearch (i : Nat) : Within trafficFrame (runSearch i) := by
  unfold runSearch
  refine .bind (.get _) fun _ => ?_
  extract_lets rest
  have hrest : ∀ u, Within trafficFrame (rest u) := fun _ => traffic_searchSlot _
  split
  · exact .ite (.bind (.modify fun _ => rfl) fun _ => .bind (trafficOpen.wrF _ _) hrest) (hrest ())
  · exact hrest ()

theorem traffic_checkSlot (i : Nat) : Within trafficFrame (checkSlot i) := by
  unfold checkSlot
  refine .bind (.get _) fun _ => ?_
  extract_lets
  refine .ite ?_ (.pure _ _)
  split
  · exact .bind (trafficOpen.incF _) fun _ => trafficOpen.raise _ _
  · exact .ite (traffic_runSearch _) (.bind (trafficOpen.incF _) fun _ => .bind (trafficOpen.raise _ _) fun _ =>
      .ite (traffic_searchSlot _) (.bind (trafficOpen.errCapOpen _ _ _ _ _ _) fun _ => traffic_invalidateSlot _))

theorem traffic_setSlotWord (i j : Nat) (w : List (BitVec 13)) : Within trafficFrame (setSlotWord i j w) := by
  unfold setSlotWord
  refine .bind (.get _) fun _ => ?_
  extract_lets
  exact traffic_putSlot _ _

theorem traffic_cacheReadWord (loc j : Nat) : Within trafficFrame (cacheReadWord loc j) := by
  unfold cacheReadWord
  extract_lets
  refine .bind (.get _) fun _ => ?_
  extract_lets
  split
  · exact .pure _ _
  · exact .pure _ _
  · exact .bind (trafficOpen.incF _) fun _ => .bind (trafficOpen.errCapOpen _ _ _ _ _ _) fun _ =>
      .bind (trafficOpen.raise _ _) fun _ => .bind (traffic_setSlotWord _ _ _) fun _ => .pure _ _
  · exact .bind (trafficOpen.incF _) fun _ => .bind (trafficOpen.errCapOpen _ _ _ _ _ _) fun _ =>
      .bind (trafficOpen.raise _ _) fun _ => .ite (.bind (traffic_setSlotWord _ _ _) fun _ => .pure _ _) (.pure _ _)
  · exact .bind (trafficOpen.incF _) fun _ => .bind (trafficOpen.errCapOpen _ _ _ _ _ _) fun _ =>
      .bind (trafficOpen.raise _ _) fun _ => .ite (.bind (traffic_setSlotWord _ _ _) fun _ => .pure _ _) (.pure _ _)
  · exact .bind (trafficOpen.incF _) fun _ => .bind (trafficOpen.errCapOpen _ _ _ _ _ _) fun _ =>
      .bind (trafficOpen.raise _ _) fun _ => .pure _ _

theorem traffic_cacheReadLine (loc : Nat) : Within trafficFrame (cacheReadLine loc) := by
  unfold cacheReadLine
  refine .bind (traffic_cacheReadWord _ _) fun _ => .bind (traffic_cacheReadWord _ _) fun _ =>
    .bind (traffic_cacheReadWord _ _) fun _ => .bind (traffic_cacheReadWord _ _) fun _ => ?_
  extract_lets
  exact .ite (.bind (traffic_runSearch _) fun _ => .pure _ _) (.ite (.bind (traffic_invalidateSlot _) fun _ => .pure _ _)
    (.pure _ _))

theorem traffic_settleWriting (loc : Nat) : Within trafficFrame (settleWriting loc) := by
  unfold settleWriting
  refine .bind (.get _) fun _ => ?_
  split
  · exact .ite (traffic_ebComplete _) (.pure _ _)
  · exact .pure _ _

theorem traffic_evictSlot (i : Nat) : Within trafficFrame (evictSlot i) := by
  unfold evictSlot
  refine .bind (.get _) fun _ => ?_
  extract_lets _ rest
  have hrest : ∀ u, Within trafficFrame (rest u) := fun _ => .bind (traffic_invalidateSlot _) fun _ => .pure _ _
  exact .ite (.pure _ _) (.ite (.bind (trafficOpen.incF _) fun _ => .pure _ _) (.ite
    (.bind (traffic_ebPush _) hrest) (hrest ())))

theorem traffic_fillSlot (loc : Nat) (bs : List (BitVec 13)) (dirty : Bool) : Within trafficFrame (fillSlot loc bs dirty) :=
  traffic_putSlot _ _

theorem traffic_foldForRead (wa : Nat) : Within trafficFrame (foldForRead wa) := by
  intro s
  unfold foldForRead
  split
  · rfl
  · rfl

theorem traffic_memEvent (wa code q : Nat) (cnt : Fld) : Within trafficFrame (memEvent wa code q cnt) :=
  .bind (trafficOpen.incF _) fun _ => .bind (trafficOpen.wrF _ _) fun _ => trafficOpen.errCap _ _ _ _

theorem traffic_memError (wa code q : Nat) (cnt : Fld) (irq : Nat) : Within trafficFrame (memError wa code q cnt irq) :=
  .bind (traffic_memEvent _ _ _ _) fun _ => trafficOpen.raise _ _

theorem traffic_memPutWord (wa : Nat) (bs : List (BitVec 13)) : Within trafficFrame (memPutWord wa bs) := fun s =>
  traffic_memPutBytes bs _ s

theorem traffic_setPair (f : PairSt → PairSt) : Within trafficFrame (setPair f) := fun _ => rfl

theorem traffic_setPort (p : Nat) (f : Port → Port) : Within trafficFrame (setPort p f) := fun _ => rfl

theorem traffic_setLink (lk : LinkSel) (f : Link → Link) : Within trafficFrame (setLink lk f) := by
  unfold setLink
  split
  · exact traffic_setPort _ _
  · exact traffic_setPair _

theorem traffic_sendFlits (lk : LinkSel) (os : List Out) : Within trafficFrame (sendFlits lk os) := by
  unfold sendFlits
  refine .bind (.get _) fun _ => ?_
  extract_lets
  exact .bind (.modify fun _ => rfl) fun _ => traffic_setLink _ _

theorem traffic_deliverWord (wa q f : Nat) (bs : List (BitVec 13)) (c : WClass) :
    Within trafficFrame (deliverWord wa q f bs c) := by
  unfold deliverWord
  split
  · exact .pure _ _
  · exact .bind (traffic_memError _ _ _ _ _) fun _ => .bind (traffic_memPutWord _ _) fun _ => .pure _ _
  · exact .bind (traffic_memError _ _ _ _ _) fun _ => .pure _ _
  · extract_lets rest
    have hrest : ∀ u, Within trafficFrame (rest u) := fun _ => .bind (traffic_memPutWord _ _) fun _ =>
      .bind (trafficOpen.incF _) fun _ => .bind (.get _) fun _ => .bind (trafficOpen.loss _ _) fun _ => .pure _ _
    exact .ite (.bind (traffic_memError _ _ _ _ _) hrest) (.bind (traffic_memError _ _ _ _ _) hrest)
  · extract_lets rest
    have hrest : ∀ u, Within trafficFrame (rest u) := fun _ => .bind (traffic_memPutWord _ _) fun _ =>
      .bind (trafficOpen.incF _) fun _ => .bind (.get _) fun _ => .bind (trafficOpen.loss _ _) fun _ => .pure _ _
    exact .ite (.bind (traffic_memError _ _ _ _ _) hrest) (.bind (traffic_memError _ _ _ _ _) hrest)
  · exact .bind (traffic_memError _ _ _ _ _) fun _ => .bind (.get _) fun _ => .bind (trafficOpen.loss _ _) fun _ => .pure _ _

theorem traffic_memReadWord (wa q : Nat) : Within trafficFrame (memReadWord wa q) := by
  unfold memReadWord
  refine .bind (traffic_foldForRead _) fun _ => .bind (.get _) fun _ => ?_
  extract_lets
  refine .ite ?_ (traffic_deliverWord _ _ _ _ _)
  refine .bind (traffic_foldForRead _) fun _ => .bind (.get _) fun _ => ?_
  extract_lets
  exact .ite (.bind (traffic_memEvent _ _ _ _) fun _ => traffic_deliverWord _ _ _ _ _)
    (.ite (traffic_deliverWord _ _ _ _ _) (traffic_deliverWord _ _ _ _ _))

theorem traffic_memReadLine (loc q : Nat) : Within trafficFrame (memReadLine loc q) := .bind (trafficOpen.perf _ _ _) fun _ =>
  .bind (traffic_memReadWord _ _) fun _ => .bind (traffic_memReadWord _ _) fun _ => .bind (traffic_memReadWord _ _) fun _ =>
  .bind (traffic_memReadWord _ _) fun _ => .pure _ _

theorem traffic_readMiss (loc policy q t : Nat) : Within trafficFrame (readMiss loc policy q t) := by
  unfold readMiss
  refine .bind (traffic_settleWriting _) fun _ => .bind (.get _) fun _ => ?_
  split
  · refine .bind (trafficOpen.incF _) fun _ => ?_
    extract_lets rest
    have hrest : ∀ u, Within trafficFrame (rest u) := fun _ => .pure _ _
    exact .ite (.bind (traffic_evictSlot _) fun _ => .ite (.bind (traffic_ebDrop _) fun _ =>
      .bind (traffic_fillSlot _ _ _) hrest) (hrest ())) (hrest ())
  · refine .bind (trafficOpen.incF _) fun _ => .bind (trafficOpen.perf _ _ _) fun _ => .bind (traffic_memReadLine _ _) fun _ =>
      ?_
    extract_lets rest
    have hrest : ∀ u, Within trafficFrame (rest u) := fun _ => .pure _ _
    exact .ite (.bind (traffic_evictSlot _) fun _ => .ite (.bind (.get _) fun _ =>
      .bind (traffic_fillSlot _ _ _) hrest) (hrest ())) (hrest ())

theorem traffic_readLoc (loc policy q t : Nat) : Within trafficFrame (readLoc loc policy q t) := by
  unfold readLoc
  refine .bind (traffic_checkSlot _) fun _ => .bind (.get _) fun _ => ?_
  refine .ite ?_ (traffic_readMiss _ _ _ _)
  refine .bind (trafficOpen.incF _) fun _ => .bind (trafficOpen.perf _ _ _) fun _ => .bind (traffic_cacheReadLine _) fun _ => ?_
  split
  · exact .pure _ _
  · exact traffic_readMiss _ _ _ _

theorem traffic_readHome (line : Line) (q t : Nat) : Within trafficFrame (readHome line q t) := .bind (.get _) fun _ =>
  traffic_readLoc _ _ _ _

/-! ### The home arbiter's turn, and a read for an engine (10) -/

theorem traffic_movePointer (q : Nat) : Within trafficFrame (movePointer q) := by
  unfold movePointer
  refine .bind (.get _) fun _ => ?_
  extract_lets
  exact .bind (.modify fun _ => rfl) fun _ => .bind (trafficOpen.wrF _ _) fun _ => .ite (trafficOpen.wrF _ _) (.pure _ _)

theorem traffic_countGrant (q t : Nat) : Within trafficFrame (countGrant q t) := .bind (traffic_movePointer _) fun _ =>
  .bind (trafficOpen.incF _) fun _ => .bind (trafficOpen.wrF _ _) fun _ => .bind (.modify fun _ => rfl) fun _ =>
  trafficOpen.perf _ _ _

theorem traffic_engineTurn (q : Nat) : Within trafficFrame (engineTurn q) := traffic_countGrant _ _

theorem traffic_engRead (q : Nat) (line : Line) : Within trafficFrame (engRead q line) := by
  unfold engRead
  refine .bind (.get _) fun _ => .bind (traffic_engineTurn _) fun _ => ?_
  extract_lets
  exact .ite (traffic_readLoc _ _ _ _) (traffic_readHome _ _ _)

/-! ### Flows, their data and their end (10) -/

theorem traffic_takePairFlits (c n : Nat) : Within trafficFrame (takePairFlits c n) := by
  unfold takePairFlits
  refine .bind (.get _) fun _ => ?_
  extract_lets
  exact .bind (traffic_setPair _) fun _ => .pure _ _

theorem traffic_errCapFree (page code : Nat) : Within trafficFrame (errCapFree page code) := trafficOpen.errCapOpen _ _ _ _ _ _

theorem traffic_unapplyEdge (waiter tag line : Nat) : Within trafficFrame (unapplyEdge waiter tag line) := .modify fun _ => rfl

theorem traffic_dropWait (r : Req) (holder : Nat) : Within trafficFrame (dropWait r holder) := by
  unfold dropWait
  split
  · exact .pure _ _
  · exact .pure _ _
  · exact .bind (.get _) fun _ => .ite (traffic_unapplyEdge _ _ _) (trafficOpen.toPartner _)

theorem traffic_putFlow (f : Flow) : Within trafficFrame (putFlow f) := .modify fun _ => rfl

theorem traffic_repairSlot (loc : Nat) : Within trafficFrame (repairSlot loc) := by
  unfold repairSlot
  refine .bind (.get _) fun _ => ?_
  extract_lets
  exact .ite (.bind (trafficOpen.incF _) fun _ => traffic_putSlot _ _) (.pure _ _)

theorem traffic_memWriteWord (wa : Nat) (q : Quad) : Within trafficFrame (memWriteWord wa q) := by
  unfold memWriteWord
  extract_lets
  exact .bind (traffic_countPoisonWr _) fun _ => traffic_memPutWord _ _

theorem traffic_memWriteWords (wa : Nat) (d : LineData) : Within trafficFrame (memWriteWords wa d) := by
  induction d generalizing wa with
  | nil => exact .pure _ _
  | cons q t ih => exact .bind (traffic_memWriteWord _ _) fun _ => ih _

theorem traffic_memWriteLine (loc q : Nat) (d : LineData) : Within trafficFrame (memWriteLine loc q d) :=
  .bind (trafficOpen.perf _ _ _) fun _ => traffic_memWriteWords _ _

theorem traffic_writeLoc (loc policy q t : Nat) (d : LineData) : Within trafficFrame (writeLoc loc policy q t d) := by
  unfold writeLoc
  refine .bind (traffic_checkSlot _) fun _ => .bind (traffic_settleWriting _) fun _ => ?_
  extract_lets
  exact .bind (.get _) fun _ => .ite (.bind (trafficOpen.incF _) fun _ => .bind (trafficOpen.perf _ _ _) fun _ =>
    .bind (traffic_repairSlot _) fun _ => .bind (traffic_fillSlot _ _ _) fun _ => .ite (traffic_memWriteLine _ _ _)
    (.pure _ _)) (.bind (.get _) fun _ => .ite (.bind (trafficOpen.incF _) fun _ => .modify fun _ => rfl)
    (.bind (trafficOpen.incF _) fun _ => .bind (trafficOpen.perf _ _ _) fun _ => .ite (traffic_memWriteLine _ _ _)
    (.bind (traffic_evictSlot _) fun _ => .ite (.bind (traffic_fillSlot _ _ _) fun _ => .ite (traffic_memWriteLine _ _ _)
    (.pure _ _)) (traffic_memWriteLine _ _ _))))

theorem traffic_writeHome (line : Line) (q t : Nat) (d : LineData) : Within trafficFrame (writeHome line q t d) := .bind
  (.get _) fun _ => traffic_writeLoc _ _ _ _ _

theorem traffic_ownerHome (f : Flow) : Within trafficFrame (ownerHome f) := by
  unfold ownerHome
  split
  · exact .ite (.pure _ _) (traffic_writeHome _ _ _ _)
  · exact .pure _ _

theorem traffic_dropFlow (line : Line) : Within trafficFrame (dropFlow line) := .modify fun _ => rfl

theorem traffic_putEntry (key : Nat) (e : DirEntry) : Within trafficFrame (putEntry key e) := fun _ => rfl

theorem traffic_writeEntry (line : Line) (way : Nat) (st : DState) : Within trafficFrame (writeEntry line way st) := by
  unfold writeEntry
  extract_lets _ rest
  have hrest : ∀ u, Within trafficFrame (rest u) := fun _ => traffic_putEntry _ _
  exact .bind (.get _) fun _ => .ite (.bind (trafficOpen.incF _) hrest) (hrest ())

theorem traffic_finishFlow (f : Flow) (st : DState) : Within trafficFrame (finishFlow f st) := by
  unfold finishFlow
  extract_lets _ rest rest₁
  have hrest : ∀ u, Within trafficFrame (rest u) := fun _ => traffic_dropFlow _
  have hrest₁ : ∀ u, Within trafficFrame (rest₁ u) := fun _ => .ite (.bind (.get _) fun _ =>
    .bind (traffic_repairSlot _) hrest) (hrest ())
  split
  · exact .bind (traffic_writeEntry _ _ _) hrest₁
  · exact hrest₁ ()

theorem traffic_voidFlow (f : Flow) : Within trafficFrame (voidFlow f) := .bind (traffic_ownerHome _) fun _ =>
  traffic_finishFlow _ _

theorem traffic_flowData (f : Flow) : Within trafficFrame (flowData f) := by
  unfold flowData
  split
  · exact .pure _ _
  · exact .pure _ _
  · exact traffic_readHome _ _ _

/-! ### Messages to agents (04, 05) -/

theorem traffic_trace (p hdr opcode tag : Nat) (sent : Bool) : Within trafficFrame (trace p hdr opcode tag sent) := by
  unfold trace
  refine .bind (.get _) fun _ => ?_
  refine .ite ?_ (.pure _ _)
  extract_lets
  exact .bind (trafficOpen.wrF _ _) fun _ => .bind (trafficOpen.wrF _ _) fun _ => .bind (trafficOpen.wrF _ _) fun _ =>
    .bind (trafficOpen.wrF _ _) fun _ => .bind (trafficOpen.wrF _ _) fun _ => trafficOpen.wrF _ _

theorem traffic_setSnoop (p i : Nat) (v : Option Snoop) : Within trafficFrame (setSnoop p i v) := traffic_setPort _ _

theorem traffic_liveCell (off ns : Nat) : Within trafficFrame (liveCell off ns) := by
  intro s
  obtain ⟨l, hl⟩ := liveCell_run off ns s
  rw [hl]
  rfl

theorem traffic_measure (cls p t ns : Nat) : Within trafficFrame (measure cls p t ns) := .bind (.rdB _ _) fun _ => .ite
  (.bind (traffic_liveCell _ _) fun _ => .bind (traffic_liveCell _ _) fun _ => .ite (traffic_liveCell _ _) (.pure _ _))
  (.pure _ _)

theorem traffic_setTag (p t : Nat) (v : Option TagSt) : Within trafficFrame (setTag p t v) := traffic_setPort _ _

theorem traffic_noteFarLock (p : Nat) (t : TagSt) (m : Msg) : Within trafficFrame (noteFarLock p t m) := traffic_setPort _ _

theorem traffic_holdSent (p tag : Nat) : Within trafficFrame (holdSent p tag) := by
  unfold holdSent
  refine .bind (.get _) fun _ => ?_
  split
  · extract_lets rest
    have hrest : ∀ u, Within trafficFrame (rest u) := fun _ => traffic_setTag _ _ _
    exact .ite (.bind (trafficOpen.incF _) hrest) (hrest ())
  · exact .pure _ _

theorem traffic_onSent (p : Nat) (m : Msg) : Within trafficFrame (onSent p m) := by
  unfold onSent
  refine .bind (.get _) fun _ => ?_
  extract_lets _ rest rest₁ rest₂
  have hrest : ∀ u, Within trafficFrame (rest u) := fun _ => traffic_setTag _ _ _
  have hrest₁ : ∀ u, Within trafficFrame (rest₁ u) := by
    intro u
    refine .ite ?_ ?_
    · refine .bind (trafficOpen.perf _ _ _) fun _ => ?_
      split
      · exact traffic_setSnoop _ _ _
      · exact .pure _ _
    · refine .ite ?_ (.pure _ _)
      split
      · exact .bind (traffic_measure _ _ _ _) fun _ => .ite (.bind (traffic_noteFarLock _ _ _) hrest) (hrest ())
      · exact .pure _ _
  have hrest₂ : ∀ u, Within trafficFrame (rest₂ u) := fun _ => .ite (.bind (trafficOpen.perf _ _ _) fun _ => .bind
    (.modify fun _ => rfl) hrest₁) (hrest₁ ())
  exact .ite (.bind (trafficOpen.perf _ _ _) fun _ => .bind (traffic_holdSent _ _) hrest₂) (hrest₂ ())

theorem traffic_transmit (p : Nat) (m : Msg) : Within trafficFrame (transmit p m) := by
  unfold transmit
  refine .bind (.get _) fun _ => ?_
  extract_lets
  exact .bind (traffic_setPort _ _) fun _ => .bind (traffic_sendFlits _ _) fun _ => .bind (traffic_trace _ _ _ _ _) fun _ =>
    traffic_onSent _ _

theorem traffic_pumpList (p : Nat) (q : List Msg) : ∀ b, Within trafficFrame (pumpList p q b) := by
  induction q with
  | nil => exact fun _ => .pure _ _
  | cons m t ih =>
    exact fun b => .bind (.get _) fun _ => .ite (.bind (traffic_transmit _ _) fun _ => ih _)
      (.bind (traffic_setPort _ _) fun _ => ih _)

theorem traffic_pump (p : Nat) : Within trafficFrame (pump p) := by
  unfold pump
  refine .bind (.get _) fun _ => ?_
  extract_lets
  exact .bind (traffic_setPort _ _) fun _ => traffic_pumpList _ _ _

theorem traffic_sendMsg (p : Nat) (m : Msg) : Within trafficFrame (sendMsg p m) := .bind (traffic_setPort _ _) fun _ =>
  traffic_pump _

theorem traffic_answer (r : Req) (op spec : Nat) (data : LineData) : Within trafficFrame (answer r op spec data) := by
  unfold answer
  refine .ite (.pure _ _) ?_
  extract_lets
  split
  · exact traffic_sendMsg _ _
  · exact trafficOpen.toPartner _
  · exact trafficOpen.toPartner _
  · exact .pure _ _

theorem traffic_dropTracker (p tag : Nat) : Within trafficFrame (dropTracker p tag) := .modify fun _ => rfl

theorem traffic_sendEcanx (p tag tenant agent aa reason : Nat) : Within trafficFrame (sendEcanx p tag tenant agent aa reason) :=
  by
  unfold sendEcanx
  extract_lets rest
  have hrest : ∀ u, Within trafficFrame (rest u) := fun _ => traffic_sendMsg _ _
  exact .ite (.bind (trafficOpen.incF _) hrest) (.ite (.bind (trafficOpen.incF _) hrest) (.bind (trafficOpen.incF _) hrest))

theorem traffic_answerRead (f : Flow) (op : Nat) (d : LineData) : Within trafficFrame (answerRead f op d) := by
  unfold answerRead
  split
  · exact traffic_answer _ _ _ _
  · extract_lets
    split
    · exact .bind (trafficOpen.toPartner _) fun _ => .ite (traffic_answer _ _ _ _) (.pure _ _)
    · refine .bind (.get _) fun _ => ?_
      split
      · exact traffic_answer _ _ _ _
      · exact .bind (traffic_dropTracker _ _) fun _ => .ite (traffic_answer _ _ _ _) (.ite (.bind (trafficOpen.incF _) fun _ =>
          traffic_answer _ _ _ _) (.bind (traffic_sendEcanx _ _ _ _ _ _) fun _ => traffic_answer _ _ _ _))
    · exact traffic_answer _ _ _ _

/-! ### What a flow writes and answers (05, 10) -/

theorem traffic_setNv (line : Line) (b : Bool) : Within trafficFrame (setNv line b) := fun _ => rfl

theorem traffic_memWriteBytes (wa be : Nat) (q : Quad) : Within trafficFrame (memWriteBytes wa be q) := by
  have hbyte : ∀ (f : State → Nat → State), (∀ s i, trafficFrame.rel s (f s i)) → ∀ (l : List Nat) s,
      trafficFrame.rel s (l.foldl f s) := fun f hf l => by
    induction l with
    | nil => exact fun _ => rfl
    | cons i t ih => exact fun s => (ih _).trans (hf s i)
  refine .bind (.onlyIf (trafficOpen.incF _)) fun _ => .modify fun s => hbyte _ (fun s i => ?_) _ _
  split
  · rfl
  · rfl

theorem traffic_writePartial (loc policy j be q t : Nat) (qd : Quad) :
    Within trafficFrame (writePartial loc policy j be q t qd) := by
  unfold writePartial
  refine .bind (traffic_checkSlot _) fun _ => .bind (traffic_settleWriting _) fun _ => .bind (.get _) fun _ => ?_
  refine .ite ?_ (.bind (.get _) fun _ => .ite (.bind (trafficOpen.incF _) fun _ => .modify fun _ => rfl)
    (.bind (trafficOpen.incF _) fun _ => .bind (trafficOpen.perf _ _ _) fun _ => .bind (trafficOpen.perf _ _ _) fun _ =>
    traffic_memWriteBytes _ _ _))
  refine .bind (trafficOpen.incF _) fun _ => .bind (trafficOpen.perf _ _ _) fun _ => .bind (traffic_repairSlot _) fun _ =>
    .bind (.get _) fun _ => ?_
  extract_lets
  exact .bind (traffic_putSlot _ _) fun _ => .ite (.bind (trafficOpen.perf _ _ _) fun _ => traffic_memWriteBytes _ _ _)
    (.pure _ _)

theorem traffic_carryCopy (line : Line) : Within trafficFrame (carryCopy line) := .bind (.get _) fun _ =>
  .bind (traffic_readLoc _ _ _ _) fun _ => .bind (.get _) fun _ => traffic_writeLoc _ _ _ _ _

theorem traffic_setDiff (line : Line) (b : Bool) : Within trafficFrame (setDiff line b) := fun _ => rfl

theorem traffic_writeNext (r : Nat) (f : Flow) : Within trafficFrame (writeNext r f) := by
  unfold writeNext
  refine .bind (.get _) fun _ => ?_
  extract_lets _ rest rest₁
  have hrest : ∀ u, Within trafficFrame (rest u) := fun _ => traffic_setNv _ _
  have hrest₁ : ∀ u, Within trafficFrame (rest₁ u) := fun _ => .bind (.get _) fun _ =>
    .bind (traffic_writePartial _ _ _ _ _ _ _) hrest
  exact .ite (.bind (traffic_writeLoc _ _ _ _ _) hrest) (.ite (.bind (traffic_carryCopy _) fun _ =>
    .bind (traffic_setDiff _ _) fun _ => .bind (trafficOpen.incF _) hrest₁) (hrest₁ ()))

theorem traffic_writeAtomWord (loc policy j q : Nat) (w : Quad) : Within trafficFrame (writeAtomWord loc policy j q w) := by
  unfold writeAtomWord
  extract_lets
  refine .bind (.get _) fun _ => ?_
  refine .ite ?_ ?_
  · refine .bind (traffic_repairSlot _) fun _ => .bind (.get _) fun _ => ?_
    extract_lets
    exact .bind (traffic_putSlot _ _) fun _ => .ite (.bind (trafficOpen.perf _ _ _) fun _ => traffic_memWriteWord _ _)
      (.pure _ _)
  · split
    · exact .modify fun _ => rfl
    · exact .bind (trafficOpen.perf _ _ _) fun _ => traffic_memWriteWord _ _

theorem traffic_setLock (i : Nat) (v : Option Lock) : Within trafficFrame (setLock i v) := .modify fun _ => rfl

theorem traffic_releaseLock (i : Nat) (l : Lock) : Within trafficFrame (releaseLock i l) := by
  unfold releaseLock
  refine .bind (.get _) fun _ => .bind (.each _ _ fun _ _ => traffic_dropWait _ _) fun _ => .bind (traffic_setLock _ _) fun _ =>
    .bind (.get _) fun _ => ?_
  split
  · exact traffic_finishFlow _ _
  · exact .pure _ _

theorem traffic_grantLock (f : Flow) : Within trafficFrame (grantLock f) := by
  unfold grantLock
  refine .bind (traffic_ownerHome _) fun _ => ?_
  extract_lets rest
  have hrest : ∀ u, Within trafficFrame (rest u) := fun _ => .bind (.get _) fun _ => .bind (traffic_putFlow _) fun _ =>
    .bind (trafficOpen.incF _) fun _ => traffic_answer _ _ _ _
  exact .ite (.bind (traffic_flowData _) hrest) (.bind (.pure _ _) hrest)

theorem traffic_completeFlow (f : Flow) : Within trafficFrame (completeFlow f) := by
  unfold completeFlow
  refine .bind (.get _) fun _ => ?_
  extract_lets _ rest rest₁ rest₂
  have hrest : ∀ u, Within trafficFrame (rest u) := fun _ => traffic_finishFlow _ _
  have hrest₁ : ∀ u, Within trafficFrame (rest₁ u) := fun _ => .bind (traffic_answer _ _ _ _) fun _ => traffic_finishFlow _ _
  have hrest₂ : ∀ u, Within trafficFrame (rest₂ u) := fun _ => .bind (traffic_answer _ _ _ _) fun _ => traffic_finishFlow _ _
  refine .ite (traffic_voidFlow _) ?_
  split
  · split
    extract_lets rest₃
    have hrest₃ : ∀ u, Within trafficFrame (rest₃ u) := fun _ => .bind (traffic_ownerHome _) fun _ => traffic_finishFlow _ _
    exact .ite (.bind (traffic_flowData _) fun _ => .bind (traffic_answerRead _ _ _) hrest₃) (hrest₃ ())
  · exact .bind (traffic_flowData _) fun _ => .bind (traffic_answerRead _ _ _) fun _ => .bind (traffic_ownerHome _) fun _ =>
      traffic_finishFlow _ _
  · exact .ite (.bind (traffic_flowData _) fun _ => .bind (traffic_ownerHome _) fun _ => .bind (traffic_answer _ _ _ _) hrest)
      (.bind (traffic_answer _ _ _ _) hrest)
  · exact .bind (traffic_flowData _) fun _ => .bind (traffic_answer _ _ _ _) fun _ => .bind (traffic_ownerHome _) fun _ =>
      traffic_finishFlow _ _
  · split
    · exact .bind (traffic_writeNext _ _) fun _ => .bind (traffic_answer _ _ _ _) fun _ => traffic_finishFlow _ _
    · exact .bind (traffic_ownerHome _) fun _ => .bind (.get _) fun _ => .ite (.bind (traffic_writeHome _ _ _ _) hrest₁)
        (.bind (traffic_writePartial _ _ _ _ _ _ _) hrest₁)
  · split
    · exact .bind (traffic_writeNext _ _) fun _ => .bind (traffic_answer _ _ _ _) fun _ => traffic_finishFlow _ _
    · exact .bind (traffic_ownerHome _) fun _ => .bind (.get _) fun _ => .ite (.bind (traffic_writeHome _ _ _ _) hrest₂)
        (.bind (traffic_writePartial _ _ _ _ _ _ _) hrest₂)
  · refine .bind (traffic_ownerHome _) fun _ => .bind (traffic_readHome _ _ _) fun _ => ?_
    extract_lets
    split
    refine .bind (.get _) fun _ => ?_
    extract_lets rest₃
    have hrest₃ : ∀ u, Within trafficFrame (rest₃ u) := fun _ => .bind (traffic_answer _ _ _ _) fun _ => traffic_finishFlow _ _
    exact .ite (.bind (traffic_writeAtomWord _ _ _ _ _) hrest₃) (hrest₃ ())
  · refine .bind (traffic_ownerHome _) fun _ => .bind (traffic_readHome _ _ _) fun _ => ?_
    extract_lets
    split
    refine .bind (.get _) fun _ => ?_
    extract_lets rest₃
    have hrest₃ : ∀ u, Within trafficFrame (rest₃ u) := fun _ => .bind (traffic_answer _ _ _ _) fun _ => traffic_finishFlow _ _
    exact .ite (.bind (traffic_writeAtomWord _ _ _ _ _) hrest₃) (hrest₃ ())
  · refine .bind (traffic_ownerHome _) fun _ => .bind (traffic_readHome _ _ _) fun _ => ?_
    extract_lets
    split
    refine .bind (.get _) fun _ => ?_
    extract_lets rest₃
    have hrest₃ : ∀ u, Within trafficFrame (rest₃ u) := fun _ => .bind (traffic_answer _ _ _ _) fun _ => traffic_finishFlow _ _
    exact .ite (.bind (traffic_writeAtomWord _ _ _ _ _) hrest₃) (hrest₃ ())
  · refine .ite ?_ (traffic_grantLock _)
    split
    · exact .bind (traffic_ownerHome _) fun _ => traffic_releaseLock _ _
    · exact traffic_finishFlow _ _
  · exact .bind (traffic_writeHome _ _ _ _) fun _ => .bind (traffic_answer _ _ _ _) fun _ => traffic_finishFlow _ _
  · exact traffic_dropFlow _
  · exact traffic_dropFlow _
  · exact .bind (traffic_finishFlow _ _) fun _ => .modify fun _ => rfl
  · exact .bind (traffic_finishFlow _ _) fun _ => .modify fun _ => rfl
  · exact traffic_dropFlow _
  · exact .bind (traffic_ownerHome _) fun _ => traffic_finishFlow _ _
  · exact .bind (traffic_ownerHome _) fun _ => traffic_finishFlow _ _
  · refine .bind (traffic_ownerHome _) fun _ => .bind (traffic_finishFlow _ _) fun _ => .bind (.get _) fun _ => ?_
    split
    · exact traffic_writeEntry _ _ _
    · exact .pure _ _

theorem traffic_answerErr (r : Req) (code : Nat) : Within trafficFrame (answerErr r code) := traffic_answer _ _ _ _

theorem traffic_protoErr (p code opcode : Nat) : Within trafficFrame (protoErr p code opcode) := by
  unfold protoErr
  refine .bind (.get _) fun _ => ?_
  refine .ite ?_ (.pure _ _)
  refine .bind (trafficOpen.wrF _ _) fun _ => .bind (trafficOpen.wrF _ _) fun _ => .bind (trafficOpen.wrF _ _) fun _ =>
    .bind (trafficOpen.raise _ _) fun _ => .each _ _ fun _ _ => ?_
  split
  · exact .bind (.modify fun _ => rfl) fun _ => .ite (traffic_sendEcanx _ _ _ _ _ _) (.pure _ _)
  · exact .pure _ _

theorem traffic_refuseState (r : Req) (opcode : Nat) : Within trafficFrame (refuseState r opcode) := by
  unfold refuseState
  split
  · exact .bind (traffic_setTag _ _ _) fun _ => traffic_protoErr _ _ _
  · exact .onlyIf (trafficOpen.toPartner _)
  · exact .pure _ _

/-! ### Snoops, and the run of a flow (05, 10) -/

theorem traffic_issueSnoop (p : Nat) (sn : Snoop) : Within trafficFrame (issueSnoop p sn) := by
  unfold issueSnoop
  refine .bind (.get _) fun _ => ?_
  split
  · exact .bind (traffic_setSnoop _ _ _) fun _ => .bind (traffic_setPort _ _) fun _ => traffic_sendMsg _ _
  · exact traffic_setPort _ _

theorem traffic_sendSnoop (a : Nat) (kind : SnpKind) (line : Line) (noData : Bool) (set : Nat) :
    Within trafficFrame (sendSnoop a kind line noData set) := by
  unfold sendSnoop
  refine .bind (.get _) fun _ => .ite (.pure _ _) ?_
  split
  · exact .ite (.bind (traffic_issueSnoop _ _) fun _ => .pure _ _) (.pure _ _)
  · exact .ite (.bind (trafficOpen.toPartner _) fun _ => .pure _ _) (.pure _ _)

theorem traffic_deadAnswer (f : Flow) (a : Nat) : Within trafficFrame (deadAnswer f a) := by
  unfold deadAnswer
  split
  · exact .bind (.get _) fun _ => .ite (.bind (traffic_writeHome _ _ _ _) fun _ => .bind (trafficOpen.loss _ _) fun _ =>
      .pure _ _) (.pure _ _)
  · exact .pure _ _

theorem traffic_sendSnoops (f : Flow) (l : List (Nat × SnpKind × Bool)) : Within trafficFrame (sendSnoops f l) := by
  induction l generalizing f with
  | nil => exact .pure _ _
  | cons e t ih =>
    have hsent : Within trafficFrame (do
        if ← sendSnoop e.1 e.2.1 f.line e.2.2 0 then sendSnoops { f with pend := f.pend ++ [e.1] } t
        else do
          let f ← deadAnswer f e.1
          sendSnoops f t) :=
      .bind (traffic_sendSnoop _ _ _ _ _) fun _ => .ite (ih _) (.bind (traffic_deadAnswer _ _) fun _ => ih _)
    exact .ite (.bind (trafficOpen.incF _) fun _ => hsent) hsent

theorem traffic_offerEdata (line : Line) : Within trafficFrame (offerEdata line) := by
  unfold offerEdata
  refine .bind (.get _) fun _ => ?_
  split
  · exact .pure _ _
  · refine .ite (.pure _ _) <| .ite (trafficOpen.incF _) ?_
    split
    · exact .ite (trafficOpen.incF _) (.bind (traffic_readHome _ _ _) fun _ => .ite (trafficOpen.incF _) (.bind
        (.get _) fun _ => .bind (traffic_putFlow _) fun _ => .bind (.modify fun _ => rfl) fun _ =>
        .bind (traffic_setPort _ _) fun _ => .bind (trafficOpen.incF _) fun _ => traffic_sendMsg _ _))
    · exact .bind (traffic_readHome _ _ _) fun _ => .ite (trafficOpen.incF _) (.bind (traffic_putFlow _) fun _ =>
        trafficOpen.toPartner _)
    · exact .pure _ _

theorem traffic_completeOrWait (f : Flow) : Within trafficFrame (completeOrWait f) := .bind (.get _) fun _ =>
  .ite (traffic_putFlow _) (traffic_completeFlow _)

theorem traffic_applyEdge (w : Wait) : Within trafficFrame (applyEdge w) := .bind (.modify fun _ => rfl) fun _ => .bind
  (.get _) fun _ => .ite (.ite (.modify fun _ => rfl) (.bind (trafficOpen.incF _) fun _ => trafficOpen.raise _ _)) (.pure _ _)

theorem traffic_addWait (r : Req) (holder : Nat) : Within trafficFrame (addWait r holder) := by
  unfold addWait
  split
  · exact .pure _ _
  · exact .pure _ _
  · extract_lets
    exact .bind (.get _) fun _ => .ite (traffic_applyEdge _) (trafficOpen.toPartner _)

theorem traffic_writeBusy (line : Line) (way : Nat) (b : Busy) (st : DState) : Within trafficFrame (writeBusy line way b st) :=
  by
  unfold writeBusy
  extract_lets
  exact traffic_putEntry _ _

theorem traffic_runFlow (f : Flow) (way : Option Nat) : Within trafficFrame (runFlow f way) := by
  unfold runFlow
  refine .bind (.get _) fun _ => ?_
  extract_lets _ _ _ rest rest₁ rest₂
  have hrest : ∀ u, Within trafficFrame (rest u) := by
    intro u
    refine .bind (traffic_sendSnoops _ _) fun _ => .bind (traffic_putFlow _) fun _ => .bind
      (.onlyIf (trafficOpen.incF _)) fun _ => .bind (traffic_offerEdata _) fun _ => .ite (traffic_completeOrWait _) ?_
    refine .ite ?_ (.pure _ _)
    split
    · exact .bind (traffic_readHome _ _ _) fun _ => .bind (traffic_answer _ _ _ _) fun _ => traffic_putFlow _
    · exact .pure _ _
  have hrest₁ : ∀ u, Within trafficFrame (rest₁ u) := fun _ => .ite (.bind (traffic_setLock _ _) fun _ => .bind
    (.get _) fun _ => .bind (trafficOpen.maxF _ _) fun _ => .bind (.each _ _ fun _ _ => traffic_addWait _ _) hrest) (hrest ())
  have hrest₂ : ∀ u, Within trafficFrame (rest₂ u) := fun _ => .ite (.bind (trafficOpen.incF _) fun _ =>
    .bind (trafficOpen.incF _) fun _ => .bind (trafficOpen.raise _ _) fun _ => .bind (traffic_answerErr _ _) fun _ =>
    traffic_finishFlow _ _) (.ite (.bind (traffic_refuseState _ _) fun _ => traffic_finishFlow _ _) (.ite
    (.bind (trafficOpen.incF _) hrest₁) (hrest₁ ())))
  refine .bind (traffic_putFlow _) fun _ => ?_
  split
  · exact .bind (traffic_writeBusy _ _ _ _) hrest₂
  · exact hrest₂ ()

theorem traffic_freeVictim (f : Flow) : Within trafficFrame (freeVictim f) := by
  unfold freeVictim
  extract_lets
  refine .bind (.get _) fun _ => .ite (traffic_putFlow _) <| .bind (traffic_completeFlow _) fun _ => .bind (.get _) fun _ => ?_
  split
  · exact traffic_runFlow _ _
  · exact .pure _ _

theorem traffic_settleFlow (line : Line) : Within trafficFrame (settleFlow line) := by
  unfold settleFlow
  refine .bind (.get _) fun _ => ?_
  split
  · exact .pure _ _
  · exact .ite (.ite (traffic_freeVictim _) (traffic_completeOrWait _)) (.pure _ _)

theorem traffic_flowAnswer (line : Line) (a : Nat) (kept : Bool) (data : Option LineData) (relayed : Bool) :
    Within trafficFrame (flowAnswer line a kept data relayed) := by
  unfold flowAnswer
  refine .bind (.get _) fun _ => ?_
  split
  · exact .pure _ _
  · exact .bind (traffic_putFlow _) fun _ => traffic_settleFlow _

theorem traffic_addFlow (f : Flow) : Within trafficFrame (addFlow f) := .modify fun _ => rfl

theorem traffic_preCarryCopy (line : Line) : Within trafficFrame (preCarryCopy line) := .bind (.get _) fun _ => .ite
  (.bind (traffic_carryCopy _) fun _ => .bind (traffic_setDiff _ _) fun _ => trafficOpen.incF _) (.pure _ _)

theorem traffic_evictClean (r : Req) (way : Option Nat) (orig : DState) : Within trafficFrame (evictClean r way orig) := by
  unfold evictClean
  extract_lets rest
  have hrest : ∀ u, Within trafficFrame (rest u) := fun _ => traffic_answer _ _ _ _
  split
  · exact .bind (traffic_writeEntry _ _ _) hrest
  · exact hrest ()

theorem traffic_waitAlloc (f : Flow) : Within trafficFrame (waitAlloc f) := .bind (traffic_putFlow _) fun _ =>
  trafficOpen.incF _

/-! ### The check and repair of the snoop filter's sets (10) -/

theorem traffic_injectFault (key kind : Nat) : Within trafficFrame (injectFault key kind) := by
  unfold injectFault
  refine .bind (.get _) fun _ => ?_
  extract_lets
  refine .ite (traffic_putEntry _ _) <| .bind trafficOpen.drawWord fun _ => ?_
  extract_lets
  exact traffic_putEntry _ _

theorem traffic_takeInject (key : Nat) : Within trafficFrame (takeInject key) := by
  unfold takeInject
  refine .bind (.get _) fun _ => ?_
  extract_lets
  exact .ite (.bind (.modify fun _ => rfl) fun _ => .each _ _ fun _ _ => traffic_injectFault _ _) (.pure _ _)

theorem traffic_dirError (set way src code : Nat) : Within trafficFrame (dirError set way src code) :=
  .bind (trafficOpen.errCap _ _ _ _) fun _ => .ite (.bind (trafficOpen.incF _) fun _ => trafficOpen.raise _ _) (.ite
  (.bind (trafficOpen.incF _) fun _ => trafficOpen.raise _ _) (.bind (trafficOpen.incF _) fun _ => trafficOpen.raise _ _))

theorem traffic_startRecovery (r : Recovery) : Within trafficFrame (startRecovery r) := by
  unfold startRecovery
  refine .bind (.get _) fun _ => ?_
  split
  · exact .modify fun _ => rfl
  · exact .bind (.modify fun _ => rfl) fun _ => .bind (trafficOpen.wrF _ _) fun _ => .bind (trafficOpen.wrF _ _) fun _ =>
      trafficOpen.raise _ _

theorem traffic_startRepair (set way tag : Nat) : Within trafficFrame (startRepair set way tag) := by
  unfold startRepair
  refine .bind (.get _) fun _ => ?_
  extract_lets _ _ _ _ rest
  have hrest : ∀ u, Within trafficFrame (rest u) := fun _ => .bind (.get _) fun _ => trafficOpen.maxF _ _
  exact .bind (.modify fun _ => rfl) fun _ => .ite (.modify fun _ => rfl) (.bind (traffic_engineTurn _) fun _ => .ite (.bind
    (.modify fun _ => rfl) hrest) (.bind (.modify fun _ => rfl) hrest))

theorem traffic_checkWay (set src way : Nat) : Within trafficFrame (checkWay set src way) := by
  unfold checkWay
  extract_lets
  refine .bind (traffic_takeInject _) fun _ => .bind (.get _) fun _ => ?_
  extract_lets _ rest
  have hrest : ∀ u, Within trafficFrame (rest u) := by
    intro u
    dsimp -zeta only [rest]
    split
    · exact .pure _ _
    · exact .pure _ _
    · exact .pure _ _
    · exact .bind (traffic_dirError _ _ _ _) fun _ => traffic_putEntry _ _
    · extract_lets _ rest₁ rest₂
      have hrest₁ : ∀ u, Within trafficFrame (rest₁ u) := fun _ => .ite (traffic_startRecovery _) (traffic_startRepair _ _ _)
      have hrest₂ : ∀ u, Within trafficFrame (rest₂ u) := fun _ => .ite (.bind (traffic_dirError _ _ _ _) hrest₁) (hrest₁ ())
      exact .ite (.bind (traffic_dirError _ _ _ _) hrest₂) (hrest₂ ())
  split
  refine .ite ?_ (.ite (.bind (traffic_dirError _ _ _ _) fun _ => .bind (traffic_putEntry _ _) hrest) (hrest ()))
  extract_lets rest₁
  have hrest₁ : ∀ u, Within trafficFrame (rest₁ u) := fun _ => .ite (.bind (traffic_dirError _ _ _ _) fun _ =>
    traffic_putEntry _ _) (.ite (traffic_dirError _ _ _ _) (.onlyIf (traffic_dirError _ _ _ _)))
  exact .ite (.bind (traffic_dirError _ _ _ _) hrest₁) (hrest₁ ())

theorem traffic_checkSet (set src : Nat) : Within trafficFrame (checkSet set src) := .each _ _ fun _ _ => traffic_checkWay _ _ _

theorem traffic_takeWay (set : Nat) (read : Bool) : Within trafficFrame (takeWay set read) := by
  unfold takeWay
  refine .bind (.get _) fun _ => ?_
  extract_lets rest
  have hrest : ∀ u, Within trafficFrame (rest u) := by
    intro u
    refine .bind (.get _) fun _ => .ite (.pure _ _) ?_
    split
    · exact .pure _ _
    · refine .bind (trafficOpen.wrF _ _) fun _ => .bind (trafficOpen.incF _) fun _ => ?_
      extract_lets rest₁
      have hrest₁ : ∀ u, Within trafficFrame (rest₁ u) := fun _ => .pure _ _
      split
      · exact .bind (trafficOpen.incF _) hrest₁
      · exact hrest₁ ()
  exact .ite (.bind (traffic_checkSet _ _) hrest) (hrest ())

theorem traffic_allocate (f : Flow) (read : Bool) : Within trafficFrame (allocate f read) := by
  unfold allocate
  extract_lets _ rest
  have hrest : ∀ u, Within trafficFrame (rest u) := fun _ => .pure _ _
  refine .bind (.get _) fun _ => .ite (.pure _ _) <| .bind (traffic_takeWay _ _) fun _ => ?_
  split
  · exact .pure _ _
  · exact .bind (traffic_runFlow _ _) fun _ => .pure _ _
  · refine .bind (.get _) fun _ => ?_
    extract_lets
    exact .bind (.modify fun _ => rfl) fun _ => .bind (traffic_putFlow _) fun _ => .bind (traffic_addFlow _) fun _ =>
      .bind (traffic_writeBusy _ _ _ _) fun _ => .bind (traffic_sendSnoops _ _) fun _ => .bind (traffic_putFlow _) fun _ =>
      .ite (.bind (traffic_freeVictim _) hrest) (hrest ())

/-! ### A flow that starts, and the last writeback of an agent (10) -/

theorem traffic_startFree (r : Req) : Within trafficFrame (startFree r) := by
  unfold startFree
  extract_lets
  refine .bind (.get _) fun _ => .ite (.ite (.bind (traffic_addFlow _) fun _ => trafficOpen.incF _) (traffic_preCarryCopy _)) ?_
  split
  refine .ite (.bind (traffic_writeHome _ _ _ _) fun _ => traffic_answer _ _ _ _) <| .ite (traffic_refuseState _ _) <| .ite
    (.ite (.bind (traffic_addFlow _) fun _ => trafficOpen.incF _) (traffic_evictClean _ _ _)) ?_
  extract_lets
  refine .bind (traffic_addFlow _) fun _ => .ite (traffic_waitAlloc _) <| .ite (traffic_completeFlow _) ?_
  split
  · exact .ite (traffic_waitAlloc _) (traffic_runFlow _ _)
  · exact .ite (traffic_waitAlloc _) (.bind (traffic_allocate _ _) fun _ => .ite (traffic_waitAlloc _) (.pure _ _))

theorem traffic_lastWrBack (a : Nat) (r : Req) : Within trafficFrame (lastWrBack a r) := by
  unfold lastWrBack
  refine .bind (.get _) fun _ => ?_
  extract_lets rest
  have hrest : Within trafficFrame rest := .modify fun _ => rfl
  split
  · exact .ite (.bind hrest fun _ => traffic_flowAnswer _ _ _ _ _) (.pure _ _)
  · exact .ite (.bind hrest fun _ => traffic_startFree _) (.pure _ _)

theorem traffic_unlockWrite_noLock (r : Req) : Within trafficFrame (unlockWrite.noLock r) := .bind (trafficOpen.incF _) fun _ =>
  .bind (trafficOpen.raise _ _) fun _ => traffic_answerErr _ _

theorem traffic_unlockWrite (r : Req) : Within trafficFrame (unlockWrite r) := by
  unfold unlockWrite
  refine .bind (.get _) fun _ => ?_
  split
  · refine .ite ?_ (traffic_unlockWrite_noLock _)
    extract_lets rest
    have hrest : ∀ u, Within trafficFrame (rest u) := fun _ => .bind (traffic_releaseLock _ _) fun _ => traffic_answer _ _ _ _
    exact .ite (.bind (traffic_writeHome _ _ _ _) hrest) (hrest ())
  · exact traffic_unlockWrite_noLock _

/-! ### The death of an agent (15 R677-R683) -/

theorem traffic_endTransactions (a : Nat) : Within trafficFrame (endTransactions a) := by
  unfold endTransactions
  refine .bind (.get _) fun _ => ?_
  refine .bind ?_ (fun _ => .bind (.each _ _ fun _ _ => traffic_lastWrBack _ _) fun _ => .bind
    (.each _ _ fun _ _ => traffic_unlockWrite _) fun _ => .modify fun _ => rfl)
  refine .each _ _ fun _ _ => ?_
  split
  · exact traffic_dropWait _ _
  · exact .pure _ _

theorem traffic_resolveOne (a line : Nat) : Within trafficFrame (resolveOne a line) := by
  unfold resolveOne
  refine .bind (.get _) fun _ => ?_
  split
  · exact .pure _ _
  · extract_lets _ rest
    have hrest : ∀ u, Within trafficFrame (rest u) := fun _ => traffic_settleFlow _
    exact .ite (.bind (traffic_writeHome _ _ _ _) fun _ => .bind (trafficOpen.loss _ _) fun _ =>
      .bind (traffic_putFlow _) hrest) (.bind (traffic_putFlow _) hrest)

theorem traffic_recoveryLoss (a : Nat) : Within trafficFrame (recoveryLoss a) := by
  unfold recoveryLoss
  refine .bind (.get _) fun _ => ?_
  split
  · exact .pure _ _
  · refine .ite ?_ (.pure _ _)
    extract_lets _ rest
    have hrest : ∀ u, Within trafficFrame (rest u) := fun _ => .modify fun _ => rfl
    exact .ite (.bind (trafficOpen.incF _) fun _ => .bind (trafficOpen.raise _ _) fun _ =>
      .bind (trafficOpen.errCap _ _ _ _) fun _ => .bind (trafficOpen.lossNoHa _ _) hrest) (hrest ())

theorem traffic_sweepWay (set way : Nat) : Within trafficFrame (sweepWay set way) := by
  unfold sweepWay
  refine .bind (.get _) fun _ => ?_
  split
  · extract_lets
    refine .ite (.pure _ _) ?_
    split
    · exact .bind (traffic_writeHome _ _ _ _) fun _ => .bind (trafficOpen.loss _ _) fun _ => traffic_writeEntry _ _ _
    · exact traffic_writeEntry _ _ _
  · exact .pure _ _

theorem traffic_recoveryDeath (a : Nat) : Within trafficFrame (recoveryDeath a) := by
  unfold recoveryDeath
  refine .bind (traffic_recoveryLoss _) fun _ => .bind (.get _) fun _ => ?_
  split
  · exact .onlyIf (.each _ _ fun _ _ => traffic_sweepWay _ _)
  · exact .pure _ _

theorem traffic_resolveDead (a : Nat) : Within trafficFrame (resolveDead a) := .bind (.get _) fun _ => .bind
  (.each _ _ fun _ _ => traffic_resolveOne _ _) fun _ => traffic_recoveryDeath _

theorem traffic_releaseLocksOf (a : Nat) (log : Bool) : Within trafficFrame (releaseLocksOf a log) := by
  unfold releaseLocksOf
  refine .each _ _ fun _ _ => ?_
  refine .bind (.get _) fun _ => ?_
  split
  · exact .ite (.bind (traffic_releaseLock _ _) fun _ => .ite (trafficOpen.loss _ _) (.pure _ _)) (.pure _ _)
  · exact .pure _ _

theorem traffic_joinSweep (a : Nat) : Within trafficFrame (joinSweep a) := .bind (trafficOpen.wrF _ _) fun _ => .modify fun _ =>
  rfl

theorem traffic_lostTakes (p : Nat) : Within trafficFrame (lostTakes p) := by
  unfold lostTakes
  refine .bind (.get _) fun _ => ?_
  extract_lets
  refine .each _ _ fun _ _ => ?_
  split
  · exact .onlyIf (trafficOpen.incF _)
  · exact .pure _ _

theorem traffic_clearLinkFields (p : Nat) : Within trafficFrame (clearLinkFields p) := .bind (trafficOpen.wrF _ _) fun _ =>
  .bind (trafficOpen.wrF _ _) fun _ => .bind (trafficOpen.wrF _ _) fun _ => .bind (trafficOpen.wrF _ _) fun _ =>
  .bind (trafficOpen.wrF _ _) fun _ => .bind (trafficOpen.wrF _ _) fun _ => .bind (trafficOpen.wrF _ _) fun _ =>
  .bind (trafficOpen.wrF _ _) fun _ => .bind (trafficOpen.wrF _ _) fun _ => trafficOpen.wrReg _ _ _

theorem traffic_dropLatches : Within trafficFrame dropLatches := .modify fun _ => rfl

theorem traffic_dropPath (n : Nat) : Within trafficFrame (dropPath n) := .modify fun _ => rfl

theorem traffic_clearNotified (a : Nat) : Within trafficFrame (clearNotified a) := .each _ _ fun _ _ => .bind
  (.rdF _ _) fun _ => .onlyIf (trafficOpen.wrF _ _)

theorem traffic_resetLayer (p : Nat) : Within trafficFrame (resetLayer p) := by
  unfold resetLayer
  refine .bind (traffic_lostTakes _) fun _ => .bind (.get _) fun _ => ?_
  extract_lets
  exact .bind (traffic_setPort _ _) fun _ => .bind (.modify fun _ => rfl) fun _ => .bind (traffic_clearLinkFields _) fun _ =>
    .bind (trafficOpen.incF _) fun _ => .bind traffic_dropLatches fun _ => .bind (traffic_dropPath _) fun _ =>
    .bind (traffic_clearNotified _) fun _ => .ite (trafficOpen.raise _ _) (.pure _ _)

theorem traffic_reclaimAgent (a : Nat) : Within trafficFrame (reclaimAgent a) := by
  unfold reclaimAgent
  refine .bind (traffic_endTransactions _) fun _ => .bind (.get _) fun _ => ?_
  extract_lets _ rest
  have hrest : ∀ u, Within trafficFrame (rest u) := fun _ => traffic_joinSweep _
  refine .bind (traffic_resolveDead _) fun _ => .bind (traffic_releaseLocksOf _ _) fun _ => .bind (.get _) fun _ => ?_
  split
  · extract_lets rest₁
    have hrest₁ : ∀ u, Within trafficFrame (rest₁ u) := fun _ => .bind (traffic_resetLayer _) fun _ =>
      .bind (traffic_setPort _ _) hrest
    exact .ite (.bind (trafficOpen.raise _ _) hrest₁) (hrest₁ ())
  · exact hrest ()

/-! ### The halt, and the loss of the partner (12 R548-R551; 15) -/

theorem traffic_sendDomainDown : Within trafficFrame sendDomainDown := .bind (.get _) fun _ =>
  .each _ _ fun _ _ => traffic_sendMsg _ _

theorem traffic_stopFlows : Within trafficFrame stopFlows := .modify fun _ => rfl

theorem traffic_haltHub (cause : Nat) : Within trafficFrame (haltHub cause) := .bind (.get _) fun _ => .ite (.pure _ _)
  (.bind (trafficOpen.wrF _ _) fun _ => .bind (trafficOpen.wrF _ _) fun _ => .bind (trafficOpen.incF _) fun _ =>
  .bind (trafficOpen.raise _ _) fun _ => .bind traffic_sendDomainDown fun _ => .bind traffic_stopFlows fun _ =>
  .bind (trafficOpen.wrF _ _) fun _ => .modify fun _ => rfl)

theorem traffic_haltDomain (cause : Nat) : Within trafficFrame (haltDomain cause) := .bind (trafficOpen.toPartner _) fun _ =>
  traffic_haltHub _

theorem traffic_declareDead (a : Nat) (report : Bool) : Within trafficFrame (declareDead a report) := by
  unfold declareDead
  refine .bind (.get _) fun _ => .ite (.pure _ _) <| .bind (trafficOpen.wrF _ _) fun _ => .bind (trafficOpen.incF _) fun _ =>
    .bind (trafficOpen.raise _ _) fun _ => ?_
  extract_lets rest rest₁
  have hrest : ∀ u, Within trafficFrame (rest u) := fun _ => .ite (traffic_reclaimAgent _)
    (.bind (traffic_recoveryLoss _) fun _ => .ite (traffic_haltDomain _) (.ite (traffic_haltHub _) (.pure _ _)))
  have hrest₁ : ∀ u, Within trafficFrame (rest₁ u) := fun _ => .ite (.bind (.modify fun _ => rfl) hrest) (hrest ())
  exact .ite (.bind (trafficOpen.toPartner _) hrest₁) (hrest₁ ())

theorem traffic_failForwarded (p : Nat) : Within trafficFrame (failForwarded p) := by
  unfold failForwarded
  refine .bind (.get _) fun _ => .each _ _ fun _ _ => ?_
  split
  · refine .ite ?_ (.pure _ _)
    refine .bind (.get _) fun _ => ?_
    extract_lets rest
    have hrest : ∀ u, Within trafficFrame (rest u) := fun _ => .bind (trafficOpen.incF _) fun _ => traffic_sendMsg _ _
    split
    · exact .bind (traffic_dropTracker _ _) fun _ => .ite (.bind (traffic_sendEcanx _ _ _ _ _ _) hrest) (hrest ())
    · exact hrest ()
  · exact .pure _ _

theorem traffic_dropInv (w : Window) : Within trafficFrame (dropInv w) := .modify fun _ => rfl

theorem traffic_setFv (f : Fv → Fv) : Within trafficFrame (setFv f) := .modify fun _ => rfl

theorem traffic_dropPreInv (out : Bool) : Within trafficFrame (dropPreInv out) := .modify fun _ => rfl

theorem traffic_closeRelease : Within trafficFrame closeRelease := by
  unfold closeRelease
  refine .bind (.get _) fun _ => ?_
  split
  · exact .bind (traffic_dropInv _) fun _ => .bind (traffic_setFv _) fun _ => .bind (traffic_dropPreInv _) fun _ =>
      trafficOpen.wrF _ _
  · exact .pure _ _

theorem traffic_releaseSkip : Within trafficFrame releaseSkip := .bind (trafficOpen.incF _) fun _ =>
  .bind (traffic_errCapFree _ _) fun _ => .bind (trafficOpen.raise _ _) fun _ => traffic_closeRelease

theorem traffic_closeCommit : Within trafficFrame closeCommit := by
  unfold closeCommit
  refine .bind (.get _) fun _ => ?_
  split
  · exact .bind (traffic_dropInv _) fun _ => .bind (traffic_setFv _) fun _ => .bind (traffic_dropPreInv _) fun _ =>
      .bind (trafficOpen.wrF _ _) fun _ => .onlyIf (trafficOpen.wrF _ _)
  · exact .pure _ _

theorem traffic_tickSkip : Within trafficFrame tickSkip := .bind (trafficOpen.incF _) fun _ =>
  .bind (trafficOpen.wrF _ _) fun _ => .bind (trafficOpen.raise _ _) fun _ => traffic_closeCommit

theorem traffic_reclaimPartner : Within trafficFrame reclaimPartner := by
  unfold reclaimPartner
  refine .bind (.get _) fun _ => ?_
  extract_lets rest rest₁
  have hrest : ∀ u, Within trafficFrame (rest u) := by
    intro u
    dsimp -zeta only [rest]
    split
    · exact .onlyIf traffic_releaseSkip
    · exact .pure _ _
  have hrest₁ : ∀ u, Within trafficFrame (rest₁ u) := by
    intro u
    refine .bind (.modify fun _ => rfl) fun _ => .bind (.each _ _ fun _ _ => traffic_declareDead _ _) fun _ => .bind
      (.each _ _ fun _ _ => traffic_failForwarded _) fun _ => .bind (.each _ _ fun _ _ => traffic_setPort _ _) fun _ => .bind
      (.modify fun _ => rfl) fun _ => ?_
    refine .ite ?_ (.pure _ _)
    split
    · exact .bind (.onlyIf traffic_tickSkip) hrest
    · exact hrest ()
  exact .ite (.bind (.modify fun _ => rfl) hrest₁) (.bind (.modify fun _ => rfl) hrest₁)

theorem traffic_pairLoss : Within trafficFrame pairLoss := by
  unfold pairLoss
  refine .bind (.get _) fun _ => .ite (.pure _ _) <| .bind (trafficOpen.wrF _ _) fun _ => .bind (trafficOpen.wrF _ _) fun _ =>
    .bind (trafficOpen.incF _) fun _ => .bind (trafficOpen.raise _ _) fun _ => .bind (traffic_errCapFree _ _) fun _ => .bind
    (.modify fun _ => rfl) fun _ => ?_
  extract_lets rest
  have hrest : ∀ u, Within trafficFrame (rest u) := fun _ => .bind (trafficOpen.wrF _ _) fun _ => .ite
    (.ite traffic_reclaimPartner (traffic_haltHub _)) (.pure _ _)
  exact .ite (.bind (trafficOpen.wrF _ _) fun _ => .bind (.modify fun _ => rfl) hrest) (hrest ())

/-! ### Reads from the partner (12 R540) -/

theorem traffic_fromPair (c n : Nat) {m : M Unit} (hm : Within trafficFrame m) : Within trafficFrame (fromPair c n m) :=
  .bind (.get _) fun _ => .ite (.bind (traffic_takePairFlits _ _) fun _ => .bind (traffic_takePairFlits _ _) fun _ =>
    .ite hm traffic_pairLoss) (.pure _ _)

theorem traffic_drawLine (n : Nat) : Within trafficFrame (drawLine n) := by
  induction n with
  | zero => exact .pure _ _
  | succ n ih =>
    exact .bind trafficOpen.drawWord fun _ => .bind trafficOpen.drawWord fun _ => .bind trafficOpen.drawWord fun _ =>
      .bind trafficOpen.drawWord fun _ => .bind ih fun _ => .pure _ _

theorem traffic_pairRead (line : Line) (fs : List DFlit) : Within trafficFrame (pairRead line fs) := .bind (.get _) fun _ =>
  .ite (.bind (trafficOpen.toPartner _) fun _ => .bind (traffic_fromPair _ _ (.pure _ _)) fun _ => .pure _ _) (traffic_drawLine _)

end Sys2Proof.Machine
end

section
/-! SUPPORT. The event unit (02 R74-R93). -/

namespace Sys2Proof.Machine

/-! ### The level of a pin -/

/-- The levels `v` with pin `n` put to `b`. -/
def levelSet (v n : Nat) (b : Bool) : Nat := if b then Nat.lor v (2 ^ n) else v - (if v.testBit n then 2 ^ n else 0)

theorem testBit_levelSet (v n : Nat) (b : Bool) : (levelSet v n b).testBit n = b := by
  cases b with
  | true => exact (Nat.testBit_or v (2 ^ n) n).trans (by simp)
  | false =>
    cases hv : v.testBit n with
    | false => simp [levelSet, hv]
    | true =>
      have hle : 2 ^ n ≤ v := Nat.ge_two_pow_of_testBit hv
      have hsum := Nat.testBit_two_pow_add_eq (v - 2 ^ n) n
      rw [Nat.add_sub_cancel' hle, hv] at hsum
      simpa [levelSet, hv] using hsum.symm

theorem levelSet_lt {v n : Nat} (b : Bool) (hv : v < 2 ^ 16) (hn : n < 16) : levelSet v n b < 2 ^ 16 := by
  cases b with
  | true => exact Nat.or_lt_two_pow hv (Nat.pow_lt_pow_right (by decide) hn)
  | false => exact Nat.lt_of_le_of_lt (Nat.sub_le _ _) hv

/-- EVT.LEVEL shows the pin. -/
def showLevel (n : Nat) (b : Bool) (s : State) : State :=
  ran (wrF R.EVT_LEVEL_PINS (levelSet (getF s R.EVT_LEVEL_PINS) n b)) s

theorem showLevel_bit {n : Nat} (hn : n < 16) (b : Bool) (s : State) : (getF (showLevel n b s) R.EVT_LEVEL_PINS).testBit n = b := by
  rw [showLevel, getF_wrF s (by decide) (levelSet_lt b (getF_lt s _) hn)]
  exact testBit_levelSet _ n b

theorem showLevel_kept (n : Nat) (b : Bool) (s : State) :
    (regFrame fun k => k != R.EVT_LEVEL_PINS.key).rel s (showLevel n b s) := regFrame_wrF _ (by decide) s

theorem regFrame_regsKept {ks : List Nat} {s t : State} (h : (regFrame fun k => !ks.contains k).rel s t) : RegsKept ks s t :=
  fun k hk => h.2 k (by simpa using hk)

theorem ran_setEvt (f : Evt → Evt) (s : State) : ran (setEvt f) s = { s with evt := f s.evt } := rfl

/-! ### Capture (02 R76-R79) -/

/-- The state after a selected edge is shown and numbered. -/
def edgeNumbered (pin : Nat) (rising : Bool) (s : State) : State :=
  ran (wrF R.EVT_SEQ_NUM (getF s R.EVT_SEQ_NUM + 1)) (showLevel pin rising s)

/-- The registers of a stamped edge. -/
def numberedKeys : List Nat := [R.EVT_SEQ_NUM.key, R.EVT_LEVEL_PINS.key]

theorem edgeNumbered_kept (pin : Nat) (rising : Bool) (s : State) :
    (regFrame fun k => !numberedKeys.contains k).rel s (edgeNumbered pin rising s) :=
  Keeps.trans _ _ _ _ (regFrame_wrF _ (by decide) s) (regFrame_wrF _ (by decide) _)

theorem edgeNumbered_seq (pin : Nat) (rising : Bool) (s : State) :
    getF (edgeNumbered pin rising s) R.EVT_SEQ_NUM = (getF s R.EVT_SEQ_NUM + 1) % 2 ^ 32 :=
  getF_setF_same _ _ _ (Nat.le_refl 32)

theorem edgeNumbered_level {pin : Nat} (hpin : pin < 16) (rising : Bool) (s : State) :
    (getF (edgeNumbered pin rising s) R.EVT_LEVEL_PINS).testBit pin = rising := by
  have hnext : (regFrame fun k => k == R.EVT_LEVEL_PINS.key).rel (showLevel pin rising s) (edgeNumbered pin rising s) :=
    regFrame_wrF _ (by decide) _
  rw [regFrame_getF hnext (by decide)]
  exact showLevel_bit hpin rising s

/-- A capture made in the unit of a due tick edge is one of the new tick (R46). -/
theorem capture_stamped (s : State) (pin : Nat) (rising : Bool) (q : Nat) :
    (⟨(captureStamp s).1, (captureStamp s).2, pin, rising, q⟩ : Capture) =
      if s.tick.running && ownEdges s && edgeDue s then ⟨(tickNum s + 1) % 2 ^ 32, s.tick.offset - s.tick.len, pin, rising, q⟩
      else ⟨tickNum s, s.tick.offset, pin, rising, q⟩ := by
  unfold captureStamp
  split
  · rfl
  · rfl

section
variable {pin : Nat} {rising : Bool} {s : State}

/-- A selected edge is shown, numbered, and queued or lost. -/
theorem ran_inputEdge (hmode : getF s (R.EVT_PIN_MODE pin) = 1) (hon : evtOn s = true) (hland : landsOff s = false)
    (hsel : (getF s (R.EVT_PIN_EDGE pin)).testBit (if rising then 0 else 1) = true) :
    ran (doInputEdge pin rising) s = ran (
      if s.evt.fifo.length < 32 then
        setEvt fun e => { e with fifo := e.fifo ++ [⟨(captureStamp s).1, (captureStamp s).2, pin, rising, getF s R.EVT_SEQ_NUM⟩] }
      else do
        incF R.EVT_LOST_CNT_CNT
        raise 0x6C 0
        setEvt fun e => { e with lost := true })
      (edgeNumbered pin rising s) := by
  have hstage : (stage s == 4) = true := by
    obtain ⟨-, h⟩ := Bool.and_eq_true_iff.1 hon
    exact h
  have now : (getF s (R.EVT_PIN_MODE pin) = 1 && stage s == 4 && !landsOff s) = true := by simp [hmode, hstage, hland]
  have picked : (evtOn s && (if rising then (getF s (R.EVT_PIN_EDGE pin)).testBit 0 else (getF s (R.EVT_PIN_EDGE pin)).testBit 1)) =
      true := by
    cases rising with
    | true => exact Bool.and_eq_true_iff.2 ⟨hon, hsel⟩
    | false => exact Bool.and_eq_true_iff.2 ⟨hon, hsel⟩
  rw [ran, doInputEdge, run_get_bind, run_ite, if_pos now, run_bind, run_ite, if_pos picked]
  rfl

theorem inputEdge_queued {pin : Fin 16} (hmode : getF s (R.EVT_PIN_MODE pin.val) = 1) (hon : evtOn s = true)
    (hland : landsOff s = false) (hsel : (getF s (R.EVT_PIN_EDGE pin.val)).testBit (if rising then 0 else 1) = true)
    (hroom : s.evt.fifo.length < 32) : Leaves (.evtInputEdge pin rising) s fun x =>
      (x.evt = { s.evt with fifo := s.evt.fifo ++ [if s.tick.running && ownEdges s && edgeDue s then
          ⟨(tickNum s + 1) % 2 ^ 32, s.tick.offset - s.tick.len, pin.val, rising, getF s R.EVT_SEQ_NUM⟩
        else ⟨tickNum s, s.tick.offset, pin.val, rising, getF s R.EVT_SEQ_NUM⟩] }) ∧
      getF x R.EVT_SEQ_NUM = (getF s R.EVT_SEQ_NUM + 1) % 2 ^ 32 ∧ (getF x R.EVT_LEVEL_PINS).testBit pin.val = rising ∧
      RegsKept [R.EVT_SEQ_NUM.key, R.EVT_LEVEL_PINS.key] s x ∧ DataKept s x := by
  refine leaves_ran (m := doInputEdge pin.val rising) rfl ?_
  rw [ran_inputEdge hmode hon hland hsel, if_pos hroom, capture_stamped]
  have hkept := edgeNumbered_kept pin.val rising s
  have hseq := edgeNumbered_seq pin.val rising s
  have hlevel := edgeNumbered_level pin.isLt rising s
  generalize edgeNumbered pin.val rising s = t at *
  have hevt := regFrame_evt hkept
  have hregs : RegsKept numberedKeys s t := regFrame_regsKept hkept
  have hdata := regFrame_dataKept hkept
  rw [ran_setEvt, hevt]
  exact ⟨rfl, hseq, hlevel, hregs, hdata⟩

/-- An edge that finds no room is counted, and the next record says that one was lost. -/
theorem inputEdge_lost {pin : Fin 16} (hmode : getF s (R.EVT_PIN_MODE pin.val) = 1) (hon : evtOn s = true)
    (hland : landsOff s = false) (hsel : (getF s (R.EVT_PIN_EDGE pin.val)).testBit (if rising then 0 else 1) = true)
    (hfull : 32 ≤ s.evt.fifo.length) : Leaves (.evtInputEdge pin rising) s fun x => x.evt = { s.evt with lost := true } ∧
      getF x R.EVT_LOST_CNT_CNT = min (getF s R.EVT_LOST_CNT_CNT + 1) (2 ^ 32 - 1) ∧ DataKept s x := by
  refine leaves_ran (m := doInputEdge pin.val rising) rfl ?_
  rw [ran_inputEdge hmode hon hland hsel, if_neg (Nat.not_lt.2 hfull)]
  have hkept := edgeNumbered_kept pin.val rising s
  generalize edgeNumbered pin.val rising s = t at *
  have hcount := getF_incF t R.EVT_LOST_CNT_CNT (by decide)
  have hcounted : (regFrame fun _ => false).rel t (ran (incF R.EVT_LOST_CNT_CNT) t) := regFrame_incF rfl t
  rw [ran_then, ran_then]
  generalize ran (incF R.EVT_LOST_CNT_CNT) t = u at *
  have hraised : (regFrame fun k => k == R.EVT_LOST_CNT_CNT.key).rel u (ran (raise 0x6C 0) u) :=
    regFrame_raise 0 (by decide) (by decide) u
  generalize ran (raise 0x6C 0) u = v at *
  have hevt : v.evt = s.evt := by rw [regFrame_evt hraised, regFrame_evt hcounted, regFrame_evt hkept]
  have hlost : getF v R.EVT_LOST_CNT_CNT = min (getF s R.EVT_LOST_CNT_CNT + 1) (2 ^ 32 - 1) := by
    rw [regFrame_getF hraised (by decide), ← regFrame_getF hkept (f := R.EVT_LOST_CNT_CNT) (by decide)]
    exact hcount
  have hdata := dataKept_trans (regFrame_dataKept hkept)
    (dataKept_trans (regFrame_dataKept hcounted) (regFrame_dataKept hraised))
  rw [ran_setEvt, hevt]
  exact ⟨rfl, hlost, hdata⟩

end

/-! ### The capture ring (02 R78-R82) -/

/-- A line outside the FV regions lies in no share that a region keeps. -/
theorem shareBlocked_outside {s : State} {line : Line} (op : ReqOp) (h : fvRegion s line = none) :
    shareBlocked s op (line * 64) = false := by
  unfold fvRegion at h
  unfold shareBlocked
  cases hr : regionAt s (line * 64) with
  | none => rfl
  | some r =>
    rw [hr] at h
    cases hfv : isFv (descOf s.active r) with
    | true => simp [hfv] at h
    | false => simp [fvWriteBlocked, hfv]

/-- A home write for an engine outside the FV regions goes before the home arbiter. -/
theorem ran_engWrite {s : State} {q line word be : Nat} {op : ReqOp} {data : LineData} (hhome : isHome s (line * 64) = true)
    (hout : fvRegion s line = none) :
    ran (engWrite q line op word be data) s = ran (enqueue (engineReq s q op line word be data)) s := by
  rw [ran, engWrite, run_get_bind, hhome, shareBlocked_outside op hout]
  rfl

theorem heldBy_none (s : State) (line : Line) : heldBy s none line = false := rfl

/-- The register of a record that is written. -/
def ringKeys : List Nat := [R.EVT_RING_WP_WP.key]

/-- The state after a record is taken from the queue and RING_WP has gone on. -/
def recordTaken (rest : List Capture) (s : State) : State :=
  ran (wrF R.EVT_RING_WP_WP ((getF s R.EVT_RING_WP_WP + 1) % 2 ^ getF s R.EVT_RING_LEN_LOG2))
    { s with evt := { s.evt with fifo := rest, lost := false, wroteAt := s.now, wroteN := 1 } }

section
variable {s : State} {c : Capture} {rest : List Capture}

theorem recordTaken_kept (rest : List Capture) (s : State) : (regFrame fun k => !ringKeys.contains k).rel
    { s with evt := { s.evt with fifo := rest, lost := false, wroteAt := s.now, wroteN := 1 } } (recordTaken rest s) :=
  regFrame_wrF _ (by decide) _

theorem recordTaken_wp (rest : List Capture) (s : State) : getF (recordTaken rest s) R.EVT_RING_WP_WP =
    (getF s R.EVT_RING_WP_WP + 1) % 2 ^ getF s R.EVT_RING_LEN_LOG2 % 2 ^ 12 :=
  getF_setF_same _ R.EVT_RING_WP_WP _ (show 0 + 12 ≤ 32 by decide)

/-- The first record of a microsecond goes to its place of the ring. -/
theorem ran_captureWrite (hon : evtOn s = true) (hfifo : s.evt.fifo = c :: rest) (hstop : s.evt.stopped = false)
    (hstand : inStandby s = false) (hfresh : s.evt.wroteAt + 1000 ≤ s.now)
    (hold : ¬(s.tick.running = true ∧ c.tick = (tickNum s + 1) % 2 ^ 32)) (hwin : s.fv.commit = none) :
    ran doCaptureWrite s = ran (engWrite qStation (ringPlace s (getF s R.EVT_RING_WP_WP)).1 .wrPartial
      (ringPlace s (getF s R.EVT_RING_WP_WP)).2 0xFFFF [captureWord c s.evt.lost]) (recordTaken rest s) := by
  have fresh : decide (s.evt.wroteAt + 1000 ≤ s.now) = true := decide_eq_true hfresh
  have notDue : (s.tick.running && c.tick == (tickNum s + 1) % 2 ^ 32) = false := by
    rw [← Bool.not_eq_true, Bool.and_eq_true_iff, beq_iff_eq]
    exact hold
  rw [ran, doCaptureWrite, run_get_bind, hfifo, fresh, hwin]
  dsimp only
  rw [heldBy_none, run_ite, if_pos (by rw [hon, hstop, hstand, notDue]; rfl)]
  rfl

theorem recordTaken_req (rest : List Capture) (s : State) (line word : Nat) (data : LineData) :
    engineReq (recordTaken rest s) qStation .wrPartial line word 0xFFFF data =
      engineReq s qStation .wrPartial line word 0xFFFF data := by
  have hkept := recordTaken_kept rest s
  have hnum : tickNum (recordTaken rest s) = tickNum s := regFrame_getF hkept (f := R.TICK_NUM_NUM) (by decide)
  have hid : (recordTaken rest s).nextId = s.nextId := (congrArg State.nextId hkept.1 :)
  have hnow : (recordTaken rest s).now = s.now := (congrArg State.now hkept.1 :)
  have htick : (recordTaken rest s).tick = s.tick := (congrArg State.tick hkept.1 :)
  unfold engineReq
  rw [hnum, hid, hnow, htick]

/-- Where a line is homed, and the region that it lies in, do not hang on the ring. -/
theorem recordTaken_home (rest : List Capture) (s : State) (ha : Nat) : isHome (recordTaken rest s) ha = isHome s ha := by
  have hkept := recordTaken_kept rest s
  have hrole : getF (recordTaken rest s) R.PAIR_STAT_ROLE = getF s R.PAIR_STAT_ROLE := regFrame_getF hkept (by decide)
  have hen : getF (recordTaken rest s) R.PAIR_CTL_EN = getF s R.PAIR_CTL_EN := regFrame_getF hkept (by decide)
  have hilv : getF (recordTaken rest s) R.REGION_HA_MAP_ILV = getF s R.REGION_HA_MAP_ILV := regFrame_getF hkept (by decide)
  unfold isHome homeOf hubNo pairOn ilv
  rw [hrole, hen, hilv]

theorem captureWrite_queued (hon : evtOn s = true) (hfifo : s.evt.fifo = c :: rest) (hstop : s.evt.stopped = false)
    (hstand : inStandby s = false) (hfresh : s.evt.wroteAt + 1000 ≤ s.now)
    (hold : ¬(s.tick.running = true ∧ c.tick = (tickNum s + 1) % 2 ^ 32)) (hwin : s.fv.commit = none)
    (hhome : isHome s ((ringPlace s (getF s R.EVT_RING_WP_WP)).1 * 64) = true)
    (hout : fvRegion s (ringPlace s (getF s R.EVT_RING_WP_WP)).1 = none) : Leaves .captureRecordWrite s fun x =>
      x.evt = { s.evt with fifo := rest, lost := false, wroteAt := s.now, wroteN := 1 } ∧
      getF x R.EVT_RING_WP_WP = (getF s R.EVT_RING_WP_WP + 1) % 2 ^ getF s R.EVT_RING_LEN_LOG2 % 2 ^ 12 ∧
      x.arb.waiting = s.arb.waiting ++ [engineReq s qStation .wrPartial (ringPlace s (getF s R.EVT_RING_WP_WP)).1
        (ringPlace s (getF s R.EVT_RING_WP_WP)).2 0xFFFF [captureWord c s.evt.lost]] ∧
      RegsKept [R.EVT_RING_WP_WP.key] s x ∧ DataKept s x := by
  refine leaves_ran (m := doCaptureWrite) rfl ?_
  have hkept := recordTaken_kept rest s
  have hwp := recordTaken_wp rest s
  have hactive : (recordTaken rest s).active = s.active := (congrArg State.active hkept.1 :)
  have hout' : fvRegion (recordTaken rest s) (ringPlace s (getF s R.EVT_RING_WP_WP)).1 = none := by
    rw [← hout, fvRegion, fvRegion, regionAt, regionAt, hactive]
  rw [ran_captureWrite hon hfifo hstop hstand hfresh hold hwin, ran_engWrite (by rw [recordTaken_home]; exact hhome) hout',
    recordTaken_req]
  generalize recordTaken rest s = t at *
  have hevt := regFrame_evt hkept
  have hregs := regFrame_regsKept hkept
  have hdata := regFrame_dataKept hkept
  have harb : t.arb.waiting = s.arb.waiting := by rw [hkept.1]
  exact ⟨hevt, hwp, congrArg (· ++ _) harb, hregs, hdata⟩

end

/-! ### Schedules (02 R84-R87) -/

/-- The entries of a schedule go on from the offset before them, and none is an end action. -/
def OrderedFrom (p : Nat) (l : List (BitVec 32)) : Prop :=
  l.Pairwise (fun a b => entOff a ≤ entOff b) ∧ ∀ e ∈ l, p ≤ entOff e ∧ entAct e ≠ 0

theorem OrderedFrom.nil (p : Nat) : OrderedFrom p [] := ⟨.nil, fun _ h => absurd h (List.not_mem_nil)⟩

theorem OrderedFrom.cons {p : Nat} {x : BitVec 32} {l : List (BitVec 32)} (h : OrderedFrom (entOff x) l) (hoff : p ≤ entOff x)
    (hact : entAct x ≠ 0) : OrderedFrom p (x :: l) := by
  obtain ⟨hpair, hall⟩ := h
  refine ⟨.cons (fun e he => (hall e he).1) hpair, fun e he => ?_⟩
  rcases List.mem_cons.1 he with rfl | he
  · exact ⟨hoff, hact⟩
  · exact ⟨Nat.le_trans hoff (hall e he).1, (hall e he).2⟩

/-- The cut leaves an ordered list (R86, R87). -/
theorem cutSchedule_ordered (l : List (Option (BitVec 32))) : ∀ p, OrderedFrom p ((cutSchedule p l).1.filterMap id) := by
  induction l with
  | nil => exact OrderedFrom.nil
  | cons e t ih =>
    intro p
    cases e with
    | none => exact ih p
    | some x =>
      rw [cutSchedule]
      split
      · exact .nil p
      · next hact =>
        split
        · exact .nil p
        · next hoff => exact (ih (entOff x)).cons (Nat.not_lt.1 hoff) hact

theorem traffic_readSchedule (base : Line) (remote : List (List DFlit)) (n : Nat) :
    ∀ i, Within trafficFrame (readSchedule base remote i n) := by
  induction n with
  | zero => exact fun _ => .pure _ _
  | succ n ih =>
    exact fun i => .bind (.get _) fun _ => .ite (.bind (traffic_engRead _ _) fun _ => .bind (ih _) fun _ => .pure _ _)
      (.bind (traffic_pairRead _ _) fun _ => .bind (ih _) fun _ => .pure _ _)

/-- The entries that were read become the next schedule. -/
def takeSchedule (es : List (Option (BitVec 32))) : M Unit := do
  if (cutSchedule 0 es).2 then
    wrF R.EVT_STAT_SCHED_ERR 1
    raise 0x6C 1
  setEvt fun e => { e with nextSched := some (cutSchedule 0 es).1 }

theorem takeSchedule_evt (es : List (Option (BitVec 32))) (s : State) :
    (ran (takeSchedule es) s).evt = { s.evt with nextSched := some (cutSchedule 0 es).1 } := by
  rw [ran, takeSchedule, run_ite]
  split
  · have hkept : (regFrame fun _ => false).rel s (ran (raise 0x6C 1) (ran (wrF R.EVT_STAT_SCHED_ERR 1) s)) :=
      Keeps.trans _ _ _ _ (regFrame_wrF _ rfl s) (regFrame_raise 1 rfl rfl _)
    exact congrArg (fun e : Evt => { e with nextSched := some (cutSchedule 0 es).1 }) (regFrame_evt hkept)
  · rfl

section
variable {s : State}

theorem ran_scheduleLoad {remote : List (List DFlit)} (hon : evtOn s = true) (hdue : s.evt.loadDue = true)
    (hrel : s.fv.release = none) (hfv : fvHolds s (getF s R.EVT_SCHED_BASE_LINE * 64) 1024 true = true) :
    ran (doScheduleLoad remote) s = ran (readSchedule (getF s R.EVT_SCHED_BASE_LINE) remote 0 16 >>= takeSchedule)
      { s with evt := { s.evt with loadDue := false } } := by
  have now : (evtOn s && s.evt.loadDue && !((List.range 16).any fun i => heldBy s s.fv.release (getF s R.EVT_SCHED_BASE_LINE + i))) =
      true := by simp [hon, hdue, hrel, heldBy_none]
  rw [ran, doScheduleLoad, run_get_bind, run_ite, if_pos now, run_bind, run_ite, if_pos hfv]
  rfl

theorem scheduleLoad_ordered {remote : List (List DFlit)} (hon : evtOn s = true) (hdue : s.evt.loadDue = true)
    (hrel : s.fv.release = none) (hfv : fvHolds s (getF s R.EVT_SCHED_BASE_LINE * 64) 1024 true = true) :
    Leaves (.scheduleLoad remote) s fun x => x.evt.loadDue = false ∧ (∃ l, x.evt.nextSched = some l ∧
      (l.filterMap id).Pairwise (fun a b => entOff a ≤ entOff b) ∧ ∀ e ∈ l.filterMap id, entAct e ≠ 0) := by
  refine leaves_ran (m := doScheduleLoad remote) rfl ?_
  rw [ran_scheduleLoad hon hdue hrel hfv, ran, run_bind]
  have hread := traffic_readSchedule (getF s R.EVT_SCHED_BASE_LINE) remote 16 0 { s with evt := { s.evt with loadDue := false } }
  generalize readSchedule (getF s R.EVT_SCHED_BASE_LINE) remote 0 16 { s with evt := { s.evt with loadDue := false } } = read at *
  obtain ⟨hevt, -⟩ := Prod.ext_iff.1 hread
  have htaken := takeSchedule_evt read.1 read.2
  obtain ⟨hpair, hall⟩ := cutSchedule_ordered read.1 0
  rw [ran] at htaken
  rw [htaken]
  exact ⟨(congrArg Evt.loadDue hevt :), _, rfl, hpair, fun e he => (hall e he).2⟩

end

/-! ### Outputs (02 R88-R90) -/

/-- A pin that is driven to a level: only what drives it and EVT.LEVEL change. -/
theorem ran_drivePin (n : Nat) (b : Bool) (s : State) : ∃ d t, kvGet (fun _ => none) d n = some b ∧
    (regFrame fun _ => true).rel { s with evt := { s.evt with drive := d } } t ∧ ran (drivePin n (some b)) s = showLevel n b t := by
  by_cases hnew : (kvGet (fun _ => none) s.evt.drive n != some b) = true
  · have hkept : Within (regFrame fun _ => true) (emitLand (.pin n (some b))) :=
      .bind (.get _) fun _ => .onlyIf (regFrame_ofSend (sendFrame_emit _))
    refine ⟨kvSet (fun _ => none) s.evt.drive n (some b), _, kvGet_kvSet_same _ _ _ _, hkept.ran _, ?_⟩
    have hsame := regFrame_getF (hkept.ran { s with evt := { s.evt with drive := kvSet (fun _ => none) s.evt.drive n (some b) } })
      (f := R.EVT_LEVEL_PINS) rfl
    rw [ran, drivePin, run_get_bind, run_ite, if_pos hnew, showLevel, hsame]
    rfl
  · refine ⟨s.evt.drive, s, by simpa using hnew, Keeps.refl _ s, ?_⟩
    rw [ran, drivePin, run_get_bind, run_ite, if_neg hnew]
    rfl

/-- A driven pin has its level, shown in EVT.LEVEL, and nothing else of the event unit changes. -/
theorem drivePin_shows {n : Nat} (hn : n < 16) (b : Bool) (s : State) : ∃ d, (ran (drivePin n (some b)) s).evt = { s.evt with drive := d } ∧
    kvGet (fun _ => none) d n = some b ∧ (getF (ran (drivePin n (some b)) s) R.EVT_LEVEL_PINS).testBit n = b ∧
    RegsKept [R.EVT_LEVEL_PINS.key] s (ran (drivePin n (some b)) s) ∧ DataKept s (ran (drivePin n (some b)) s) := by
  obtain ⟨d, t, hdrive, hsent, hrun⟩ := ran_drivePin n b s
  have hkept := showLevel_kept n b t
  have hlevel := showLevel_bit hn b t
  rw [hrun]
  generalize showLevel n b t = x at *
  have hevt := regFrame_evt hsent
  have hdata := dataKept_trans (regFrame_dataKept hsent) (regFrame_dataKept hkept)
  refine ⟨d, (regFrame_evt hkept).trans hevt, hdrive, hlevel, fun k hk => ?_, hdata⟩
  exact (hkept.2 k (by simpa using hk)).trans (hsent.2 k rfl)

section
variable {s : State}

theorem entPin_lt (e : BitVec 32) : entPin e < 16 := Nat.mod_lt _ (by decide)

/-- A set, clear or pulse drives its pin, and sets or ends the pulse of it. -/
theorem ran_applyEntry (e : BitVec 32) (s : State) : ∃ p, ran (applyEntry e) s =
    ran (drivePin (entPin e) (some (entAct e != 2))) { s with evt := { s.evt with pulses := p } } := ⟨_, rfl⟩

/-- A due entry of an output is applied. -/
theorem ran_entryApply {i : Nat} {e : BitVec 32} (hrun : s.tick.running = true) (hon : evtOn s = true) (htook : s.evt.took = true)
    (hi : i = s.evt.applied) (hfault : getF s R.TICK_STAT_FAULTED = 0) (he : s.evt.sched[i]? = some (some e))
    (hbase : entOff e < s.tick.base) (hdue : entOff e ≤ s.tick.offset) (hout : isOutput s (entPin e) = true) :
    ran (doEntryApply i) s = ran (applyEntry e) { s with evt := { s.evt with applied := i + 1 } } := by
  have now : (s.tick.running && evtOn s && s.evt.took && i == s.evt.applied && !isFaulted s) = true := by
    simp [hrun, hon, htook, hi, isFaulted, hfault]
  rw [ran, doEntryApply, run_get_bind, run_ite, if_pos now, he]
  dsimp only
  rw [run_ite, if_neg (Nat.not_le.2 hbase), run_ite, if_pos hdue, run_bind, run_ite, if_pos hout]
  rfl

theorem entryApply_drives {k : Fin 256} {e : BitVec 32} (hrun : s.tick.running = true) (hon : evtOn s = true)
    (htook : s.evt.took = true) (hk : k.val = s.evt.applied) (hfault : getF s R.TICK_STAT_FAULTED = 0)
    (he : s.evt.sched[k.val]? = some (some e)) (hbase : entOff e < s.tick.base) (hdue : entOff e ≤ s.tick.offset)
    (hout : isOutput s (entPin e) = true) : Leaves (.scheduleEntryApply k) s fun x => x.evt.applied = k.val + 1 ∧
      (kvGet (fun _ => none) x.evt.drive (entPin e) = some (entAct e != 2)) ∧
      (getF x R.EVT_LEVEL_PINS).testBit (entPin e) = (entAct e != 2) ∧ RegsKept [R.EVT_LEVEL_PINS.key] s x ∧ DataKept s x := by
  refine leaves_ran (m := doEntryApply k.val) rfl ?_
  obtain ⟨p, happlied⟩ := ran_applyEntry e { s with evt := { s.evt with applied := k.val + 1 } }
  rw [ran_entryApply hrun hon htook hk hfault he hbase hdue hout, happlied]
  obtain ⟨d, hevt, hdrive, hlevel, hregs, hdata⟩ := drivePin_shows (entPin_lt e) (entAct e != 2)
    { s with evt := { s.evt with applied := k.val + 1, pulses := p } }
  rw [hevt]
  exact ⟨rfl, hdrive, hlevel, hregs, hdata⟩

/-- The end of a pulse that is due drives its output low. -/
theorem ran_pulseEnd {n t : Nat} (hfind : s.evt.pulses.find? (fun e => e.1 == n) = some (n, t)) (hdue : t ≤ s.now)
    (hout : isOutput s n = true) : ran (doPulseEnd n) s = ran (drivePin n (some false))
      { s with evt := { s.evt with pulses := kvDel s.evt.pulses n } } := by
  have now : (decide (t ≤ s.now) && isOutput s n) = true := by simp [hdue, hout]
  rw [ran, doPulseEnd, run_get_bind, hfind]
  dsimp only
  rw [run_ite, if_pos now]
  rfl

theorem pulseEnd_drives {pin : Fin 16} {t : Nat} (hfind : s.evt.pulses.find? (fun e => e.1 == pin.val) = some (pin.val, t))
    (hdue : t ≤ s.now) (hout : isOutput s pin.val = true) : Leaves (.pulseEnd pin) s fun x =>
      x.evt.pulses = kvDel s.evt.pulses pin.val ∧ (kvGet (fun _ => none) x.evt.drive pin.val = some false) ∧
      (getF x R.EVT_LEVEL_PINS).testBit pin.val = false ∧ RegsKept [R.EVT_LEVEL_PINS.key] s x ∧ DataKept s x := by
  refine leaves_ran (m := doPulseEnd pin.val) rfl ?_
  rw [ran_pulseEnd hfind hdue hout]
  obtain ⟨d, hevt, hdrive, hlevel, hregs, hdata⟩ := drivePin_shows pin.isLt false
    { s with evt := { s.evt with pulses := kvDel s.evt.pulses pin.val } }
  rw [hevt]
  exact ⟨rfl, hdrive, hlevel, hregs, hdata⟩

end

/-- Settles O15: a selected edge is queued or lost, a record goes before the arbiter, a schedule is cut in order, and an output is
driven by a due entry and by the end of its pulse. -/
theorem eventUnit : Obligations.EventUnit :=
  ⟨fun _ _ _ hmode hon hland hsel hroom => inputEdge_queued hmode hon hland hsel hroom,
    fun _ _ _ hmode hon hland hsel hfull => inputEdge_lost hmode hon hland hsel hfull,
    fun _ _ _ hon hfifo hstop hstand hfresh hold hwin hhome hout =>
      captureWrite_queued hon hfifo hstop hstand hfresh hold hwin hhome hout,
    fun _ _ hon hdue hrel hfv => scheduleLoad_ordered hon hdue hrel hfv,
    fun _ _ _ hrun hon htook hk hfault he hbase hdue _ hout => entryApply_drives hrun hon htook hk hfault he hbase hdue hout,
    fun _ _ _ hfind hdue hout => pulseEnd_drives hfind hdue hout⟩

end Sys2Proof.Machine
end
